-- ==== Sys2Proof/Word.lean ====
section
/-! DEFINITION. The plain words of the LT832: bytes, stamps, the numbers of lanes and inputs, and fixed tables
indexed by them. Nothing here depends on a rule of the manual beyond the widths it names. -/

namespace Sys2Proof

/-- One byte of record memory or of a register. -/
abbrev Byte := BitVec 8

/-- A 16-bit field. -/
abbrev Half := BitVec 16

/-- A stamp (R29): the 8-bit epoch above the 32-bit tick count. -/
abbrev Stamp := BitVec 40

/-- A lane. Lane k of the manual (1 to 8) is the number k - 1. -/
abbrev Lane := Fin 8

/-- A marshal post. Post n of the manual (1 to 4) is the number n - 1. -/
abbrev Post := Fin 4

/-- A gate of a lane: 0 is the line, 1 to 3 the sector gates. -/
abbrev GateNo := Fin 4

/-- A gate input GI0 to GI31. -/
abbrev GateIn := Fin 32

/-- One value for each lane. -/
abbrev PerLane (α : Type) := Vector α 8

/-- The manual's number of a lane, 1 to 8. -/
def laneNo (k : Lane) : Nat := k.val + 1

/-- All lanes, lane 1 first. -/
def allLanes : List Lane := [0, 1, 2, 3, 4, 5, 6, 7]

/-- The entry of a fixed table at an index of its range. -/
def pick {α : Type} {n : Nat} (v : Vector α n) (k : Fin n) : α := v[k.val]'k.isLt

/-- A fixed table with one entry replaced. -/
def put {α : Type} {n : Nat} (v : Vector α n) (k : Fin n) (x : α) : Vector α n := v.set k.val x k.isLt

/-- A fixed table with one entry changed by a function. -/
def amend {α : Type} {n : Nat} (v : Vector α n) (k : Fin n) (f : α → α) : Vector α n := put v k (f (pick v k))

/-- A fixed table computed from its index. -/
def tabulate {α : Type} {n : Nat} (f : Fin n → α) : Vector α n := Vector.ofFn f

@[simp] theorem pick_put_same {α : Type} {n : Nat} (v : Vector α n) (k : Fin n) (x : α) :
    pick (put v k x) k = x := by
  simp [pick, put]

theorem pick_put_ne {α : Type} {n : Nat} (v : Vector α n) {k j : Fin n} (x : α) (h : j ≠ k) :
    pick (put v k x) j = pick v j := by
  have h' : k.val ≠ j.val := fun e => h (Fin.ext e.symm)
  simp [pick, put, h']

theorem pick_put {α : Type} {n : Nat} (v : Vector α n) (k j : Fin n) (x : α) :
    pick (put v k x) j = if j = k then x else pick v j := by
  by_cases h : j = k
  · subst h; simp
  · simp [h, pick_put_ne]

@[simp] theorem pick_amend_same {α : Type} {n : Nat} (v : Vector α n) (k : Fin n) (f : α → α) :
    pick (amend v k f) k = f (pick v k) := by
  simp [amend]

theorem pick_amend_ne {α : Type} {n : Nat} (v : Vector α n) {k j : Fin n} (f : α → α) (h : j ≠ k) :
    pick (amend v k f) j = pick v j := by
  simp [amend, pick_put_ne _ _ h]

theorem pick_amend {α : Type} {n : Nat} (v : Vector α n) (k j : Fin n) (f : α → α) :
    pick (amend v k f) j = if j = k then f (pick v k) else pick v j := by
  simp [amend, pick_put]

@[simp] theorem pick_tabulate {α : Type} {n : Nat} (f : Fin n → α) (k : Fin n) : pick (tabulate f) k = f k := by
  simp [pick, tabulate]

@[simp] theorem pick_replicate {α : Type} {n : Nat} (x : α) (k : Fin n) : pick (Vector.replicate n x) k = x := by
  simp [pick]

@[simp] theorem pick_map {α β : Type} {n : Nat} (v : Vector α n) (f : α → β) (k : Fin n) :
    pick (v.map f) k = f (pick v k) := by
  simp [pick]

theorem mem_allLanes (k : Lane) : k ∈ allLanes := by
  revert k; decide

end Sys2Proof
end

