-- ==== Sys2Proof/Syntax.lean ====
section
/-! DEFINITION. The commands of the LT832: one constructor of Instr for each row of spec/opcode_table.json, with the
operands the row's step needs. The table gives no operand fields: the operands here are the pins and bytes the rules
name (log 3), and the choices the manual leaves open inside one step (log 4, log 5). -/

namespace Sys2Proof

/-- The levels of the bus pins during one host access (R1). A strobe is true while its pin is low. -/
structure BusLines where
  csLow : Bool
  rdLow : Bool
  wrLow : Bool
  regselHigh : Bool
  addr : BitVec 15
  deriving DecidableEq, Repr

/-- When a host access to record memory comes against the device's own accesses (R2): whole, between two of the
device's steps, or inside a step that follows, once the device has made so many byte accesses since the host access
before it (log 5). -/
inductive Landing where
  | whole
  | inside (after : Nat)
  deriving DecidableEq, Repr

/-- A host read: the bus pins, and when it comes against the device's own accesses. -/
structure HostRead where
  bus : BusLines
  landing : Landing
  deriving DecidableEq, Repr

/-- The input pins as one tick samples them: raw levels, true for high (R38, R49, R51). -/
structure Sample where
  gi : BitVec 32
  dc : BitVec 8
  mp : BitVec 4
  dr : Bool
  dw : BitVec 8
  deriving DecidableEq, Repr

/-- What the two sources of the timebase do in time (R24, R26): a 100 ns unit of the internal oscillator passes, or a
rising edge of REFCLK comes. -/
inductive ClockEvent where
  | unit
  | edge
  deriving DecidableEq, Repr

/-- A stretch of time: what the two sources do in it, in order, and the input pins as a tick in it samples them. -/
structure ClockRun where
  pins : Sample
  events : List ClockEvent
  deriving DecidableEq, Repr

/-- One of the thirteen buttons (section 3.7). -/
inductive Button where
  | driver (k : Lane)
  | marshal (n : Post)
  | director
  deriving DecidableEq, Repr

/-- The works a service tick drives (R11, R13, R19, R46, R100, R103). -/
inductive ServiceJob where
  | slipScan
  | noticeRetry
  | lapBookRetry
  | statusRefresh
  | heatExamine
  | crossingTake
  deriving DecidableEq, Repr

/-- Orders the manual leaves open inside one step: which of several lanes a cut takes first, and whether a PUSH check
is taken before or after what else the same crossing hands on (R78, R144). -/
structure Orders where
  cuts : List Lane
  pushFirst : Bool
  deriving DecidableEq, Repr

/-- The commands: one for each row of the opcode table. -/
inductive Instr where
  | hardReset
  | memoryClearDone
  | softReset (data : Byte)
  | softResetEnd
  | hostMemoryRead (bus : HostRead)
  | hostMemoryWrite (bus : BusLines) (data : Byte) (landing : Landing)
  | sumWrite (data : Byte)
  | sumenWrite (data : Byte)
  | fltWrite (data : Byte)
  | fltenWrite (data : Byte)
  | lanesOff (data : Byte)
  | unusedRegisterWrite (offset : BitVec 3) (data : Byte)
  | refLost (pins : Sample)
  | warmupStart
  | refBack (run : ClockRun)
  | tickCountWrap (run : ClockRun)
  | serviceTick (jobs : List ServiceJob) (orders : Orders)
  | setup
  | start
  | call
  | resume
  | endHeat
  | abortHeat
  | penalise
  | pardon
  | adjust
  | retire
  | clearTally
  | slipBadKind
  | qualifiedBreak (input : GateIn)
  | breakReleased (input : GateIn)
  | gateStuck (input : GateIn)
  | driverCallPress (lane : Lane)
  | marshalPostPress (post : Post)
  | directorResumePress
  | buttonRelease (button : Button)
  | drawRise (lane : Lane)
  | drawFall (lane : Lane)
  | raceChangeTake (orders : Orders)
  | stall (lane : Lane)
  | gapEnd
  | countdownStep
  | greenEntry
  | drawRunEnd (lane : Lane)
  | timeLimit
  | runoutExpiry
  | resumeDone
  | lampFlash
  | haltExpiry (lane : Lane)
  | rampStep (lane : Lane)
  | chopPeriodStart
  | tick (run : ClockRun)
  | resetRisingEdge (refRunning : Bool)
  deriving DecidableEq, Repr

end Sys2Proof
end

