-- ==== Sys2Proof/Decode.lean ====
section
/-! DEFINITION. The command a table word spells. No row of spec/opcode_table.json gives bits (every row's "fields" is
empty and none has a match or a mask), so no word spells a command and the answer is none for every word. The slip
kinds and register offsets that do select a command stand in record memory and on the bus, and the meanings read them
there. -/

namespace Sys2Proof

/-- The command that a table word spells: none, for the table gives no row any bits. -/
def decodeTableWord (_nbits _w : Nat) : Option Instr := none

end Sys2Proof
end

