-- ==== Sys2Proof/Config.lean ====
section
/-! DEFINITION. What the LT832 fixes for good: the map of record memory (chapter 1) and the sizes and spans its
rules name. The model has no free value of its own: what the manual leaves open between steps is an operand of a
command (Syntax.lean). -/

namespace Sys2Proof.Config

/-- Bytes of record memory. -/
def memSize : Nat := 0x8000
def setupBase : Nat := 0x0000
def penaltyBase : Nat := 0x0100
def raceStatusBase : Nat := 0x0180
def slipBase : Nat := 0x0200
def cardBase : Nat := 0x0400
def laneStatusBase : Nat := 0x0C00
def noticeBase : Nat := 0x0E00
def tallyBase : Nat := 0x1600
def bookBase : Nat := 0x2000

/-- The first byte of slip i. -/
def slipAddr (i : Fin 32) : Nat := slipBase + 16 * i.val
/-- The first byte of heat entry i of the race card. -/
def entryAddr (i : Fin 32) : Nat := cardBase + 64 * i.val
/-- The first byte of a lane's status block. -/
def laneStatusAddr (k : Lane) : Nat := laneStatusBase + 64 * k.val
/-- The first byte of notice entry i. -/
def noticeAddr (i : Fin 128) : Nat := noticeBase + 16 * i.val
/-- The first byte of tally entry i. -/
def tallyAddr (i : Fin 64) : Nat := tallyBase + 32 * i.val
/-- The first byte of page p of a lane's lap book. -/
def pageAddr (k : Lane) (p : Fin 64) : Nat := bookBase + 0x800 * k.val + 32 * p.val
/-- The first byte of penalty row r. -/
def rowAddr (r : Fin 8) : Nat := penaltyBase + 16 * r.val

/-- Slips one scan takes at most (R13). -/
def scanLimit : Nat := 8
/-- Notices the hold queue holds (R18). -/
def noticeHold : Nat := 8
/-- Lap records a lane's hold queue holds (R99). -/
def lapHold : Nat := 4
/-- Crossings the crossing queue holds (R45). -/
def crossingHold : Nat := 64
/-- Crossings the lap engine takes at one service tick (R46). -/
def takeLimit : Nat := 8
/-- Entries a lane's pending queue holds (R148). -/
def pendingHold : Nat := 8
/-- Ticks after its start by which the memory clear has ended (R21, 5 ms). -/
def clearTicks : Nat := 500
/-- REFCLK cycles of a warm-up (R27). -/
def warmupCycles : Nat := 65536
/-- The 100 ns units in which an absent reference is detected (R26, 2 µs). -/
def lossUnits : Nat := 20
/-- The stuck time, ms (R43). -/
def stuckMs : Nat := 5000
/-- Samples at the other level that move a button's debounced level (R49). -/
def buttonRun : Nat := 2001
/-- Samples at the other level that move a draw input's debounced level (R51). -/
def drawRun : Nat := 201
/-- Half a period of the amber flash, ms (R140). -/
def flashMs : Nat := 250
/-- Ticks before a service tick (R33). -/
def serviceTicks : Nat := 100

end Sys2Proof.Config
end

