-- ==== Sys2Proof/Machine/State.lean ====
section
/-! DEFINITION. The state of the LT832 as plain data: record memory, the host port, and the state each of the eight
blocks of the manual owns, each field under the manual's own name; and the state in a hard reset. Fields that are the
model's own, none of the manual's, say so. -/

namespace Sys2Proof.Machine

/-- Reasons a command could stop with a fault. The manual names none: no command of the LT832 stops the device, and
an access outside record memory cannot be spelt on A14 to A0. The type is empty, which is safe: no fault can be raised. -/
inductive Fault where
  deriving DecidableEq, Repr

/-- Reasons a command could be refused. -/
inductive Refusal where
  /-- Raised only by an arm of exec whose command has no meaning yet, with the row's mnemonic. No arm does. Safe. -/
  | notModelled (mnemonic : String)
  deriving DecidableEq, Repr

/-- Record memory: the bytes that are not 0, by rising address. Every byte that is not listed reads 0 (R21). -/
abbrev Memory := List Host.Cell

/-- Where the device is in a start-up (R21, R22). -/
inductive Phase where
  /-- RESET# is low, or the supply is coming up. -/
  | inReset
  /-- The memory clear of a hard reset is in progress. -/
  | clearing
  /-- SUM.STARTED has been set since the last reset. -/
  | running
  /-- A soft reset is in progress. -/
  | softReset
  deriving DecidableEq, Repr

/-! ### Timebase -/

inductive RefState where
  | warmup
  | locked
  | fallback
  deriving DecidableEq, Repr

/-- The timebase (chapter 2). -/
structure Timebase where
  refState : RefState
  warmupCount : Nat
  /-- The 100 ns units measured since the last REFCLK rising edge, in WARMUP and LOCKED (R26). -/
  quiet : Fin 20
  /-- Tick prescaler, 100 ns units (R24). -/
  prescaler : Fin 100
  tickCount : BitVec 32
  epoch : BitVec 8
  lockStamp : Option Stamp
  unlockStamp : Option Stamp
  servicePrescaler : Nat
  racingTicks : Nat
  /-- The stamp at which the racing tick count last began to run (R35). -/
  racingSince : Stamp
  /-- The model's own: the racing tick count grew at the present tick (R36, R81). -/
  raced : Bool
  /-- The model's own: the race returned to IDLE at the present tick, so that the card is examined at a later service
  tick (R118, R120). -/
  idleNow : Bool
  /-- The model's own: the tick count has wrapped at this tick and TICK_COUNT_WRAP has not been taken (R30). -/
  wrapDue : Bool
  /-- The model's own: this tick is a service tick and SERVICE_TICK has not been taken (R33). -/
  serviceDue : Bool
  /-- The model's own: slips the scan of this service tick may still take (R13). -/
  scanLeft : Nat
  deriving DecidableEq, Repr

/-! ### Gate front end -/

inductive FilterPhase where
  | quiet
  | arming
  | broken
  | clearing
  deriving DecidableEq, Repr

/-- What the setup gate map assigns to an input. -/
structure GateMapping where
  lane : Lane
  gate : GateNo
  /-- Reflective polarity: active high. -/
  activeHigh : Bool
  deriving DecidableEq, Repr

/-- One gate input (chapter 3). -/
structure InputRec where
  mapping : Option GateMapping
  phase : FilterPhase
  count : Nat
  onset : Option Stamp
  release : Option Stamp
  holdOffEnd : Option Stamp
  stuck : Bool
  deriving DecidableEq, Repr

/-- A crossing: one beam break at one gate. -/
structure Crossing where
  stamp : Stamp
  lane : Lane
  gate : GateNo
  deriving DecidableEq, Repr

/-- A debounced input: its level and its run count (R49). -/
structure Debounce where
  level : Bool
  run : Nat
  deriving DecidableEq, Repr

/-- The gate front end (chapter 3). -/
structure GateFront where
  inputs : Vector InputRec 32
  /-- Hold-off, ms; none while no setup is loaded. -/
  holdOff : Option Nat
  queue : List Crossing
  driver : PerLane Debounce
  marshal : Vector Debounce 4
  director : Debounce
  draw : PerLane Debounce
  deriving DecidableEq, Repr

/-! ### Race control -/

inductive RaceState where
  | idle
  | staged
  | countdown
  | green
  | called
  | resuming
  | runout
  deriving DecidableEq, Repr

inductive CalledFrom where
  | none
  | green
  | runout
  deriving DecidableEq, Repr

inductive EndMode where
  | time
  | laps
  | both
  deriving DecidableEq, Repr

inductive CallSource where
  | driver
  | marshal
  | raceDesk
  | stall
  deriving DecidableEq, Repr

/-- The staged heat's programme, as clamped at staging (R105). -/
structure HeatSnapshot where
  label : Byte
  startHeld : Bool
  gridOn : Bool
  endMode : EndMode
  liveGrid : Bool
  callsAllowed : Nat
  timeLimit : Nat
  lapLimit : Nat
  runoutLimit : Nat
  minLap : Nat
  gap : Nat
  racers : PerLane Byte
  caps : PerLane Nat
  deriving DecidableEq, Repr

/-- A lane's draw run (R128): none, being timed from a stamp, or timed out in this countdown. -/
inductive DrawRun where
  | idle
  | timing (begin : Stamp)
  | spent
  deriving DecidableEq, Repr

/-- The times race control takes from the setup (R17), ms. -/
structure RaceTimes where
  jumpDraw : Nat
  resumeDelay : Nat
  countdownStep : Nat
  holdMin : Nat
  holdSpan : Nat
  deriving DecidableEq, Repr

/-- Race control (chapters 6 and 7). -/
structure RaceControl where
  state : RaceState
  calledFrom : CalledFrom
  cardCursor : Fin 32
  snapshot : Option HeatSnapshot
  stagedStamp : Stamp
  timeLimitWatch : Bool
  runoutDeadline : Option Nat
  /-- The wait of R114 step 5 for the run-out deadline is on; it is over once the cut is handed (R116). -/
  runoutWait : Bool
  runoutBackup : Nat
  finishedSet : PerLane Bool
  countdownStamp : Option Stamp
  countdownStep : Nat
  hold : Nat
  lfsr : Option Half
  jumpMarks : PerLane Bool
  drawRuns : PerLane DrawRun
  resumeStart : Option Stamp
  callCount : Nat
  callsUsed : PerLane Nat
  lastCallSource : Option CallSource
  /-- Last call lane or post, as race status shows it. -/
  lastCallWho : Nat
  /-- Lamp outputs: bits 0 to 4 LR1 to LR5, bit 5 LA, bit 6 LG; 1 lit. -/
  lamps : BitVec 7
  /-- The stamp at which the running half-period of the amber flash began (R140); absent while LA does not flash. -/
  flashStart : Option Stamp
  /-- Countdown step time, hold minimum and span, jump draw time, resume delay; none before a SETUP. -/
  times : Option RaceTimes
  deriving DecidableEq, Repr

/-! ### Lap engine -/

inductive LaneState where
  | vacant
  | grid
  | lapping
  | hunt
  | finished
  deriving DecidableEq, Repr

/-- Three split slots, each a 24-bit time or absent (R88). -/
structure Splits where
  one : Option Nat
  two : Option Nat
  three : Option Nat
  deriving DecidableEq, Repr

/-- A lap record (R94), less the lost field it takes at acceptance. -/
structure LapRecord where
  flags : Byte
  lane : Nat
  racer : Byte
  label : Byte
  position : Nat
  tallies : Nat
  lapNumber : Nat
  net : Nat
  frozen : Nat
  splits : Splits
  stamp : Stamp
  deriving DecidableEq, Repr

/-- A lap record accepted into a book's hold queue, with its lost field (R99). -/
structure HeldLap where
  record : LapRecord
  lost : Nat
  deriving DecidableEq, Repr

/-- One lane of the lap engine (chapters 4 and 5). -/
structure LapLane where
  state : LaneState
  expected : Nat
  last : Nat
  lapStart : Stamp
  lastCrossing : Stamp
  lastLine : Option Stamp
  callMarker : Bool
  cutMark : Bool
  missMark : Bool
  unverified : Bool
  laps : Nat
  lapTally : Nat
  discardTally : Nat
  jumpMark : Bool
  stallRef : Nat
  stalled : Bool
  haltInSector : Bool
  huntFlag : Bool
  freezeOpen : Bool
  sectorFrozen : Nat
  lapFrozen : Nat
  splits : Splits
  haltService : Bool
  capService : Bool
  bestLap : Nat
  bestSplits : Splits
  pageCursor : Fin 64
  bookQueue : List HeldLap
  bookLost : Nat
  deriving DecidableEq, Repr

/-- A lane's geometry from the setup: its gate count and the positions of gates 1 to 3, milli-laps. -/
structure Geometry where
  gateCount : Nat
  pos1 : Nat
  pos2 : Nat
  pos3 : Nat
  deriving DecidableEq, Repr

/-- What a change of race state carries to the lap engine (the table of R54). -/
inductive ChangeKind where
  | staging (label : Byte) (gridOn : Bool) (minLap : Nat) (racers : PerLane Byte)
  | countdown
  | restaged
  | green
  | called (callFrom : CalledFrom)
  | resuming
  | resumed (backTo : RaceState)
  | runout
  | cutUnfinished
  | retire (lane : Lane)
  | abort
  | settle
  deriving DecidableEq, Repr

/-- A race change waiting for the lap engine, with its stamp (R54). -/
structure Change where
  kind : ChangeKind
  stamp : Stamp
  deriving DecidableEq, Repr

/-- The race state as of the last change the lap engine has taken. -/
structure RaceView where
  state : RaceState
  calledFrom : CalledFrom
  goneGreen : Bool
  deriving DecidableEq, Repr

/-- Miss tolerance, stall time and auto-call on stall, from the setup (R17). -/
structure LapSetup where
  missTolerance : Nat
  stallTime : Nat
  autoCall : Bool
  deriving DecidableEq, Repr

/-- The lap engine. -/
structure LapEngine where
  lanes : PerLane LapLane
  view : RaceView
  changes : List Change
  label : Byte
  gridOn : Bool
  minLap : Nat
  racers : PerLane Byte
  geometry : PerLane Geometry
  /-- None before a SETUP. -/
  setup : Option LapSetup
  freezeStamp : Option Stamp
  deriving DecidableEq, Repr

/-! ### Penalty unit -/

inductive Response where
  | none
  | warn
  | halt
  | cap
  | laps
  | time
  deriving DecidableEq, Repr

/-- One row of the penalty table snapshot, read by R12 and clamped by R143. -/
structure PenaltyRow where
  response : Response
  amount : Nat
  duty : Nat
  warnLimit : Nat
  escResponse : Response
  escAmount : Nat
  escDuty : Nat
  fbResponse : Response
  fbAmount : Nat
  deriving DecidableEq, Repr

inductive ServiceKind where
  | halt
  | cap
  deriving DecidableEq, Repr

/-- A pending or serving entry (chapter 8). -/
structure PenEntry where
  serial : Half
  trigger : Fin 8
  kind : ServiceKind
  amount : Nat
  duty : Nat
  callStamp : Stamp
  deriving DecidableEq, Repr

/-- One lane of the penalty unit. -/
structure PenLane where
  racer : Byte
  finished : Bool
  warnings : Vector Nat 8
  deducted : Nat
  timePenalty : Nat
  queue : List PenEntry
  serving : Option PenEntry
  serveStamp : Stamp
  haltEnd : Nat
  capRemaining : Nat
  pushMark : Bool
  deriving DecidableEq, Repr

/-- The penalty unit. -/
structure PenaltyUnit where
  table : Option (Vector PenaltyRow 8)
  /-- Coast grace, ms; none before a SETUP. -/
  coastGrace : Option Nat
  heatStaged : Bool
  serial : Half
  /-- The heat label its notices carry, from the heat snapshot (R146). -/
  label : Byte
  lanes : PerLane PenLane
  deriving DecidableEq, Repr

/-! ### Lane power -/

inductive OutMode where
  | off
  | on
  | chopped
  deriving DecidableEq, Repr

/-- One lane of lane power (chapter 9). -/
structure PowerLane where
  occupied : Bool
  finished : Bool
  cardCap : Nat
  serving : Option ServiceKind
  capDuty : Nat
  cond : Bool
  rampStart : Option Stamp
  duty : Nat
  mode : OutMode
  /-- The duty of the chop period in progress (R165). -/
  pinDuty : Nat
  /-- The model's own: the duty with which the chop period that starts at this tick is entered, as it stood at the tick;
  none for an output that is off (R165). -/
  nextPin : Option Nat
  deriving DecidableEq, Repr

/-- Lane power. -/
structure LanePower where
  state : RaceState
  liveGrid : Bool
  /-- Ramp time, ms; none before a SETUP. -/
  rampTime : Option Nat
  chopCounter : Fin 50
  /-- The model's own: the chop counter has returned to 0 at this tick and CHOP_PERIOD_START has not been taken (R164). -/
  chopDue : Bool
  lanes : PerLane PowerLane
  deriving DecidableEq, Repr

/-! ### Standings -/

/-- One lane of standings (chapter 10). -/
structure StandLane where
  position : Nat
  finished : Bool
  partialDist : Nat
  retireMark : Bool
  retired : Bool
  deriving DecidableEq, Repr

/-- Standings. -/
structure Standings where
  order : List Lane
  label : Byte
  racers : PerLane Byte
  lanes : PerLane StandLane
  deriving DecidableEq, Repr

/-! ### Host port -/

inductive NoticeKind where
  | heat
  | call
  | resume
  | penalty
  | serve
  | served
  | convert
  | anomaly
  | stall
  | clock
  deriving DecidableEq, Repr

/-- A notice as it arrives at the record memory block (R18). -/
structure Notice where
  kind : NoticeKind
  subcode : Nat
  lane : Nat
  racer : Byte
  label : Byte
  stamp : Stamp
  a : Nat
  b : Nat
  deriving DecidableEq, Repr

/-- A notice accepted into the hold queue, with its lost field (R18). -/
structure HeldNotice where
  notice : Notice
  lost : Nat
  deriving DecidableEq, Repr

/-- A host access to record memory that waits for its turn between two of the device's byte accesses (R2, log 5). -/
structure HostTurn where
  /-- The device's byte accesses still to come before it, after the turn ahead of it. -/
  after : Nat
  addr : BitVec 15
  /-- The byte of a write; none for a read. -/
  data : Option Byte
  deriving DecidableEq, Repr

/-- The record memory block's own state and the five registers (chapter 1). -/
structure HostPort where
  /-- The direct causes of SUM, bits 0 to 3; SUM.FAULT is computed (R4). -/
  sum : Byte
  sumen : Byte
  flt : Byte
  flten : Byte
  /-- CTL; only LANES_OFF, bit 1, is ever held. -/
  ctl : Byte
  slipCursor : Fin 32
  noticeCursor : Fin 128
  noticeQueue : List HeldNotice
  noticeLost : Nat
  noticeSerial : Half
  setupLoaded : Bool
  /-- The model's own: host accesses that come between byte accesses of the device's steps to come, in order (R2). -/
  turns : List HostTurn
  /-- D7 to D0 as the device drove them at the host's last access; none where it left them undriven (R1). -/
  dataOut : Option Byte
  /-- The model's own: the bytes driven for host reads that came between the device's byte accesses, oldest first, since
  the first of the turns last given was given. -/
  turnReads : List Byte
  deriving DecidableEq, Repr

/-! ### The whole -/

/-- The state of the LT832. -/
structure State where
  /-- The model's own: the commands that wait, first in, first out. -/
  pending : List Instr
  phase : Phase
  mem : Memory
  port : HostPort
  time : Timebase
  gates : GateFront
  race : RaceControl
  laps : LapEngine
  pen : PenaltyUnit
  power : LanePower
  stand : Standings
  /-- The input pins at the last tick. -/
  pins : Sample
  deriving DecidableEq, Repr

/-! ### One block changed -/

def State.onPort (f : HostPort → HostPort) (s : State) : State := { s with port := f s.port }
def State.onTime (f : Timebase → Timebase) (s : State) : State := { s with time := f s.time }
def State.onGates (f : GateFront → GateFront) (s : State) : State := { s with gates := f s.gates }
def State.onRace (f : RaceControl → RaceControl) (s : State) : State := { s with race := f s.race }
def State.onLaps (f : LapEngine → LapEngine) (s : State) : State := { s with laps := f s.laps }
def State.onPen (f : PenaltyUnit → PenaltyUnit) (s : State) : State := { s with pen := f s.pen }
def State.onPower (f : LanePower → LanePower) (s : State) : State := { s with power := f s.power }
def State.onStand (f : Standings → Standings) (s : State) : State := { s with stand := f s.stand }
def State.onMem (f : Memory → Memory) (s : State) : State := { s with mem := f s.mem }
def State.onInput (n : GateIn) (f : InputRec → InputRec) (s : State) : State :=
  s.onGates fun g => { g with inputs := amend g.inputs n f }
def State.onLapLane (k : Lane) (f : LapLane → LapLane) (s : State) : State :=
  s.onLaps fun l => { l with lanes := amend l.lanes k f }
def State.onPenLane (k : Lane) (f : PenLane → PenLane) (s : State) : State :=
  s.onPen fun p => { p with lanes := amend p.lanes k f }
def State.onPowerLane (k : Lane) (f : PowerLane → PowerLane) (s : State) : State :=
  s.onPower fun p => { p with lanes := amend p.lanes k f }
def State.onStandLane (k : Lane) (f : StandLane → StandLane) (s : State) : State :=
  s.onStand fun p => { p with lanes := amend p.lanes k f }

/-- A lane of the lap engine. -/
def State.lap (s : State) (k : Lane) : LapLane := pick s.laps.lanes k
/-- A lane of the penalty unit. -/
def State.penLane (s : State) (k : Lane) : PenLane := pick s.pen.lanes k
/-- A lane of lane power. -/
def State.powerLane (s : State) (k : Lane) : PowerLane := pick s.power.lanes k
/-- A lane of standings. -/
def State.standLane (s : State) (k : Lane) : StandLane := pick s.stand.lanes k
/-- A gate input. -/
def State.input (s : State) (n : GateIn) : InputRec := pick s.gates.inputs n
/-- A lane's geometry. -/
def State.geom (s : State) (k : Lane) : Geometry := pick s.laps.geometry k

/-! ### Reset -/

/-- Absent splits. -/
def Splits.absent : Splits := { one := none, two := none, three := none }

/-- The host port after a hard reset (R13, R17, R20, section 1.2). -/
def HostPort.reset : HostPort :=
  { sum := 0, sumen := 0, flt := 0, flten := 0, ctl := 0, slipCursor := 0, noticeCursor := 0, noticeQueue := [],
    noticeLost := 0, noticeSerial := 0, setupLoaded := false, turns := [], dataOut := none, turnReads := [] }

/-- The timebase after a hard reset (R37). Its reference state is taken anew when RESET# rises (log 2). -/
def Timebase.reset : Timebase :=
  { refState := .fallback, warmupCount := 0, quiet := 0, prescaler := 0, tickCount := 0, epoch := 0, lockStamp := none,
    unlockStamp := none, servicePrescaler := 0, racingTicks := 0, racingSince := 0, raced := false, idleNow := false,
    wrapDue := false, serviceDue := false, scanLeft := 0 }

/-- A gate input that is not mapped (R38, R48). -/
def InputRec.quiet (m : Option GateMapping) : InputRec :=
  { mapping := m, phase := .quiet, count := 0, onset := none, release := none, holdOffEnd := none, stuck := false }

/-- A button or draw input after a reset (R53). -/
def Debounce.reset : Debounce := { level := false, run := 0 }

/-- The gate front end after a reset (R48, R53). -/
def GateFront.reset : GateFront :=
  { inputs := Vector.replicate 32 (InputRec.quiet none), holdOff := none, queue := [],
    driver := Vector.replicate 8 Debounce.reset, marshal := Vector.replicate 4 Debounce.reset,
    director := Debounce.reset, draw := Vector.replicate 8 Debounce.reset }

/-- Race control after a reset (R122, R141). -/
def RaceControl.reset : RaceControl :=
  { state := .idle, calledFrom := .none, cardCursor := 0, snapshot := none, stagedStamp := 0, timeLimitWatch := false,
    runoutDeadline := none, runoutWait := false, runoutBackup := 0, finishedSet := Vector.replicate 8 false,
    countdownStamp := none, countdownStep := 0, hold := 0, lfsr := none, jumpMarks := Vector.replicate 8 false,
    drawRuns := Vector.replicate 8 .idle, resumeStart := none, callCount := 0, callsUsed := Vector.replicate 8 0,
    lastCallSource := none, lastCallWho := 0, lamps := 0, flashStart := none, times := none }

/-- A lane of the lap engine after a reset (R61, R97, R102). -/
def LapLane.reset : LapLane :=
  { state := .vacant, expected := 0, last := 0, lapStart := 0, lastCrossing := 0, lastLine := none,
    callMarker := false, cutMark := false, missMark := false, unverified := false, laps := 0, lapTally := 0,
    discardTally := 0, jumpMark := false, stallRef := 0, stalled := false, haltInSector := false, huntFlag := false,
    freezeOpen := false, sectorFrozen := 0, lapFrozen := 0, splits := Splits.absent, haltService := false,
    capService := false, bestLap := 0, bestSplits := Splits.absent, pageCursor := 0, bookQueue := [], bookLost := 0 }

/-- The lap engine after a reset (R61, R97). -/
def LapEngine.reset : LapEngine :=
  { lanes := Vector.replicate 8 LapLane.reset, view := { state := .idle, calledFrom := .none, goneGreen := false },
    changes := [], label := 0, gridOn := false, minLap := 0, racers := Vector.replicate 8 0,
    geometry := Vector.replicate 8 { gateCount := 0, pos1 := 0, pos2 := 0, pos3 := 0 }, setup := none,
    freezeStamp := none }

/-- A lane of the penalty unit after a reset (R161). -/
def PenLane.reset : PenLane :=
  { racer := 0, finished := false, warnings := Vector.replicate 8 0, deducted := 0, timePenalty := 0, queue := [],
    serving := none, serveStamp := 0, haltEnd := 0, capRemaining := 0, pushMark := false }

/-- The penalty unit after a reset (R161). -/
def PenaltyUnit.reset : PenaltyUnit :=
  { table := none, coastGrace := none, heatStaged := false, serial := 0, label := 0,
    lanes := Vector.replicate 8 PenLane.reset }

/-- A lane of lane power after a reset (R171). -/
def PowerLane.reset : PowerLane :=
  { occupied := false, finished := false, cardCap := 0, serving := none, capDuty := 0, cond := false,
    rampStart := none, duty := 0, mode := .off, pinDuty := 0, nextPin := none }

/-- Lane power after a reset (R171). -/
def LanePower.reset : LanePower :=
  { state := .idle, liveGrid := false, rampTime := none, chopCounter := 0, chopDue := false,
    lanes := Vector.replicate 8 PowerLane.reset }

/-- A lane of standings after a reset (R184). -/
def StandLane.reset : StandLane :=
  { position := 0, finished := false, partialDist := 0, retireMark := false, retired := false }

/-- Standings after a reset (R184). -/
def Standings.reset : Standings :=
  { order := [], label := 0, racers := Vector.replicate 8 0, lanes := Vector.replicate 8 StandLane.reset }

/-- Input pins at rest: buttons released (high), gate and draw inputs low (log 2). -/
def restPins : Sample := { gi := 0, dc := 0xFF, mp := 0xF, dr := true, dw := 0 }

/-- The LT832 in a hard reset: RESET# low, or the supply coming up (R21). RESET_RISING_EDGE starts the tick count and
the memory clear, and MEMORY_CLEAR_DONE sets SUM.STARTED (log 1). -/
def State.reset : State :=
  { pending := [], phase := .inReset, mem := [], port := HostPort.reset, time := Timebase.reset,
    gates := GateFront.reset, race := RaceControl.reset, laps := LapEngine.reset, pen := PenaltyUnit.reset,
    power := LanePower.reset, stand := Standings.reset, pins := restPins }

end Sys2Proof.Machine
end

