-- ==== Sys2Proof/Machine/Operands.lean ====
section
/-! DEFINITION. Arithmetic over stamps, durations and stored fields: every comparison and narrowing the rules use. -/

namespace Sys2Proof.Machine

/-- The interval from stamp a to stamp b, in ticks, modulo 2^40 (R31). -/
def interval (a b : Stamp) : Nat := (b - a).toNat

/-- Stamp b is later than stamp a (R31). -/
def isLater (a b : Stamp) : Bool := decide (0 < interval a b) && decide (interval a b < 2 ^ 39)

/-- Stamp b is at or after stamp a (R31). -/
def atOrAfter (a b : Stamp) : Bool := decide (a = b) || isLater a b

/-- The later of two stamps (R31). Of two stamps exactly 2^39 apart neither is later than the other by R31, and they are
not equal: the first is then answered (DESIGN CHOICE, log 31). -/
def laterOf (a b : Stamp) : Stamp := if isLater a b then b else a

/-- A stamp a number of milliseconds after another; one millisecond is 100 ticks (R34). -/
def stampAfter (a : Stamp) (ms : Nat) : Stamp := a + BitVec.ofNat 40 (100 * ms)

/-- A real-time duration of so many milliseconds started at a has ended by stamp b (R34). -/
def durationEnded (a : Stamp) (ms : Nat) (b : Stamp) : Bool := decide (100 * ms ≤ interval a b)

/-- A value clamped to a range: outside it, the nearer end. -/
def clamp (lo hi n : Nat) : Nat := max lo (min n hi)

/-- A counter raised by n that holds at its largest value. -/
def raise (top c n : Nat) : Nat := min top (c + n)

/-- A value stored in a 32-bit field (R32). -/
def sat32 (n : Nat) : Nat := min n 0xFFFFFFFF

/-- A value stored in a 16-bit field (R32). -/
def sat16 (n : Nat) : Nat := min n 65535

/-- A net sector time stored in a 24-bit field, where 0xFFFFFF means absent (R32). -/
def split24 (n : Nat) : Nat := if 0xFFFFFF ≤ n then 0xFFFFFE else n

/-- The bytes of a number, most significant first. -/
def bytesOf (len n : Nat) : List Byte :=
  (List.range len).map fun i => BitVec.ofNat 8 (n / 256 ^ (len - 1 - i))

/-- The number that bytes spell, most significant first. -/
def natOf (bs : List Byte) : Nat := bs.foldl (fun acc b => 256 * acc + b.toNat) 0

/-- The five bytes of a stamp: epoch, then tick count. -/
def stampBytes (a : Stamp) : List Byte := bytesOf 5 a.toNat

/-- A split slot as three bytes; 0xFFFFFF where it is absent. -/
def splitBytes (x : Option Nat) : List Byte := bytesOf 3 (x.getD 0xFFFFFF)

/-- The three slots as nine bytes. -/
def splitsBytes (x : Splits) : List Byte := splitBytes x.one ++ splitBytes x.two ++ splitBytes x.three

/-- The slot of a sector; none for a sector that has no slot (R88). -/
def Splits.slot (x : Splits) (sector : Nat) : Option Nat :=
  if sector = 1 then x.one else if sector = 2 then x.two else if sector = 3 then x.three else none

/-- A slot written; a sector with no slot changes nothing (R89). -/
def Splits.store (x : Splits) (sector : Nat) (v : Option Nat) : Splits :=
  if sector = 1 then { x with one := v } else if sector = 2 then { x with two := v }
  else if sector = 3 then { x with three := v } else x

/-- One step of the LFSR (R123). -/
def lfsrStep (v : Half) : Half :=
  let feedback := ((v.getLsbD 15 ^^ v.getLsbD 13) ^^ v.getLsbD 12) ^^ v.getLsbD 10
  (v <<< 1) ||| (if feedback then 1 else 0)

/-- So many steps of the LFSR. -/
def lfsrSteps : Nat → Half → Half
  | 0, v => v
  | n + 1, v => lfsrSteps n (lfsrStep v)

/-- The position of a gate of a lane, milli-laps from the line: 0 for G0 (R175). -/
def Geometry.position (g : Geometry) (gate : Nat) : Nat :=
  if gate = 1 then g.pos1 else if gate = 2 then g.pos2 else if gate = 3 then g.pos3 else 0

/-- A bit of a byte as a flag. -/
def flagBit (b : Bool) (n : Nat) : Byte := if b then (1 : Byte) <<< n else 0

/-- An order chosen, completed with what it leaves out in the given order; each entry once. -/
def completeOrder {α : Type} [DecidableEq α] (chosen all : List α) : List α :=
  chosen.eraseDups ++ all.filter fun a => decide (a ∉ chosen)

/-- Codes shown in race status (section 1.4). -/
def RaceState.code : RaceState → Nat
  | .idle => 0 | .staged => 1 | .countdown => 2 | .green => 3 | .called => 4 | .resuming => 5 | .runout => 6
def CalledFrom.code : CalledFrom → Nat
  | .none => 0 | .green => 3 | .runout => 6
def RefState.code : RefState → Nat
  | .warmup => 0 | .locked => 1 | .fallback => 2
def LaneState.code : LaneState → Nat
  | .vacant => 0 | .grid => 1 | .lapping => 2 | .hunt => 3 | .finished => 4
def CallSource.code : CallSource → Nat
  | .driver => 1 | .marshal => 2 | .raceDesk => 3 | .stall => 4
def Response.code : Response → Nat
  | .none => 0 | .warn => 1 | .halt => 2 | .cap => 3 | .laps => 4 | .time => 5
def ServiceKind.code : ServiceKind → Nat
  | .halt => 2 | .cap => 3
def NoticeKind.code : NoticeKind → Nat
  | .heat => 1 | .call => 2 | .resume => 3 | .penalty => 4 | .serve => 5 | .served => 6 | .convert => 7
  | .anomaly => 8 | .stall => 9 | .clock => 10

/-- The race state in which racing goes on (R35): GREEN or RUNOUT. -/
def RaceState.racing : RaceState → Bool
  | .green => true
  | .runout => true
  | _ => false

/-- CALLED or RESUMING. -/
def RaceState.frozen : RaceState → Bool
  | .called => true
  | .resuming => true
  | _ => false

/-- GREEN, CALLED, RESUMING or RUNOUT. -/
def RaceState.afterGreen (r : RaceState) : Bool := r.racing || r.frozen

/-- The state a resume returns to (R138). -/
def CalledFrom.target : CalledFrom → RaceState
  | .runout => .runout
  | _ => .green

/-- The run-out phase as the lap engine's view has it (R77). -/
def RaceView.runoutPhase (v : RaceView) : Bool :=
  decide (v.state = .runout) || (v.state.frozen && decide (v.calledFrom = .runout))

end Sys2Proof.Machine
end

