-- ==== Sys2Proof/Machine/Flags.lean ====
section
/-! DEFINITION. The registers' cause bits and IRQ#, and the flag bytes of lap pages and lane status. -/

namespace Sys2Proof.Machine

/-! ### Registers (section 1.4) -/

def sumStarted : Byte := 0x01
def sumSlip : Byte := 0x02
def sumPage : Byte := 0x04
def sumNotice : Byte := 0x08
def sumFault : Byte := 0x10
def fltRefLost : Byte := 0x01
def fltGateOverrun : Byte := 0x02
def fltLapLoss : Byte := 0x04
def fltNoticeLoss : Byte := 0x08
def ctlLanesOff : Byte := 0x02

/-- SUM.FAULT (R4): FLT and FLTEN have a set bit in common. -/
def faultSummary (p : HostPort) : Bool := decide (p.flt &&& p.flten ≠ 0)

/-- SUM as the host reads it: the direct causes and FAULT (R4). -/
def sumValue (p : HostPort) : Byte := p.sum ||| (if faultSummary p then sumFault else 0)

/-- IRQ# is driven low while SUM and SUMEN have a set bit in common (R5). -/
def irqLow (p : HostPort) : Bool := decide (sumValue p &&& p.sumen ≠ 0)

/-- A direct cause of SUM set (R4). -/
def HostPort.setSum (bit : Byte) (p : HostPort) : HostPort := { p with sum := p.sum ||| bit }

/-- A fault cause set (R6). -/
def HostPort.setFlt (bit : Byte) (p : HostPort) : HostPort := { p with flt := p.flt ||| bit }

/-- A host write of SUM: each direct cause written as 1 is cleared (R4). -/
def HostPort.clearSum (d : Byte) (p : HostPort) : HostPort := { p with sum := p.sum &&& ~~~d &&& 0x0F }

/-- A host write of FLT: each fault cause written as 1 is cleared (R6). -/
def HostPort.clearFlt (d : Byte) (p : HostPort) : HostPort := { p with flt := p.flt &&& ~~~d &&& 0x0F }

/-- CTL.LANES_OFF (R7). -/
def HostPort.lanesOff (p : HostPort) : Bool := p.ctl.getLsbD 1

/-- A register as the host reads it; offsets 5 to 7 read 0 (R3). SOFT_RESET reads 0 at all times (R7). -/
def registerValue (offset : BitVec 3) (p : HostPort) : Byte :=
  match offset.toNat with
  | 0 => sumValue p
  | 1 => p.sumen
  | 2 => p.flt
  | 3 => p.flten
  | 4 => p.ctl &&& ctlLanesOff
  | _ => 0

/-! ### Flag bytes -/

/-- The flags of a lap page (section 1.4, R92). -/
def lapFlags (cut miss unverified best cap halt degraded called : Bool) : Byte :=
  flagBit cut 0 ||| flagBit miss 1 ||| flagBit unverified 2 ||| flagBit best 3 ||| flagBit cap 4 |||
    flagBit halt 5 ||| flagBit degraded 6 ||| flagBit called 7

/-- The flags of a lane status block (section 1.4). -/
def laneFlags (retired halted capped stalled hunt : Bool) : Byte :=
  flagBit retired 0 ||| flagBit halted 1 ||| flagBit capped 2 ||| flagBit stalled 3 ||| flagBit hunt 4

/-- LR1 to LRk lit, the rest dark (R140). -/
def redLamps (k : Nat) : BitVec 7 := BitVec.ofNat 7 (2 ^ min k 5 - 1)

def lampsDark : BitVec 7 := 0
def lampAmber : BitVec 7 := 0x20
def lampGreen : BitVec 7 := 0x40

/-- The lamps of a race state in which they stand still (R140); in CALLED, LA as it is at the call. -/
def lampsFor : RaceState → BitVec 7
  | .idle => lampsDark
  | .staged => lampsDark
  | .countdown => lampsDark
  | .green => lampGreen
  | .called => lampAmber
  | .resuming => lampAmber
  | .runout => lampGreen ||| redLamps 1

end Sys2Proof.Machine
end

