-- ==== Sys2Proof/Machine/Ops.lean ====
section
/-! DEFINITION. The named operations over record memory, the clocks and the notice list that every block uses. An
LT832 has no exception entry: what a command raises is a cause bit and a notice (sections 1.2 and 1.7). -/

namespace Sys2Proof.Machine

open Config

/-! ### Record memory -/

/-- The byte at an address; a byte that is not listed reads 0 (R21). -/
def Memory.read (m : Memory) (a : Nat) : Byte := (m.lookup a).getD 0

/-- The cells that bytes from an address on make: those inside record memory that are not 0. -/
def cellsFrom : Nat → List Byte → Memory
  | _, [] => []
  | a, b :: bs => if b = 0 ∨ memSize ≤ a then cellsFrom (a + 1) bs else (a, b) :: cellsFrom (a + 1) bs

/-- Bytes written from an address on. -/
def Memory.write (m : Memory) (a : Nat) (bs : List Byte) : Memory :=
  m.filter (fun c => decide (c.1 < a)) ++ cellsFrom a bs ++ m.filter (fun c => decide (a + bs.length ≤ c.1))

/-- The canonical form: addresses strictly rising, inside record memory, and no byte 0 listed. -/
abbrev Memory.wf (m : Memory) : Prop :=
  m.Pairwise (fun c d => c.1 < d.1) ∧ ∀ c ∈ m, c.2 ≠ 0 ∧ c.1 < memSize

/-- One byte of record memory. -/
def readByte (s : State) (a : Nat) : Byte := s.mem.read a

/-- So many bytes of record memory. -/
def readBytes (s : State) (a len : Nat) : List Byte := (List.range len).map fun i => readByte s (a + i)

/-- A multi-byte field of record memory, most significant byte first. -/
def readField (s : State) (a len : Nat) : Nat := natOf (readBytes s a len)

/-- Bytes written from an address on, with no host access between them. -/
def writeBytes (a : Nat) (bs : List Byte) (s : State) : State := s.onMem fun m => Memory.write m a bs

/-! ### The arbiter (R2): the device reads and writes one byte at a time, and host accesses come between -/

/-- D7 to D0 are driven with a byte, or not driven (R1). -/
def driveData (b : Option Byte) (s : State) : State := s.onPort fun p => { p with dataOut := b }

/-- A host access to record memory takes place: a write stores its byte, a read drives the addressed byte (R1). -/
def transfer (addr : BitVec 15) (data : Option Byte) (s : State) : State :=
  match data with
  | some d => writeBytes addr.toNat [d] (driveData none s)
  | none => driveData (some (readByte s addr.toNat)) s

/-- A host access that has waited for its turn takes place; what a read drives is kept with the state (log 5). -/
def landTurn (s : State) (h : HostTurn) : State :=
  (transfer h.addr h.data s).onPort fun p => { p with
    turnReads := if h.data = none then p.turnReads ++ [readByte s h.addr.toNat] else p.turnReads }

/-- The host accesses whose turn it is take place, and the next has one device access fewer to wait for. -/
def landReady : List HostTurn → State → State
  | [], s => s.onPort fun p => { p with turns := [] }
  | h :: rest, s =>
    if h.after = 0 then landReady rest (landTurn s h)
    else s.onPort fun p => { p with turns := { h with after := h.after - 1 } :: rest }

/-- Before each byte access the device gives way to the host accesses whose turn it is (R2). -/
def giveWay (s : State) : State :=
  match s.port.turns with
  | [] => s
  | ts => landReady ts s

/-- Every host access that waits takes place (log 5). -/
def landAll (s : State) : State :=
  match s.port.turns with
  | [] => s
  | ts => ts.foldl landTurn (s.onPort fun p => { p with turns := [] })

/-- The device reads one byte. -/
def deviceRead (a : Nat) (s : State) : State × Byte :=
  let t := giveWay s
  (t, readByte t a)

/-- The device writes bytes from an address on, one after the other. -/
def writeEach : Nat → List Byte → State → State
  | _, [], s => s
  | a, b :: bs, s => writeEach (a + 1) bs (writeBytes a [b] (giveWay s))

/-- The device writes bytes from an address on; with no host access waiting, all at once, which is the same
(Laws/Memory.lean). -/
def deviceWrite (a : Nat) (bs : List Byte) (s : State) : State :=
  match s.port.turns with
  | [] => writeBytes a bs s
  | _ => writeEach a bs s

/-- What the device has read: the state it leaves, and the state with every byte read as it was at its reading. -/
structure Reading where
  view : State
  state : State

/-- Bytes read one after the other, each with its address. -/
def readEach : List Nat → State → State × List (Nat × Byte)
  | [], s => (s, [])
  | a :: rest, s =>
    let r := deviceRead a s
    let q := readEach rest r.1
    (q.1, (a, r.2) :: q.2)

/-- The device reads the bytes at some addresses in order (R2; log 37). -/
def gather (addrs : List Nat) (s : State) : Reading :=
  match s.port.turns with
  | [] => { view := s, state := s }
  | _ =>
    let q := readEach addrs s
    { view := q.2.foldl (fun v c => writeBytes c.1 [c.2] v) q.1, state := q.1 }

/-- So many addresses from one on. -/
def span (a len : Nat) : List Nat := (List.range len).map fun i => a + i

/-- A state byte is read, at first or again just before a hand-over (R9). The answer is the state and whether the byte's
low bits hold the state in which the device may write. -/
def recheck (a : Nat) (mask expect : Byte) (s : State) : State × Bool :=
  let r := deviceRead a s
  (r.1, decide (r.2 &&& mask = expect))

/-- One update of a block that carries an update count (R10): the count plus 1, the fields, the count plus 1 again. The
count is read once, before its first write (DEDUCED, log 38). -/
def updateBlock (countAt : Nat) (fields : List (Nat × List Byte)) (s : State) : State :=
  let c := deviceRead countAt s
  let t := fields.foldl (fun t f => deviceWrite f.1 f.2 t) (deviceWrite countAt [c.2 + 1] c.1)
  deviceWrite countAt [c.2 + 2] t

/-! ### Clocks -/

/-- The stamp of the present tick (R29): the epoch above the tick count. -/
def now (s : State) : Stamp := s.time.epoch ++ s.time.tickCount

/-- The heat clock (R35): the racing tick count in whole milliseconds. -/
def heatClock (s : State) : Nat := sat32 (s.time.racingTicks / 100)

/-- The racing tick count as it stood at a stamp no later than the present (R35). -/
def racingTicksAt (x : Stamp) (s : State) : Nat :=
  if s.race.state.racing then
    s.time.racingTicks - min (interval x (now s)) (interval s.time.racingSince (now s))
  else s.time.racingTicks

/-- The heat clock as it stood at a stamp no later than the present. -/
def heatClockAt (x : Stamp) (s : State) : Nat := sat32 (racingTicksAt x s / 100)

/-- The racing tick count stops at the stamp at which the race left GREEN and RUNOUT (R35). Called before the race
state is changed. -/
def stopRacing (x : Stamp) (s : State) : State :=
  s.onTime fun t => { t with racingTicks := racingTicksAt x s }

/-- The racing tick count runs from a stamp on (R35). -/
def startRacing (x : Stamp) (s : State) : State := s.onTime fun t => { t with racingSince := x }

/-- The timebase's answer on an interval from a to b (R28): it holds time not timed from a locked reference. -/
def degraded (a b : Stamp) (s : State) : Bool :=
  match s.time.lockStamp with
  | none => true
  | some k =>
    atOrAfter a k ||
      (decide (s.time.refState ≠ .locked) &&
        match s.time.unlockStamp with
        | none => false
        | some u => atOrAfter u b)

/-! ### The heat as race control has it -/

/-- Race control's current heat label; 0 in IDLE (R60). -/
def currentLabel (s : State) : Byte :=
  match s.race.snapshot with
  | none => 0
  | some h => h.label

/-- The racer the heat snapshot places on a lane; 0 where none (R43). -/
def currentRacer (s : State) (k : Lane) : Byte :=
  match s.race.snapshot with
  | none => 0
  | some h => pick h.racers k

/-- A lane carries a racer in the heat snapshot. -/
def occupiedLane (s : State) (k : Lane) : Bool := decide (currentRacer s k ≠ 0)

/-! ### Notices (section 1.7) -/

/-- The state of the notice entry at the cursor is read: whether it is EMPTY (R20). -/
def noticeEntryEmpty (s : State) : State × Bool := recheck (noticeAddr s.port.noticeCursor) 0x0F 1 s

/-- Bytes 1 to 15 of a notice entry. -/
def noticeBytes (h : HeldNotice) (serial : Half) : List Byte :=
  let n := h.notice
  [BitVec.ofNat 8 (16 * n.kind.code + n.subcode), n.racer, n.label] ++ stampBytes n.stamp ++ bytesOf 2 n.a ++
    bytesOf 2 n.b ++ bytesOf 2 serial.toNat ++ bytesOf 1 h.lost

/-- A notice written into the entry at the cursor (R20, with the recheck of R9): whether it was handed over. -/
def writeNotice (h : HeldNotice) (s : State) : State × Bool :=
  let a := noticeAddr s.port.noticeCursor
  let serial := s.port.noticeSerial + 1
  let r := recheck a 0x0F 1 (deviceWrite (a + 1) (noticeBytes h serial) s)
  if r.2 then
    let t := deviceWrite a [BitVec.ofNat 8 (16 * h.notice.lane + 2)] r.1
    (t.onPort fun p => { p.setSum sumNotice with
      noticeSerial := serial, noticeCursor := p.noticeCursor + 1 }, true)
  else (r.1, false)

/-- Held notices written while the entry at the cursor is EMPTY, oldest first (R19). -/
def retryHeld : List HeldNotice → State → State
  | [], s => s
  | h :: rest, s =>
    let e := noticeEntryEmpty s
    if e.2 then
      let r := writeNotice h e.1
      if r.2 then retryHeld rest (r.1.onPort fun p => { p with noticeQueue := rest }) else r.1
    else e.1

/-- The retry of the notice hold queue (R19). -/
def retryNotices (s : State) : State := retryHeld s.port.noticeQueue s

/-- A notice is accepted (R18): it takes its lost field from the lost count. -/
def acceptNotice (n : Notice) (s : State) : State × HeldNotice :=
  let m := min s.port.noticeLost 255
  (s.onPort fun p => { p with noticeLost := p.noticeLost - m }, { notice := n, lost := m })

/-- An accepted notice joins the tail of the hold queue (R18). -/
def holdNotice (h : HeldNotice) (s : State) : State :=
  s.onPort fun p => { p with noticeQueue := p.noticeQueue ++ [h] }

/-- A notice arrives at the record memory block (R18). -/
def deliver (n : Notice) (s : State) : State :=
  let s := retryNotices s
  match s.port.noticeQueue with
  | [] =>
    let r := acceptNotice n s
    let e := noticeEntryEmpty r.1
    if e.2 then
      let w := writeNotice r.2 e.1
      if w.2 then w.1 else holdNotice r.2 w.1
    else holdNotice r.2 e.1
  | q =>
    if q.length < noticeHold then
      let r := acceptNotice n s
      holdNotice r.2 r.1
    else s.onPort fun p => { p.setFlt fltNoticeLoss with noticeLost := raise 65535 p.noticeLost 1 }

/-- A notice of a lane: kind, subcode, lane, racer, heat label, stamp and details. -/
def laneNotice (kind : NoticeKind) (subcode : Nat) (k : Lane) (racer label : Byte) (stamp : Stamp) (a b : Nat) :
    Notice :=
  { kind := kind, subcode := subcode, lane := laneNo k, racer := racer, label := label, stamp := stamp, a := a, b := b }

/-- A notice of no lane. -/
def plainNotice (kind : NoticeKind) (subcode : Nat) (label : Byte) (stamp : Stamp) (a b : Nat) : Notice :=
  { kind := kind, subcode := subcode, lane := 0, racer := 0, label := label, stamp := stamp, a := a, b := b }

/-! ### Race changes handed to the lap engine -/

/-- A race change joins the tail of the lap engine's pending change list (R54). -/
def handChange (kind : ChangeKind) (x : Stamp) (s : State) : State :=
  s.onLaps fun l => { l with changes := l.changes ++ [{ kind := kind, stamp := x }] }

end Sys2Proof.Machine
end

