-- ==== Sys2Proof/Machine/Power.lean ====
section
/-! DEFINITION. Lane power (chapter 9): the power condition, target duties, ramps and the output pins. -/

namespace Sys2Proof.Machine

/-- The power condition of a lane (R162). -/
def laneCondition (s : State) (k : Lane) : Bool :=
  let l := s.powerLane k
  !s.port.lanesOff &&
    (match s.power.state with
      | .green => true
      | .runout => true
      | .countdown => s.power.liveGrid
      | _ => false) &&
    l.occupied && !l.finished && decide (l.serving ≠ some .halt)

/-- The target duty (R163). -/
def targetDuty (l : PowerLane) : Nat :=
  match l.serving with
  | some .cap => min l.cardCap l.capDuty
  | _ => l.cardCap

/-- The duty set from the target, and from the whole milliseconds elapsed while a ramp runs (R166). -/
def setDuty (rampTime : Nat) (t : Stamp) (l : PowerLane) : PowerLane :=
  match l.rampStart with
  | none => { l with duty := targetDuty l }
  | some r =>
    let e := interval r t / 100
    if rampTime ≤ e then { l with duty := targetDuty l, rampStart := none }
    else { l with duty := targetDuty l * e / rampTime }

/-- The condition turns on (R166, R167): through a ramp while racing, else straight to the target. -/
def turnOn (race : RaceState) (rampTime : Nat) (x : Stamp) (l : PowerLane) : PowerLane :=
  if race.racing && decide (0 < rampTime) then { l with cond := true, duty := 0, rampStart := some x }
  else { l with cond := true, duty := targetDuty l, rampStart := none }

/-- The condition is off: LPk goes low at once and any ramp is abandoned (R165, R166). The duty, which drives nothing now,
keeps its last value (DESIGN CHOICE, log 43). -/
def turnOff (l : PowerLane) : PowerLane := { l with cond := false, rampStart := none, mode := .off, nextPin := none }

/-- A lane's condition evaluated again at an event with stamp x (R162). -/
def evalLane (x : Stamp) (k : Lane) (s : State) : State :=
  let ramp := s.power.rampTime.getD 0
  if laneCondition s k then
    if (s.powerLane k).cond then s.onPowerLane k (setDuty ramp (now s))
    else s.onPowerLane k (turnOn s.power.state ramp x)
  else s.onPowerLane k turnOff

/-- Every lane's condition evaluated again. -/
def evalAll (x : Stamp) (s : State) : State := allLanes.foldl (fun s k => evalLane x k s) s

/-- Race control hands lane power a change of race state (R169). -/
def powerRace (r : RaceState) (x : Stamp) (s : State) : State :=
  evalAll x (s.onPower fun p => { p with state := r })

/-- The staging change at lane power (R169). -/
def powerStaging (h : HeatSnapshot) (x : Stamp) (s : State) : State :=
  powerRace .staged x (s.onPower fun p => { p with
    liveGrid := h.liveGrid,
    lanes := tabulate fun k => { pick p.lanes k with
      occupied := decide (pick h.racers k ≠ 0), finished := false, cardCap := pick h.caps k, serving := none,
      rampStart := none } })

/-- The return to IDLE at lane power (R169). -/
def powerIdle (x : Stamp) (s : State) : State :=
  powerRace .idle x (s.onPower fun p => { p with
    liveGrid := false,
    lanes := p.lanes.map fun l => { l with
      occupied := false, finished := false, cardCap := 0, serving := none, rampStart := none } })

/-- The penalty unit hands lane power a change of serving kind, with the duty of a CAP (R168). With no CAP in service the
CAP duty, which nothing reads then, keeps the last CAP's (DESIGN CHOICE, log 43). -/
def powerServing (k : Lane) (kind : Option ServiceKind) (duty : Nat) (x : Stamp) (s : State) : State :=
  evalLane x k (s.onPowerLane k fun l => { l with
    serving := kind, capDuty := if kind = some .cap then duty else l.capDuty })

/-- The lap engine makes a lane FINISHED (R162). -/
def powerFinished (k : Lane) (x : Stamp) (s : State) : State :=
  evalLane x k (s.onPowerLane k fun l => { l with finished := true })

/-- At the tick at which a chop period starts, a lane's output as it then stands is the one the period takes up: a
change at that tick or later, but to OFF, waits for the next period (R165). -/
def catchPin (l : PowerLane) : PowerLane := { l with nextPin := if l.cond then some l.duty else none }

/-- A chop period begins: a lane's pin takes up the mode and the duty caught for it (R164, R165). An output that is off keeps
the duty of its last period, which nothing reads (DESIGN CHOICE, log 43). -/
def latchPin (l : PowerLane) : PowerLane :=
  match l.nextPin with
  | none => { l with mode := .off }
  | some d => { l with mode := if d = 100 then .on else .chopped, pinDuty := d }

/-- LPk is high in a 100 ns unit of the present tick (R164): the unit's place in the chop period is below the duty's
share of it. -/
def pinHigh (s : State) (k : Lane) (unit : Fin 100) : Bool :=
  let l := s.powerLane k
  match l.mode with
  | .off => false
  | .on => true
  | .chopped => decide (100 * s.power.chopCounter.val + unit.val < 50 * l.pinDuty)

end Sys2Proof.Machine
end

