-- ==== Sys2Proof/Machine/Standing.lean ====
section
/-! DEFINITION. Standings and the racer tally (chapter 10). -/

namespace Sys2Proof.Machine

open Config

/-- A lane's scored laps (R72): laps less deducted laps, never below 0. -/
def scoredLaps (s : State) (k : Lane) : Nat := (s.lap k).laps - (s.penLane k).deducted

/-- Lane a stands ahead of lane b in the running order (R173). Between a staging and the lap engine's taking of it the lap
engine still holds the last heat's laps and last line stamps, and a LAPS deduction there re-sorts by them, though R173's
second key is the stamp in this heat; the order so made stays until the next re-sort (DESIGN CHOICE, log 47). -/
def aheadOf (s : State) (a b : Lane) : Bool :=
  let sa := scoredLaps s a
  let sb := scoredLaps s b
  if sa = sb then
    match (s.lap a).lastLine, (s.lap b).lastLine with
    | some x, some y => if x = y then decide (a ≤ b) else isLater x y
    | some _, none => true
    | none, some _ => false
    | none, none => decide (a ≤ b)
  else decide (sb < sa)

/-- A list of lanes sorted by a comparison. -/
def sortLanes (before : Lane → Lane → Bool) (ks : List Lane) : List Lane :=
  ks.insertionSort fun a b => before a b = true

/-- A lane's place in an order, counting from 1; 0 for a lane that is not in it. -/
def placeIn (order : List Lane) (k : Lane) : Nat := if k ∈ order then order.idxOf k + 1 else 0

/-- An order made the running order, with the positions it gives. -/
def setOrder (order : List Lane) (s : State) : State :=
  s.onStand fun p => { p with
    order := order, lanes := tabulate fun k => { pick p.lanes k with position := placeIn order k } }

/-- The running order re-sorted (R173). -/
def resort (s : State) : State := setOrder (sortLanes (aheadOf s) s.stand.order) s

/-- The staging change at standings (R172). -/
def standStaging (h : HeatSnapshot) (s : State) : State :=
  setOrder (allLanes.filter fun k => decide (pick h.racers k ≠ 0)) (s.onStand fun p => { p with
    label := h.label, racers := h.racers, lanes := Vector.replicate 8 StandLane.reset })

/-! ### Distance -/

/-- What the lap engine hands standings at a cut (R78). -/
structure CutData where
  before : LaneState
  last : Nat
  lastCrossing : Stamp
  sectorFrozen : Nat
  bestSplit : Option Nat
  bestLap : Nat
  haltInSector : Bool
  instant : Stamp
  deriving DecidableEq, Repr

/-- The reference time of the sector after the last gate (R176). -/
def referenceTime (c : CutData) (len : Nat) : Nat :=
  match c.bestSplit with
  | some t => t
  | none => c.bestLap * len / 1000

/-- The distance credited beyond the last gate (R176, R177). -/
def creditedSector (c : CutData) (len : Nat) : Nat :=
  if c.before = .grid ∨ c.before = .hunt ∨ c.haltInSector = true ∨ referenceTime c len = 0 then 0
  else
    let t := sat32 (interval c.lastCrossing c.instant - c.sectorFrozen)
    min (len - 1) (len * t / referenceTime c len)

/-- The partial distance of a cut lane (R175 to R177). -/
def partialOf (g : Geometry) (c : CutData) : Nat :=
  let here := g.position c.last
  let next := if c.last + 1 < g.gateCount then g.position (c.last + 1) else 1000
  here + creditedSector c (next - here)

/-- A lane's heat distance (R178). -/
def heatDistance (s : State) (k : Lane) : Nat := scoredLaps s k * 1000 + (s.standLane k).partialDist

/-- The final distance shown (R178): 0 for a lane that has not finished. -/
def finalDistance (s : State) (k : Lane) : Nat :=
  if (s.standLane k).finished then sat32 (heatDistance s k) else 0

/-- The cut data of a lane reach standings (R175, R180): its partial, and for a RETIRE its retired flag and a re-sort. -/
def standCut (k : Lane) (byRetire : Bool) (c : CutData) (s : State) : State :=
  let t := s.onStandLane k fun l => { l with
    partialDist := partialOf (s.geom k) c, retired := l.retired || byRetire }
  if byRetire then resort t else t

/-- A lane's finish at standings (R178): a finish at the line has partial 0, one after cut data keeps theirs. -/
def standFinish (k : Lane) (afterCut : Bool) (s : State) : State :=
  if (s.standLane k).finished || decide (pick s.stand.racers k = 0) then s
  else s.onStandLane k fun l => { l with
    finished := true, partialDist := if afterCut then l.partialDist else 0 }

/-- Lane a comes before lane b in the final order (R181). -/
def finalAhead (s : State) (a b : Lane) : Bool :=
  let da := heatDistance s a
  let db := heatDistance s b
  if da = db then
    let x := (s.lap a).lastCrossing
    let y := (s.lap b).lastCrossing
    if x = y then decide (a ≤ b) else isLater x y
  else decide (db < da)

/-- The final order (R181). -/
def finalOrder (s : State) : List Lane := sortLanes (finalAhead s) s.stand.order

/-! ### The racer tally -/

/-- All tally entries, in index order. -/
def allTally : List (Fin 64) := List.finRange 64

/-- A tally entry reads USED with a racer (R107). -/
def tallyHolds (s : State) (racer : Byte) (i : Fin 64) : Bool :=
  decide (readByte s (tallyAddr i) = 1) && decide (readByte s (tallyAddr i + 1) = racer)

/-- A tally entry reads FREE. -/
def tallyFree (s : State) (i : Fin 64) : Bool := decide (readByte s (tallyAddr i) = 0)

/-- The state and racer bytes of the 64 tally entries, in index order (R107; log 37). -/
def tallyHeads : List Nat := allTally.flatMap fun i => [tallyAddr i, tallyAddr i + 1]

/-- A tally entry written with a state and a racer and every total 0, as one update (R107, R183). Its fields are written
in the order racer, heats run, the other totals, state byte (DESIGN CHOICE, log 41). -/
def writeTallyZero (state racer : Byte) (i : Fin 64) (s : State) : State :=
  let a := tallyAddr i
  updateBlock (a + 3) [(a + 1, [racer]), (a + 2, [0]), (a + 4, List.replicate 23 0), (a, [state])] s

/-- The tally entry a racer's fold goes to (R182): the lowest USED with that racer, else the lowest FREE, written
first as a new entry, else none. -/
def foldTarget (racer : Byte) (s : State) : Option (Fin 64) × State :=
  let g := gather tallyHeads s
  match allTally.find? (tallyHolds g.view racer) with
  | some i => (some i, g.state)
  | none =>
    match allTally.find? (tallyFree g.view) with
    | some i => (some i, writeTallyZero 1 racer i g.state)
    | none => (none, g.state)

/-- A lane's warnings held at settle. -/
def warningSum (l : PenLane) : Nat := l.warnings.toList.foldl (· + ·) 0

/-- One racer's heat folded into the tally (R182). The update writes every total, an unchanged best lap and its label as
read among them, and never the state and racer bytes (DESIGN CHOICE, log 41). -/
def foldLane (label : Byte) (s : State) (k : Lane) : State :=
  let racer := pick s.stand.racers k
  if racer = 0 then s
  else
    match foldTarget racer s with
    | (none, t) => t
    | (some i, t) =>
      let a := tallyAddr i
      let l := s.lap k
      let p := s.penLane k
      let g := gather (span (a + 2) 1 ++ span (a + 4) 23) t
      let old := fun (offset len : Nat) => readField g.view (a + offset) len
      let best := old 12 4
      let better := decide (l.bestLap ≠ 0) && (decide (best = 0) || decide (l.bestLap < best))
      updateBlock (a + 3)
        [(a + 2, bytesOf 1 (raise 255 (old 2 1) 1)),
          (a + 4, bytesOf 4 (raise 0xFFFFFFFF (old 4 4) (heatDistance s k)) ++
            bytesOf 4 (raise 0xFFFFFFFF (old 8 4) l.laps) ++
            (if better then bytesOf 4 l.bestLap ++ [label] else bytesOf 4 best ++ [readByte g.view (a + 16)]) ++
            bytesOf 2 (raise 65535 (old 17 2) p.deducted) ++
            bytesOf 4 (raise 0xFFFFFFFF (old 19 4) p.timePenalty) ++
            bytesOf 2 (raise 65535 (old 23 2) (warningSum p)) ++
            bytesOf 2 (raise 65535 (old 25 2) (pick s.race.callsUsed k)))] g.state

/-- The heat folded into the racer tally, lane 1 first (R182). -/
def foldTally (label : Byte) (s : State) : State := allLanes.foldl (foldLane label) s

end Sys2Proof.Machine
end

