-- ==== Sys2Proof/Machine/Penalty.lean ====
section
/-! DEFINITION. The penalty unit (chapter 8): the table snapshot, triggers and responses, the pending queue, service at
the line, pushes, conversions, and the lane's finish. -/

namespace Sys2Proof.Machine

open Config

/-! ### The table snapshot (R12, R142, R143) -/

/-- An amount clamped to the range of its response (R143). -/
def clampAmount (r : Response) (n : Nat) : Nat :=
  match r with
  | .halt => clamp 500 60000 n
  | .cap => clamp 1 20 n
  | .laps => clamp 1 10 n
  | .time => clamp 100 60000 n
  | .none => n
  | .warn => n

/-- A duty clamped, where its response uses one (R143). -/
def clampDuty (r : Response) (n : Nat) : Nat :=
  match r with
  | .cap => clamp 10 90 n
  | _ => n

/-- A response byte of a row (R12): values above 5 are NONE. -/
def readResponse (b : Byte) : Response :=
  match b.toNat with
  | 1 => .warn
  | 2 => .halt
  | 3 => .cap
  | 4 => .laps
  | 5 => .time
  | _ => .none

/-- The escalation response and amount (R12): any value other than 2 to 5 is LAPS with amount 1. -/
def readEscalation (b : Byte) (amount : Nat) : Response × Nat :=
  match b.toNat with
  | 2 => (.halt, amount)
  | 3 => (.cap, amount)
  | 4 => (.laps, amount)
  | 5 => (.time, amount)
  | _ => (.laps, 1)

/-- The fallback response (R12): any value other than 4 or 5 is TIME. -/
def readFallback (b : Byte) : Response := if b.toNat = 4 then .laps else .time

/-- One row of the penalty table as read and clamped at staging. -/
def readRow (s : State) (r : Fin 8) : PenaltyRow :=
  let a := rowAddr r
  let resp := readResponse (readByte s a)
  let esc := readEscalation (readByte s (a + 5)) (readField s (a + 6) 2)
  let fb := readFallback (readByte s (a + 9))
  { response := resp
    amount := clampAmount resp (readField s (a + 1) 2)
    duty := clampDuty resp (readField s (a + 3) 1)
    warnLimit := clamp 1 9 (readField s (a + 4) 1)
    escResponse := esc.1
    escAmount := clampAmount esc.1 esc.2
    escDuty := clampDuty esc.1 (readField s (a + 8) 1)
    fbResponse := fb
    fbAmount := clampAmount fb (readField s (a + 10) 2) }

/-- Bytes 0 to 11 of the eight rows of the penalty table. Bytes 12 to 15 of a row are not read (R142). -/
def penaltyBytes : List Nat := (List.finRange 8).flatMap fun r => span (rowAddr r) 12

/-- The staging change at the penalty unit (R142, R160). The penalty table is read at staging (R8; log 37). R160's list for
staging does not name the serve stamp: the model keeps the last one (DESIGN CHOICE, log 46). -/
def penStaging (h : HeatSnapshot) (s : State) : State :=
  let g := gather penaltyBytes s
  g.state.onPen fun p => { p with
    table := some (tabulate (readRow g.view)), heatStaged := true, serial := 0, label := h.label,
    lanes := tabulate fun k => { PenLane.reset with
      racer := pick h.racers k, serveStamp := (pick p.lanes k).serveStamp } }

/-- The return to IDLE at the penalty unit (R157). -/
def penIdle (s : State) : State := s.onPen fun p => { p with heatStaged := false }

/-! ### Serials (R146) -/

/-- The entries a lane holds, serving and pending. -/
def heldEntries (l : PenLane) : List PenEntry := l.serving.toList ++ l.queue

/-- The serials that pending and serving entries of any lane hold. -/
def heldSerials (p : PenaltyUnit) : List Half :=
  p.lanes.toList.flatMap fun l => (heldEntries l).map PenEntry.serial

/-- The serial counter raised by 1, going from 65535 to 1. -/
def bumpSerial (c : Half) : Half := if c = 0xFFFF then 1 else c + 1

/-- The counter raised, and raised on over values that are held, at most so many times. -/
def skipHeld (held : List Half) : Nat → Half → Half
  | 0, c => bumpSerial c
  | n + 1, c => if bumpSerial c ∈ held then skipHeld held n (bumpSerial c) else bumpSerial c

/-- The next serial (R146). -/
def nextSerial (p : PenaltyUnit) : Half :=
  let held := heldSerials p
  skipHeld held held.length p.serial

/-! ### Responses (R145 to R149) -/

/-- A penalty unit notice of a lane. -/
def penNotice (kind : NoticeKind) (subcode : Nat) (k : Lane) (x : Stamp) (a b : Nat) (s : State) : State :=
  deliver (laneNotice kind subcode k (s.penLane k).racer s.pen.label x a b) s

/-- An immediate response (R147): LAPS deducts laps and re-sorts the running order, TIME adds penalty time. -/
def actAtOnce (r : Response) (k : Lane) (amount : Nat) (s : State) : State :=
  match r with
  | .laps => resort (s.onPenLane k fun l => { l with deducted := raise 65535 l.deducted amount })
  | .time => s.onPenLane k fun l => { l with timePenalty := raise 0xFFFFFFFF l.timePenalty amount }
  | _ => s

/-- A row of the table snapshot. -/
def rowOf (s : State) (t : Fin 8) : PenaltyRow :=
  match s.pen.table with
  | some rows => pick rows t
  | none => { response := .none, amount := 0, duty := 0, warnLimit := 1, escResponse := .laps, escAmount := 1,
              escDuty := 0, fbResponse := .time, fbAmount := 0 }

/-- A HALT or CAP converts to its trigger row's fallback (R149). -/
def convert (k : Lane) (e : PenEntry) (x : Stamp) (s : State) : State :=
  let row := rowOf s e.trigger
  actAtOnce row.fbResponse k row.fbAmount
    (penNotice .convert e.kind.code k x e.serial.toNat row.fbAmount s)

/-- An issued HALT or CAP is queued for service, or converts (R148). -/
def enqueuePenalty (k : Lane) (e : PenEntry) (s : State) : State :=
  if (s.penLane k).finished || decide (pendingHold ≤ (s.penLane k).queue.length) then convert k e e.callStamp s
  else s.onPenLane k fun l => { l with queue := l.queue ++ [e] }

/-- The qualifier of a PENALTY notice (R146). -/
def qualifier (r : Response) (amount warning : Nat) : Nat :=
  match r with
  | .warn => warning
  | .halt => amount / 1000
  | .cap => amount
  | .laps => amount
  | .time => amount / 1000
  | .none => 0

/-- A response issued (R146): its serial, its PENALTY notice, and then its effect. -/
def issue (t : Fin 8) (k : Lane) (x : Stamp) (r : Response) (amount duty warning : Nat) (s : State) : State :=
  let serial := nextSerial s.pen
  let s := s.onPen fun p => { p with serial := serial }
  let s := penNotice .penalty t.val k x serial.toNat (r.code * 256 + qualifier r amount warning) s
  match r with
  | .halt => enqueuePenalty k
      { serial := serial, trigger := t, kind := .halt, amount := amount, duty := 0, callStamp := x } s
  | .cap => enqueuePenalty k
      { serial := serial, trigger := t, kind := .cap, amount := amount, duty := duty, callStamp := x } s
  | r => actAtOnce r k amount s

/-- A trigger reaches the penalty unit (R144, R145). -/
def trigger (t : Fin 8) (k : Lane) (x : Stamp) (s : State) : State :=
  if !s.pen.heatStaged || decide ((s.penLane k).racer = 0) then s
  else
    let row := rowOf s t
    match row.response with
    | .none => s
    | .warn =>
      let n := pick (s.penLane k).warnings t + 1
      if n < row.warnLimit then
        issue t k x .warn 0 0 n (s.onPenLane k fun l => { l with warnings := put l.warnings t n })
      else
        issue t k x row.escResponse row.escAmount row.escDuty 0
          (s.onPenLane k fun l => { l with warnings := put l.warnings t 0 })
    | r => issue t k x r row.amount row.duty 0 s

def trigJump : Fin 8 := 0
def trigCut : Fin 8 := 1
def trigCalls : Fin 8 := 2
def trigPush : Fin 8 := 3

/-! ### Service (R150 to R153) -/

/-- The lane is serving HALT. -/
def servingHalt (s : State) (k : Lane) : Bool :=
  match (s.penLane k).serving with
  | some e => decide (e.kind = .halt)
  | none => false

/-- The lane is serving CAP. -/
def servingCap (s : State) (k : Lane) : Bool :=
  match (s.penLane k).serving with
  | some e => decide (e.kind = .cap)
  | none => false

/-- What remains of a serving entry: ms of a HALT, laps of a CAP (R156, R159, R160). -/
def servingRemaining (s : State) (k : Lane) : Nat :=
  match (s.penLane k).serving with
  | some e =>
    match e.kind with
    | .halt => (s.penLane k).haltEnd - heatClock s
    | .cap => (s.penLane k).capRemaining
  | none => 0

/-- The beginning of a HALT service at the lap engine (R82, R93). -/
def lapHaltBegins (k : Lane) (s : State) : State :=
  s.onLapLane k fun l => { l with haltInSector := true, haltService := true }

/-- The end of a HALT service at the lap engine (R82): the stall watch starts anew. -/
def lapHaltEnds (k : Lane) (s : State) : State := s.onLapLane k fun l => { l with stallRef := heatClock s }

/-- The serving entry becomes none, and the lap engine and lane power are told (R152, R153, R156, R157, R159). What the HALT
end, the CAP remaining and the serve stamp then hold the manual does not say: the model keeps their last values until a
service begins that sets them, or the next staging (DESIGN CHOICE, log 46). -/
def dropServing (k : Lane) (x : Stamp) (s : State) : State :=
  match (s.penLane k).serving with
  | none => s
  | some e =>
    let s := s.onPenLane k fun l => { l with serving := none }
    let s := match e.kind with
      | .halt => lapHaltEnds k s
      | .cap => s
    powerServing k none 0 x s

/-- The serving entry ends with a SERVED notice of a subcode and a remainder. -/
def endService (k : Lane) (x : Stamp) (subcode remaining : Nat) (s : State) : State :=
  match (s.penLane k).serving with
  | none => s
  | some e => penNotice .served subcode k x e.serial.toNat remaining (dropServing k x s)

/-- The entry a service begins with (R151): the first eligible HALT, else the first eligible CAP. -/
def chooseEntry (q : List PenEntry) (x : Stamp) : Option PenEntry :=
  match q.find? fun e => decide (e.kind = .halt) && isLater e.callStamp x with
  | some e => some e
  | none => q.find? fun e => decide (e.kind = .cap) && isLater e.callStamp x

/-- A service begins at an accepted G0 with stamp x, if an entry is eligible (R151). A HALT leaves the CAP remaining, and a CAP
the HALT end, as the last service left it (DESIGN CHOICE, log 46). -/
def beginService (k : Lane) (x : Stamp) (s : State) : State :=
  match chooseEntry (s.penLane k).queue x with
  | none => s
  | some e =>
    let s := s.onPenLane k fun l => { l with
      queue := l.queue.erase e, serving := some e, serveStamp := x, pushMark := false }
    match e.kind with
    | .halt =>
      let s := s.onPenLane k fun l => { l with haltEnd := heatClock s + e.amount }
      penNotice .serve 2 k x e.serial.toNat e.amount (powerServing k (some .halt) 0 x (lapHaltBegins k s))
    | .cap =>
      let s := s.onPenLane k fun l => { l with capRemaining := e.amount }
      penNotice .serve 3 k x e.serial.toNat (e.duty * 256 + e.amount) (powerServing k (some .cap) e.duty x s)

/-- A crossing on a lane serving HALT is checked for PUSH (R155). -/
def pushCheck (k : Lane) (y : Stamp) (view : RaceView) (s : State) : State :=
  let l := s.penLane k
  let grace := s.pen.coastGrace.getD 0
  if servingHalt s k && !l.pushMark && !view.state.frozen && isLater l.serveStamp y &&
      decide (100 * grace < interval l.serveStamp y) then
    trigger trigPush k y (s.onPenLane k fun l => { l with pushMark := true })
  else s

/-- A serving CAP advances at a lap completion, and ends at 0 (R153). -/
def advanceCap (k : Lane) (x : Stamp) (s : State) : State :=
  let s := s.onPenLane k fun l => { l with capRemaining := l.capRemaining - 1 }
  if (s.penLane k).capRemaining = 0 then endService k x 1 0 s else s

/-- The penalty unit takes an accepted G0 crossing (R150). -/
def penAcceptedLine (k : Lane) (x : Stamp) (completion finishing : Bool) (view : RaceView) (s : State) : State :=
  let served := (s.penLane k).serving.isSome
  let s := pushCheck k x view s
  let s := if servingCap s k && completion then advanceCap k x s else s
  if !served && !finishing && !(s.penLane k).finished && s.pen.heatStaged then beginService k x s else s

/-! ### The lane's finish (R156, R157) -/

/-- Pending entries convert, oldest first (R156). -/
def convertAll (k : Lane) (x : Stamp) : List PenEntry → State → State
  | [], s => s
  | e :: rest, s => convertAll k x rest (convert k e x (s.onPenLane k fun l => { l with queue := rest }))

/-- The lane's finish reaches the penalty unit (R156). -/
def penFinish (k : Lane) (x : Stamp) (s : State) : State :=
  if (s.penLane k).finished then s
  else
    let s := s.onPenLane k fun l => { l with finished := true }
    let s := endService k x 1 (servingRemaining s k) s
    convertAll k x (s.penLane k).queue s

/-- A finish due to ABORT HEAT (R157). -/
def penAbortFinish (k : Lane) (x : Stamp) (s : State) : State :=
  let s := s.onPenLane k fun l => { l with finished := true }
  (dropServing k x s).onPenLane k fun l => { l with queue := [] }

end Sys2Proof.Machine
end

