-- ==== Sys2Proof/Machine/Race.lean ====
section
/-! DEFINITION. Race control (chapters 6 and 7): the race card, staging, the start, the end of racing, the run-out,
settle and abort; the countdown, the jump watch, calls, resumes and the lamps. -/

namespace Sys2Proof.Machine

open Config

/-! ### HEAT notices (R121) -/

/-- A HEAT notice of the heat entry at the card cursor. -/
def heatNotice (subcode : Nat) (label : Byte) (x : Stamp) (b : Nat) (s : State) : State :=
  deliver (plainNotice .heat subcode label x s.race.cardCursor.val b) s

/-! ### The race card (R103 to R107) -/

/-- A heat entry's fields as race control reads them (R12, R105). -/
def readEntry (s : State) (i : Fin 32) : HeatSnapshot :=
  let a := entryAddr i
  let byte := fun n => (readByte s (a + n)).toNat
  { label := readByte s (a + 1)
    startHeld := decide (byte 2 = 1)
    gridOn := decide (byte 3 = 1)
    endMode := if byte 4 = 0 then .time else if byte 4 = 1 then .laps else .both
    liveGrid := decide (byte 5 ≠ 0)
    callsAllowed := min (byte 6) 20
    timeLimit := min (readField s (a + 8) 4) 86400000
    lapLimit := readField s (a + 12) 2
    runoutLimit := min (readField s (a + 14) 2) 60000
    minLap := clamp 100 60000 (readField s (a + 16) 2)
    gap := readField s (a + 18) 2
    racers := tabulate fun k => readByte s (a + 20 + k.val)
    caps := tabulate fun k => clamp 10 100 (byte (28 + k.val)) }

/-- The end mode uses the time limit. -/
def EndMode.timed : EndMode → Bool
  | .laps => false
  | _ => true

/-- The end mode uses the lap limit. -/
def EndMode.counted : EndMode → Bool
  | .time => false
  | _ => true

/-- The lanes of a heat that carry a racer, lane 1 first. -/
def HeatSnapshot.occupied (h : HeatSnapshot) : List Lane := allLanes.filter fun k => decide (pick h.racers k ≠ 0)

/-- The racers of a heat that have no USED tally entry, in lane order (R107). -/
def newRacers (s : State) (h : HeatSnapshot) : List Byte :=
  ((h.occupied.map fun k => pick h.racers k).eraseDups).filter fun r => !allTally.any (tallyHolds s r)

/-- The checks of R104 in order: the reason of the first that fails, or none. -/
def refusalReason (s : State) (h : HeatSnapshot) : Option Nat :=
  if !s.port.setupLoaded then some 1
  else if (h.endMode.timed && decide (h.timeLimit = 0)) || (h.endMode.counted && decide (h.lapLimit = 0)) then some 2
  else if h.occupied = [] then some 6
  else if ¬ (h.occupied.map fun k => pick h.racers k).Nodup then some 3
  else if h.occupied.any fun k => decide ((s.geom k).gateCount = 0) then some 4
  else if (allTally.filter (tallyFree s)).length < (newRacers s h).length then some 5
  else none

/-- A refusal (R104): the reason, the recheck, REFUSED, and the notice. -/
def refuseEntry (reason : Nat) (label : Byte) (s : State) : State :=
  let a := entryAddr s.race.cardCursor
  let r := recheck a 0xFF 1 (deviceWrite (a + 7) [BitVec.ofNat 8 reason] s)
  if r.2 then heatNotice 2 label (now r.1) reason (deviceWrite a [5] r.1) else r.1

/-- The new racers of a heat in lane order, each with the FREE tally entry of lowest index not yet taken (R107). -/
def newEntries (s : State) (h : HeatSnapshot) : List (Byte × Fin 64) :=
  (newRacers s h).zip (allTally.filter (tallyFree s))

/-- A new racer's tally entry: USED, and every total 0 (R107). -/
def createEntry (s : State) (e : Byte × Fin 64) : State := writeTallyZero 1 e.1 e.2 s

/-- Tally entries created for the new racers (R107). -/
def createTally (entries : List (Byte × Fin 64)) (s : State) : State := entries.foldl createEntry s

/-! ### The countdown (R123 to R128) -/

/-- The lamps set. -/
def setLamps (v : BitVec 7) (s : State) : State := s.onRace fun r => { r with lamps := v, flashStart := none }

/-- The random hold drawn from the LFSR after its 16 steps (R123). -/
def drawnHold (t : RaceTimes) (v : Half) : Nat := t.holdMin + v.toNat % (t.holdSpan + 1)

/-- The times loaded from the setup; zeros before a SETUP, when no heat can be staged (R104). -/
def raceTimes (s : State) : RaceTimes :=
  s.race.times.getD { jumpDraw := 0, resumeDelay := 0, countdownStep := 0, holdMin := 0, holdSpan := 0 }

/-- COUNTDOWN entry with stamp e (R124). -/
def enterCountdown (e : Stamp) (s : State) : State :=
  let live := match s.race.snapshot with
    | some h => h.liveGrid
    | none => false
  let v := s.race.lfsr.map (lfsrSteps 16)
  let s := s.onRace fun r => { r with
    state := .countdown, countdownStamp := some e, countdownStep := 0, jumpMarks := Vector.replicate 8 false,
    lfsr := v, hold := drawnHold (raceTimes s) (v.getD 0) }
  let s := handChange .countdown e s
  let s := powerRace .countdown e s
  let s := setLamps lampsDark s
  let s := heatNotice 3 (currentLabel s) e s.race.hold s
  s.onRace fun r => { r with
    drawRuns := tabulate fun k =>
      if live && occupiedLane s k && (pick s.gates.draw k).level then .timing e else .idle }

/-- GREEN entry with stamp g (R126). -/
def enterGreen (g : Stamp) (s : State) : State :=
  let timed := match s.race.snapshot with
    | some h => h.endMode.timed
    | none => false
  let s := s.onRace fun r => { r with state := .green, drawRuns := Vector.replicate 8 .idle }
  let s := setLamps lampGreen s
  let s := handChange .green g s
  let s := startRacing g s
  let s := powerRace .green g s
  let s := s.onRace fun r => { r with timeLimitWatch := timed }
  heatNotice 4 (currentLabel s) g 0 s

/-- The stamp at which the running countdown's hold ends (R125). -/
def greenStamp (s : State) : Option Stamp :=
  s.race.countdownStamp.map fun e => stampAfter e (5 * (raceTimes s).countdownStep + s.race.hold)

/-- A jump crossing or a draw run's end charges a lane, once in a countdown (R127, R128). -/
def jumpOnce (k : Lane) (x : Stamp) (s : State) : State :=
  if pick s.race.jumpMarks k then s
  else trigger trigJump k x (s.onRace fun r => { r with jumpMarks := put r.jumpMarks k true })

/-- A jump crossing reaches race control (R127). -/
def jumpCrossing (k : Lane) (x : Stamp) (s : State) : State :=
  if s.race.state = .idle then s
  else
    match s.race.countdownStamp with
    | some e => if isLater x e then trigger trigJump k x s else jumpOnce k x s
    | none => jumpOnce k x s

/-! ### Staging (R106) -/

/-- A heat staged from the entry at the card cursor, once RUNNING is written (R106), with the staging stamp and the new
tally entries. An AUTO heat with a gap of 0 enters COUNTDOWN at once (R108). The run-out backup is not among what R106 sets:
the model keeps it (DESIGN CHOICE, log 46). -/
def stage (h : HeatSnapshot) (fresh : List (Byte × Fin 64)) (x : Stamp) (s : State) : State :=
  let s := s.onRace fun r => { r with
    snapshot := some h, state := .staged, stagedStamp := x, finishedSet := Vector.replicate 8 false,
    runoutDeadline := none, runoutWait := false }
  let s := createTally fresh s
  let s := handChange (.staging h.label h.gridOn h.minLap h.racers) x s
  let s := s.onTime fun t => { t with racingTicks := 0 }
  let s := penStaging h s
  let s := standStaging h s
  let s := powerStaging h x s
  let s := s.onRace fun r => { r with
    callCount := 0, callsUsed := Vector.replicate 8 0, lastCallSource := none, lastCallWho := 0 }
  let s := heatNotice 1 h.label x h.occupied.length s
  if !h.startHeld && decide (h.gap = 0) then enterCountdown x s else s

/-- The entry written for staging (R106): reason, final order and settle stamp 0, the recheck, RUNNING. -/
def stageEntry (h : HeatSnapshot) (fresh : List (Byte × Fin 64)) (s : State) : State :=
  let a := entryAddr s.race.cardCursor
  let r := recheck a 0xFF 1 (deviceWrite (a + 36) (List.replicate 13 0) (deviceWrite (a + 7) [0] s))
  if r.2 then stage h fresh (now r.1) (deviceWrite a [2] r.1) else r.1

/-- The rest of a READY entry and the heads of the tally are read, and the entry is refused or staged (R103, R107; the
order of the reads is log 37). -/
def examineEntry (s : State) : State :=
  let a := entryAddr s.race.cardCursor
  let g := gather (span (a + 1) 35 ++ tallyHeads) s
  let h := readEntry g.view s.race.cardCursor
  match refusalReason g.view h with
  | some reason => refuseEntry reason h.label g.state
  | none => stageEntry h (newEntries g.view h) g.state

/-- Race control's look at the card on a service tick (R103). The service tick at which the race returned to IDLE is not
one after the settle or the abort, and examines nothing (R118, R120; log 33). -/
def examineCard (s : State) : State :=
  if s.race.state ≠ .idle ∨ s.time.idleNow then s
  else
    let r := deviceRead (entryAddr s.race.cardCursor) s
    if r.2 = 1 then examineEntry r.1 else r.1

/-! ### The end of racing and the run-out (R111 to R116) -/

/-- The cut of unfinished lanes handed to the lap engine; the wait for the run-out deadline is over (R116). -/
def expireRunout (x : Stamp) (s : State) : State :=
  handChange .cutUnfinished x (s.onRace fun r => { r with runoutWait := false })

/-- The run-out limit of the staged heat. -/
def runoutLimit (s : State) : Nat :=
  match s.race.snapshot with
  | some h => h.runoutLimit
  | none => 0

/-- A HEAT RUNOUT notice: for LAPS it names the lane that reached the limit and its racer (R121). -/
def runoutNotice (cause : Nat) (by_ : Option Lane) (x : Stamp) (s : State) : State :=
  let n := plainNotice .heat 5 (currentLabel s) x s.race.cardCursor.val cause
  match by_ with
  | some k => deliver { n with lane := laneNo k, racer := currentRacer s k } s
  | none => deliver n s

/-- The stamp, not after the present and not before x, at which a heat clock value that has been reached was reached
(R36): x where the clock stood at it or beyond by x, else the tick at which the racing tick count became 100 times the
value. -/
def reachedAt (x : Stamp) (value : Nat) (s : State) : Stamp :=
  if 100 * value ≤ racingTicksAt x s then x else now s - BitVec.ofNat 40 (s.time.racingTicks - 100 * value)

/-- The move from GREEN to RUNOUT with stamp x (R114). A deadline already reached expires at once, with the stamp at
which the heat clock reached it (R36, R116; log 13). -/
def enterRunout (x : Stamp) (cause : Nat) (by_ : Option Lane) (s : State) : State :=
  let deadline := heatClockAt x s + runoutLimit s
  let s := s.onRace fun r => { r with
    state := .runout, timeLimitWatch := false, runoutDeadline := some deadline, runoutWait := true }
  let s := handChange .runout x s
  let s := powerRace .runout x s
  let s := setLamps (lampsFor .runout) s
  let s := runoutNotice cause by_ x s
  if deadline ≤ heatClock s then expireRunout (reachedAt x deadline s) s else s

/-- The lap limit is reached while the race is CALLED or RESUMING from GREEN (R112). -/
def limitInCall (x : Stamp) (k : Lane) (s : State) : State :=
  let s := s.onRace fun r => { r with
    calledFrom := .runout, timeLimitWatch := false, runoutDeadline := some (heatClock s + runoutLimit s),
    runoutWait := true, runoutBackup := runoutLimit s }
  handChange .runout x (runoutNotice 2 (some k) x s)

/-- The lap limit is reached by a completion in this view (R112). -/
def reachesLimit (s : State) (k : Lane) (view : RaceView) : Bool :=
  match s.race.snapshot with
  | some h =>
    (decide (view.state = .green) || (view.state.frozen && decide (view.calledFrom = .green))) &&
      h.endMode.counted && decide (h.lapLimit ≤ scoredLaps s k)
  | none => false

/-- Race control is handed a lap completion (R112): whether the crossing finishes the lane. -/
def lapCompleted (k : Lane) (x : Stamp) (view : RaceView) (s : State) : State × Bool :=
  if s.race.state = .idle then (s, false)
  else if view.runoutPhase then (s, true)
  else if reachesLimit s k view then
    (if s.race.state = .green then enterRunout x 2 (some k) s
      else if s.race.state.frozen && decide (s.race.calledFrom = .green) then limitInCall x k s
      else s, true)
  else (s, false)

/-- The run-out has expired and its cut is on its way: the heat settles at the expiry's stamp, and a call meets the race
as in IDLE (R131; log 32). -/
def runoutOver (s : State) : Bool := decide (s.race.state = .runout) && !s.race.runoutWait

/-- The run-out remaining shown (R115). -/
def runoutRemaining (s : State) : Nat :=
  if s.race.state = .runout then s.race.runoutDeadline.getD 0 - heatClock s
  else if s.race.state.frozen && decide (s.race.calledFrom = .runout) then s.race.runoutBackup
  else 0

/-! ### Settle and the return to IDLE (R117, R118, R141) -/

/-- What both returns to IDLE do in race control (R118 step 6, R120, R141). The hold register keeps the last hold drawn
until the next countdown (DESIGN CHOICE, log 39), the finished set stays until the next staging (DESIGN CHOICE, log 42), and
the run-out backup keeps its last value, through the next staging too, until a call saves it anew (DESIGN CHOICE,
log 46). -/
def raceIdle (r : RaceControl) : RaceControl :=
  { r with
    state := .idle, calledFrom := .none, timeLimitWatch := false, runoutDeadline := none, runoutWait := false,
    countdownStep := 0, drawRuns := Vector.replicate 8 .idle, resumeStart := none, lamps := lampsDark,
    flashStart := none }

/-- The timebase at a return to IDLE with stamp x: the heat clock holds (R36), and the tick is marked (R118, R120). -/
def timeIdle (x : Stamp) (s : State) : State := (stopRacing x s).onTime fun t => { t with idleNow := true }

/-- The final order written into the heat entry: lanes best first, 0 filling the places after the last. -/
def orderBytes (ks : List Lane) : List Byte :=
  ((ks.map fun k => BitVec.ofNat 8 (laneNo k)) ++ List.replicate 8 0).take 8

/-- Settle, with the settle stamp (R118). -/
def settle (x : Stamp) (s : State) : State :=
  let order := finalOrder s
  let s := foldTally s.stand.label s
  let a := entryAddr s.race.cardCursor
  let r := recheck a 0xFF 2 (deviceWrite (a + 36) (orderBytes order ++ stampBytes x) s)
  let s := if r.2 then deviceWrite a [3] r.1 else r.1
  let best := match order with
    | k :: _ => laneNo k
    | [] => 0
  let s := heatNotice 6 (currentLabel s) x best s
  let s := timeIdle x s
  let s := s.onRace fun r => { raceIdle r with cardCursor := r.cardCursor + 1, snapshot := none }
  powerIdle x (penIdle (handChange .settle x s))

/-- Every lane of the snapshot that carries a racer has finished (R117). -/
def allFinished (s : State) : Bool := allLanes.all fun k => !occupiedLane s k || pick s.race.finishedSet k

/-- A finish reaches race control (R117). -/
def raceFinish (k : Lane) (x : Stamp) (s : State) : State :=
  if decide (s.race.state = .idle) || !occupiedLane s k || pick s.race.finishedSet k then s
  else
    let s := s.onRace fun r => { r with finishedSet := put r.finishedSet k true }
    if allFinished s then settle x s else s

/-- ABORT HEAT with its stamp (R120). At once the lap engine drops every RETIRE and cut still waiting (R79). -/
def abortHeat (x : Stamp) (s : State) : State :=
  let label := currentLabel s
  let s := timeIdle x s
  let s := s.onRace raceIdle
  let s := s.onLaps fun l => { l with
    changes := l.changes.filter fun c =>
      match c.kind with
      | .retire _ => false
      | .cutUnfinished => false
      | _ => true }
  let s := powerIdle x (penIdle (handChange .abort x s))
  let a := entryAddr s.race.cardCursor
  let r := recheck a 0xFF 2 (deviceWrite (a + 7) [8] s)
  let s := if r.2 then deviceWrite a [4] r.1 else r.1
  let s := heatNotice 7 label x 8 s
  s.onRace fun r => { r with cardCursor := r.cardCursor + 1, snapshot := none }

/-! ### Calls (R129 to R135) -/

/-- Where a call comes from. -/
structure CallOrigin where
  source : CallSource
  /-- The lane of a DRIVER or STALL call. -/
  lane : Option Lane
  /-- The post of a MARSHAL call, 1 to 4; 0 for the other sources. -/
  post : Nat
  deriving DecidableEq, Repr

/-- A call taken: the call count and the last call (R129). -/
def countCall (o : CallOrigin) (s : State) : State :=
  s.onRace fun r => { r with
    callCount := raise 65535 r.callCount 1, lastCallSource := some o.source,
    lastCallWho := match o.lane with
      | some k => laneNo k
      | none => o.post }

/-- The CALL notice with its outcome (R135). -/
def callNotice (o : CallOrigin) (outcome : Nat) (c : Stamp) (s : State) : State :=
  let n := plainNotice .call o.source.code (currentLabel s) c s.race.callCount (outcome * 256 + o.post)
  match o.lane with
  | some k => deliver { n with lane := laneNo k, racer := currentRacer s k } s
  | none => deliver n s

/-- A driver call charged to its lane (R134). -/
def chargedLane (o : CallOrigin) (s : State) : Option Lane :=
  match o.source, o.lane with
  | .driver, some k => if occupiedLane s k then some k else none
  | _, _ => none

/-- The calls allowed per lane in the staged heat. -/
def callsAllowed (s : State) : Nat :=
  match s.race.snapshot with
  | some h => h.callsAllowed
  | none => 0

/-- A call charged and reported; beyond the allowance it raises CALLS (R134, R135). -/
def chargeCall (o : CallOrigin) (outcome : Nat) (c : Stamp) (s : State) : State :=
  match chargedLane o s with
  | none => callNotice o outcome c s
  | some k =>
    let s := s.onRace fun r => { r with callsUsed := amend r.callsUsed k fun n => raise 255 n 1 }
    let s := callNotice o outcome c s
    if callsAllowed s ≠ 0 ∧ callsAllowed s < pick s.race.callsUsed k then trigger trigCalls k c s else s

/-- A call in COUNTDOWN (R130). The drawn hold is discarded: no rule uses it again. What the hold register then holds
the manual does not say; the model keeps the number until the next countdown draws (DESIGN CHOICE, log 39). -/
def callRestage (o : CallOrigin) (c : Stamp) (s : State) : State :=
  let s := s.onRace fun r => { r with
    state := .staged, countdownStep := 0, drawRuns := Vector.replicate 8 .idle, stagedStamp := c }
  let s := setLamps lampsDark s
  chargeCall o 4 c (powerRace .staged c (handChange .restaged c s))

/-- A call in GREEN or RUNOUT (R131). The racing tick count stops at the call's stamp, that tick counted (R35); a HALT
whose end is at that very tick is log 14. -/
def callStart (o : CallOrigin) (c : Stamp) (s : State) : State :=
  let from_ : CalledFrom := if s.race.state = .runout then .runout else .green
  let backup := if s.race.state = .runout then s.race.runoutDeadline.getD 0 - heatClock s else s.race.runoutBackup
  let s := stopRacing c s
  let s := s.onRace fun r => { r with
    state := .called, calledFrom := from_, runoutBackup := backup, lamps := lampAmber, flashStart := some c }
  chargeCall o 1 c (powerRace .called c (handChange (.called from_) c s))

/-- A call in CALLED (R132). -/
def callMerge (o : CallOrigin) (c : Stamp) (s : State) : State := callNotice o 3 c s

/-- A call in RESUMING (R133). -/
def callAgain (o : CallOrigin) (c : Stamp) (s : State) : State :=
  let s := s.onRace fun r => { r with
    state := .called, resumeStart := none, lamps := lampAmber, flashStart := some c }
  chargeCall o 2 c (powerRace .called c (handChange (.called s.race.calledFrom) c s))

/-- A call reaches race control (R129); one that follows the run-out's expiry is ignored (R131). -/
def takeCall (o : CallOrigin) (c : Stamp) (s : State) : State :=
  match s.race.state with
  | .idle => s
  | .staged => s
  | .countdown => callRestage o c (countCall o s)
  | .green => callStart o c (countCall o s)
  | .runout => if runoutOver s then s else callStart o c (countCall o s)
  | .called => callMerge o c (countCall o s)
  | .resuming => callAgain o c (countCall o s)

/-! ### Resume (R137, R138) -/

/-- A RESUME notice. -/
def resumeNotice (subcode : Nat) (x : Stamp) (b : Nat) (s : State) : State :=
  deliver (plainNotice .resume subcode (currentLabel s) x s.race.callCount b) s

/-- The resume begins in CALLED (R137). -/
def beginResume (x : Stamp) (s : State) : State :=
  let s := s.onRace fun r => { r with
    state := .resuming, resumeStart := some x, lamps := lampAmber, flashStart := none }
  resumeNotice 1 x s.race.calledFrom.code (powerRace .resuming x (handChange .resuming x s))

/-- The resume delay ends with stamp c1 (R138). The run-out deadline is the heat clock plus the backup (R115), which then
keeps its value out of use (DESIGN CHOICE, log 46). -/
def finishResume (c1 : Stamp) (s : State) : State :=
  let back := s.race.calledFrom.target
  let deadline := if back = .runout then some (heatClock s + s.race.runoutBackup) else s.race.runoutDeadline
  let s := s.onRace fun r => { r with
    state := back, calledFrom := .none, resumeStart := none, runoutDeadline := deadline }
  let s := setLamps (lampsFor back) s
  let s := startRacing c1 (handChange (.resumed back) c1 s)
  resumeNotice 2 c1 back.code (powerRace back c1 s)

end Sys2Proof.Machine
end

