-- ==== Sys2Proof/Machine/Books.lean ====
section
/-! DEFINITION. Lap timing arithmetic and lap books (chapter 5). -/

namespace Sys2Proof.Machine

open Config

/-! ### Closing a sector (R86 to R90, R95) -/

/-- How an accepted crossing on a LAPPING or HUNT lane was classified. -/
inductive Accepted where
  | inOrder
  /-- A CUT or MISS skip over so many gates. -/
  | skip (k : Nat)
  | huntEnd
  deriving DecidableEq, Repr

/-- The frozen ticks of the sector at a crossing or cut with stamp x (R86 step 1, R87). -/
def frozenAt (c0 : Option Stamp) (x : Stamp) (l : LapLane) : Nat :=
  if l.freezeOpen then l.sectorFrozen + interval (laterOf (c0.getD l.lastCrossing) l.lastCrossing) x
  else l.sectorFrozen

/-- The sector a crossing of gate g closes on a lane of gate count n (R89). -/
def closedSector (n g : Nat) : Nat := if g = 0 then n else g

/-- The sectors closed by the gates a skip of k gates from gate e on passes over made absent (R89). -/
def dropSectors (e : Nat) : Nat → Splits → Splits
  | 0, x => x
  | k + 1, x => dropSectors (e + 1) k (x.store e none)

/-- The working splits after a crossing of gate g (R89, R90). -/
def placeSplit (n g : Nat) (how : Accepted) (stored : Nat) (l : LapLane) : Splits :=
  if n < 2 then l.splits
  else
    match how with
    | .inOrder => l.splits.store (closedSector n g) (some stored)
    | .skip k => (dropSectors l.expected k l.splits).store (closedSector n g) (some stored)
    | .huntEnd => Splits.absent

/-- A time is below the best so far, or there is none (R95). -/
def beatsSlot (best : Option Nat) (v : Nat) : Bool :=
  match best with
  | none => true
  | some b => decide (v < b)

/-- The best splits after a crossing of gate g (R95). -/
def placeBest (n g : Nat) (how : Accepted) (frozen stored : Nat) (l : LapLane) : Splits :=
  let sector := closedSector n g
  if how = .inOrder ∧ 2 ≤ n ∧ frozen = 0 ∧ beatsSlot (l.bestSplits.slot sector) stored then
    l.bestSplits.store sector (some stored)
  else l.bestSplits

/-- An accepted crossing closes the sector being timed (R86), before R70 moves the last crossing stamp on. -/
def closeSector (n g : Nat) (how : Accepted) (c0 : Option Stamp) (x : Stamp) (l : LapLane) : LapLane :=
  let frozen := frozenAt c0 x l
  let stored := split24 (interval l.lastCrossing x - frozen)
  { l with
    splits := placeSplit n g how stored l
    bestSplits := placeBest n g how frozen stored l
    lapFrozen := l.lapFrozen + frozen
    sectorFrozen := 0 }

/-! ### The lap record (R91 to R96) -/

/-- The lap completed on a lane at stamp x, with what the other blocks say of it; whether it becomes the best lap is
among its flags (R91, R92, R94, R96). -/
def buildRecord (k : Lane) (x : Stamp) (racer label : Byte) (position : Nat) (isDegraded : Bool) (l : LapLane) :
    LapRecord :=
  let raw := interval l.lapStart x
  let long := decide (0xFFFFFFFF < raw)
  let net := if long then 0xFFFFFFFF else raw - l.lapFrozen
  let frozen := sat32 l.lapFrozen
  let unverified := l.unverified || long
  let best := !l.cutMark && !unverified && decide (frozen = 0) && (decide (l.bestLap = 0) || decide (net < l.bestLap))
  { flags := lapFlags l.cutMark l.missMark unverified best l.capService l.haltService isDegraded (decide (0 < frozen))
    lane := laneNo k
    racer := racer
    label := label
    position := position
    tallies := min l.lapTally 255
    lapNumber := sat16 l.laps
    net := net
    frozen := frozen
    splits := l.splits
    stamp := x }

/-- The record carries BEST. -/
def LapRecord.isBest (r : LapRecord) : Bool := r.flags.getLsbD 3

/-! ### Lap books (R98 to R100) -/

/-- Bytes 1 to 31 of a lap page. -/
def lapBytes (h : HeldLap) : List Byte :=
  let r := h.record
  [r.flags, BitVec.ofNat 8 r.lane, r.racer, r.label] ++ bytesOf 1 r.position ++ bytesOf 1 h.lost ++
    bytesOf 1 r.tallies ++ bytesOf 2 r.lapNumber ++ bytesOf 4 r.net ++ bytesOf 4 r.frozen ++ splitsBytes r.splits ++
    stampBytes r.stamp

/-- The state of the page at a lane's cursor is read: whether it is OPEN (R98). -/
def pageOpen (k : Lane) (s : State) : State × Bool := recheck (pageAddr k (s.lap k).pageCursor) 0xFF 1 s

/-- A record written into the page at the cursor (R98): whether it was handed over. -/
def writePage (k : Lane) (h : HeldLap) (s : State) : State × Bool :=
  let a := pageAddr k (s.lap k).pageCursor
  let r := recheck a 0xFF 1 (deviceWrite (a + 1) (lapBytes h) s)
  if r.2 then
    let t := deviceWrite a [2] r.1
    let t := t.onLapLane k fun l => { l with pageCursor := l.pageCursor + 1 }
    (t.onPort (HostPort.setSum sumPage), true)
  else (r.1, false)

/-- Held records written while the page at the cursor is OPEN, oldest first (R100). -/
def retryLaps (k : Lane) : List HeldLap → State → State
  | [], s => s
  | h :: rest, s =>
    let e := pageOpen k s
    if e.2 then
      let r := writePage k h e.1
      if r.2 then retryLaps k rest (r.1.onLapLane k fun l => { l with bookQueue := rest }) else r.1
    else e.1

/-- The retry of a lane's hold queue (R100). -/
def retryBook (k : Lane) (s : State) : State := retryLaps k (s.lap k).bookQueue s

/-- The retry of every lane's hold queue, lane 1 first; the manual leaves the order open (R100; log 4). -/
def retryBooks (s : State) : State := allLanes.foldl (fun s k => retryBook k s) s

/-- A record is accepted (R99): it takes its lost field from the lost count. -/
def acceptLap (k : Lane) (r : LapRecord) (s : State) : State × HeldLap :=
  let m := min (s.lap k).bookLost 255
  (s.onLapLane k fun l => { l with bookLost := l.bookLost - m }, { record := r, lost := m })

/-- An accepted record joins the tail of the hold queue (R99). -/
def holdLap (k : Lane) (h : HeldLap) (s : State) : State :=
  s.onLapLane k fun l => { l with bookQueue := l.bookQueue ++ [h] }

/-- A lap record arrives at its lane's book (R99). The arrival retries every lane's hold queue (R100). -/
def arriveLap (k : Lane) (r : LapRecord) (s : State) : State :=
  let s := retryBooks s
  match (s.lap k).bookQueue with
  | [] =>
    let h := acceptLap k r s
    let e := pageOpen k h.1
    if e.2 then
      let w := writePage k h.2 e.1
      if w.2 then w.1 else holdLap k h.2 w.1
    else holdLap k h.2 e.1
  | q =>
    if q.length < lapHold then
      let h := acceptLap k r s
      holdLap k h.2 h.1
    else
      (s.onLapLane k fun l => { l with bookLost := raise 65535 l.bookLost 1 }).onPort (HostPort.setFlt fltLapLoss)

/-! ### Lap starts and freezes (R84, R85, R93) -/

/-- The service marks of a lap that starts now (R93). -/
def markServices (k : Lane) (s : State) : State :=
  s.onLapLane k fun l => { l with haltService := servingHalt s k, capService := servingCap s k }

/-- A lane that takes part in a freeze (R84). -/
def LaneState.assembling : LaneState → Bool
  | .grid => true
  | .lapping => true
  | .hunt => true
  | _ => false

/-- A freeze opens (R84). -/
def openFreeze (c0 : Stamp) (l : LapEngine) : LapEngine :=
  { l with
    freezeStamp := some c0
    lanes := l.lanes.map fun r => { r with freezeOpen := r.state.assembling } }

/-- The freeze closes (R85). -/
def closeFreeze (c1 : Stamp) (l : LapEngine) : LapEngine :=
  { l with
    freezeStamp := none
    lanes := l.lanes.map fun r => { r with sectorFrozen := frozenAt l.freezeStamp c1 r, freezeOpen := false } }

/-- The freeze is discarded with nothing added (R85). -/
def dropFreeze (l : LapEngine) : LapEngine :=
  { l with freezeStamp := none, lanes := l.lanes.map fun r => { r with freezeOpen := false } }

end Sys2Proof.Machine
end

