-- ==== Sys2Proof/Machine/Laps.lean ====
section
/-! DEFINITION. Lap assembly (chapter 4): the classification of crossings, what each outcome does, and the taking of
race changes. -/

namespace Sys2Proof.Machine

open Config

/-! ### Counts (R74) -/

/-- A lane assembles a lap: LAPPING or HUNT. -/
def LaneState.timing : LaneState → Bool
  | .lapping => true
  | .hunt => true
  | _ => false

/-- A discarded crossing or a fold counted on a lane (R74). -/
def countDiscard (l : LapLane) : LapLane :=
  if l.state = .vacant then l
  else { l with
    discardTally := raise 65535 l.discardTally 1
    lapTally := if l.state.timing then raise 255 l.lapTally 1 else l.lapTally }

/-- A fold reaches the lap engine (R42, R74). -/
def takeFold (k : Lane) (s : State) : State := s.onLapLane k countDiscard

/-! ### The classification ladder (R55, R59, R62 to R69, R75 to R77) -/

/-- What a crossing is. -/
inductive Verdict where
  /-- In the IDLE view: discarded, not counted and not reported (R55). -/
  | ignored
  | stray
  /-- Discarded and counted, with no other effect (STAGED view, GRID sector, HUNT sector, FINISHED). -/
  | discarded
  | jump
  | gridStart
  | gridFinish
  | ghost
  | inOrder
  | repeated
  | cut (k : Nat)
  | miss (k : Nat)
  | fault
  | huntEnd
  deriving DecidableEq, Repr

/-- A line crossing too soon after the lap start to be a lap (R62). -/
def isGhost (minLap : Nat) (c : Crossing) (l : LapLane) : Bool :=
  decide (c.gate = 0) && decide (interval l.lapStart c.stamp < 100 * minLap)

/-- A crossing on a LAPPING lane of gate count n (R62 to R67). -/
def ladder (n missTolerance minLap : Nat) (c : Crossing) (l : LapLane) : Verdict :=
  let g := c.gate.val
  let k := (g + n - l.expected) % n
  if isGhost minLap c l then .ghost
  else if g = l.expected then .inOrder
  else if g = l.last then .repeated
  else if g ≠ 0 ∧ g < l.expected ∨ l.expected = 0 then .fault
  else if l.callMarker then .cut k
  else if k = 1 ∧ missTolerance = 1 then .miss k
  else .fault

/-- What a crossing is in the race view in force (R55). -/
def classify (s : State) (c : Crossing) : Verdict :=
  let l := s.lap c.lane
  let v := s.laps.view
  if v.state = .idle then .ignored
  else if l.state = .vacant then .stray
  else if v.state = .staged then .discarded
  else if v.state = .countdown then .jump
  else
    match l.state with
    | .vacant => .stray
    | .grid =>
      if c.gate = 0 ∧ v.goneGreen then (if v.runoutPhase then .gridFinish else .gridStart) else .discarded
    | .lapping =>
      ladder (s.geom c.lane).gateCount ((s.laps.setup.map LapSetup.missTolerance).getD 0) s.laps.minLap c l
    | .hunt => if c.gate ≠ 0 then .discarded else if isGhost s.laps.minLap c l then .ghost else .huntEnd
    | .finished => .discarded

/-- The verdict accepts a G0 crossing, which the penalty unit is handed under R150. -/
def Verdict.acceptedLine (v : Verdict) (gate : GateNo) : Bool :=
  match v with
  | .gridStart => true
  | .gridFinish => true
  | .huntEnd => true
  | .inOrder => decide (gate = 0)
  | .cut _ => decide (gate = 0)
  | .miss _ => decide (gate = 0)
  | _ => false

/-! ### Acceptance (R70) -/

/-- The effects of every accepted crossing on its lane (R70). -/
def accept (n : Nat) (c : Crossing) (heat : Nat) (halted : Bool) (l : LapLane) : LapLane :=
  let g := c.gate.val
  { l with
    last := g
    expected := (g + 1) % n
    lastCrossing := c.stamp
    lastLine := if g = 0 then some c.stamp else l.lastLine
    callMarker := false
    stalled := false
    stallRef := heat
    haltInSector := halted }

/-- An ANOMALY notice of the lap engine. -/
def anomaly (subcode : Nat) (c : Crossing) (a b : Nat) (s : State) : State :=
  deliver (laneNotice .anomaly subcode c.lane (pick s.laps.racers c.lane) s.laps.label c.stamp a b) s

/-! ### The finish (R77, R78) -/

/-- A lane becomes FINISHED, and its finish is handed to the penalty unit, standings and race control (R77). -/
def finishLane (k : Lane) (x : Stamp) (afterCut : Bool) (s : State) : State :=
  let s := s.onLapLane k fun l => { l with state := .finished, huntFlag := false, freezeOpen := false }
  let s := powerFinished k x s
  let s := penFinish k x s
  let s := standFinish k afterCut s
  raceFinish k x s

/-- A lap starts at stamp x (R71 step 6, R89, R91, R93). -/
def startLap (k : Lane) (x : Stamp) (s : State) : State :=
  markServices k (s.onLapLane k fun l => { l with
    lapStart := x, cutMark := false, missMark := false, unverified := false, lapTally := 0,
    splits := Splits.absent, lapFrozen := 0 })

/-- A lap completion (R71), after R70 and R86. One handled after an ABORT HEAT slip, before the lap engine takes the ABORT,
finds race control in IDLE: R173 re-sorts at every completion, R184 keeps the running order from the return to IDLE on.
The model counts the lap and re-sorts (DESIGN CHOICE, log 44). At a completion that finishes its lane R74 has the lap
tally return to 0, R71 step 6 returns it and the lap marks only where the crossing does not finish the lane: the model
leaves tally and marks until the next staging (DESIGN CHOICE, log 45). -/
def completeLap (c : Crossing) (view : RaceView) (s : State) : State :=
  let k := c.lane
  let s := s.onLapLane k fun l => { l with laps := raise 65535 l.laps 1 }
  let r := lapCompleted k c.stamp view s
  let s := resort r.1
  let l := s.lap k
  let rec_ := buildRecord k c.stamp (pick s.laps.racers k) s.laps.label (s.standLane k).position
    (degraded l.lapStart c.stamp s) l
  let s := s.onLapLane k fun l => { l with
    bestLap := if rec_.isBest then rec_.net else l.bestLap, lapFrozen := 0 }
  let s := arriveLap k rec_ s
  let s := penAcceptedLine k c.stamp true r.2 view s
  if r.2 then finishLane k c.stamp false s else startLap k c.stamp s

/-- A crossing accepted on a LAPPING lane, or on a HUNT lane at the line: the sector closed, R70, the lap's mark, and
at the line the completion. -/
def acceptCrossing (c : Crossing) (how : Accepted) (mark : LapLane → LapLane) (s : State) : State :=
  let n := (s.geom c.lane).gateCount
  let view := s.laps.view
  let heat := heatClock s
  let halted := servingHalt s c.lane
  let s := s.onLapLane c.lane fun l =>
    mark (accept n c heat halted (closeSector n c.gate.val how s.laps.freezeStamp c.stamp l))
  if c.gate = 0 then completeLap c view s else s

/-- A first line crossing starts a GRID lane (R59, R86, R93). -/
def startGrid (c : Crossing) (s : State) : State :=
  let n := (s.geom c.lane).gateCount
  let view := s.laps.view
  let s := s.onLapLane c.lane fun l => { accept n c (heatClock s) (servingHalt s c.lane) l with
    state := .lapping, lapStart := c.stamp, sectorFrozen := 0, lapFrozen := 0, splits := Splits.absent }
  markServices c.lane (penAcceptedLine c.lane c.stamp false false view s)

/-- A line crossing finishes a GRID lane in the run-out (R77), with 0 in both frozen accumulators (R91). One handled after an
ABORT HEAT slip, before the lap engine takes the ABORT, finds race control in IDLE: R77 and R178 finish the lane, with its
finished mark, and its conversions may re-sort, R184 keeps marks and order from the return to IDLE on. The model lets the
finish stand (DESIGN CHOICE, log 44). -/
def finishGrid (c : Crossing) (s : State) : State :=
  let n := (s.geom c.lane).gateCount
  let view := s.laps.view
  let s := s.onLapLane c.lane fun l => { accept n c (heatClock s) (servingHalt s c.lane) l with
    sectorFrozen := 0, lapFrozen := 0 }
  finishLane c.lane c.stamp false (penAcceptedLine c.lane c.stamp false true view s)

/-- A jump crossing in the COUNTDOWN view (R75). -/
def takeJump (c : Crossing) (s : State) : State :=
  let fresh := !(s.lap c.lane).jumpMark
  let s := s.onLapLane c.lane fun l => { countDiscard l with jumpMark := true }
  if fresh then jumpCrossing c.lane c.stamp s else s

/-- What a crossing does, by its verdict. -/
def applyVerdict (v : Verdict) (c : Crossing) (s : State) : State :=
  let g := c.gate.val
  match v with
  | .ignored => s
  | .stray => deliver (laneNotice .anomaly 3 c.lane 0 s.laps.label c.stamp g 0) s
  | .discarded => s.onLapLane c.lane countDiscard
  | .ghost => s.onLapLane c.lane countDiscard
  | .repeated => s.onLapLane c.lane countDiscard
  | .jump => takeJump c s
  | .gridStart => startGrid c s
  | .gridFinish => finishGrid c s
  | .inOrder => acceptCrossing c .inOrder id s
  | .cut k =>
    anomaly 1 c k g (trigger trigCut c.lane c.stamp
      (acceptCrossing c (.skip k) (fun l => { l with cutMark := true }) s))
  | .miss k => acceptCrossing c (.skip k) (fun l => { l with missMark := true }) s
  | .fault =>
    let e := (s.lap c.lane).expected
    anomaly 2 c e g (s.onLapLane c.lane fun l => { countDiscard l with
      state := .hunt, huntFlag := true, unverified := true })
  | .huntEnd => acceptCrossing c .huntEnd (fun l => { l with state := .lapping, huntFlag := false }) s

/-- The lap engine takes a crossing (R55), with the PUSH check of R82 for a crossing that R150 does not check. -/
def takeCrossing (o : Orders) (c : Crossing) (s : State) : State :=
  let v := classify s c
  let view := s.laps.view
  if v.acceptedLine c.gate then applyVerdict v c s
  else if o.pushFirst then applyVerdict v c (pushCheck c.lane c.stamp view s)
  else pushCheck c.lane c.stamp view (applyVerdict v c s)

/-! ### Race changes (R54, R56 to R60, R73, R77 to R79) -/

/-- The crossings stamped before a change, taken from the head of the crossing queue (R54). -/
def drain (o : Orders) (x : Stamp) : List Crossing → State → State
  | [], s => s
  | c :: rest, s =>
    if isLater c.stamp x then drain o x rest (takeCrossing o c (s.onGates fun g => { g with queue := rest })) else s

/-- The staging change at the lap engine (R56, R97). -/
def lapStaging (x : Stamp) (label : Byte) (gridOn : Bool) (minLap : Nat) (racers : PerLane Byte) (s : State) : State :=
  s.onLaps fun l => { l with
    label := label, gridOn := gridOn, minLap := minLap, racers := racers,
    view := { state := .staged, calledFrom := .none, goneGreen := false }, freezeStamp := none,
    lanes := tabulate fun k =>
      let r := pick l.lanes k
      { LapLane.reset with
        state := if pick racers k = 0 then .vacant else .grid
        lapStart := x, lastCrossing := x, pageCursor := r.pageCursor, bookQueue := r.bookQueue
        bookLost := r.bookLost } }

/-- GREEN entry at one lane (R58). -/
def lapGreen (gridOn : Bool) (n : Nat) (g : Stamp) (l : LapLane) : LapLane :=
  let l := if l.state = .grid ∧ gridOn then { l with
    state := .lapping, lapStart := g, lastCrossing := g, last := 0, expected := if 2 ≤ n then 1 else 0 } else l
  if l.state = .grid ∨ l.state = .lapping then { l with stallRef := 0 } else l

/-- GREEN entry at the lap engine (R58, R93). -/
def lapEnterGreen (g : Stamp) (s : State) : State :=
  s.onLaps fun l => { l with
    view := { l.view with state := .green, goneGreen := true },
    lanes := tabulate fun k =>
      let was := pick l.lanes k
      let r := lapGreen l.gridOn (s.geom k).gateCount g was
      if was.state = .grid ∧ r.state = .lapping then
        { r with haltService := servingHalt s k, capService := servingCap s k }
      else r }

/-- A CALLED entry at the lap engine (R73, R84). From RESUMING the freeze is already open. -/
def lapCalled (callFrom : CalledFrom) (c : Stamp) (s : State) : State :=
  s.onLaps fun l =>
    let opened := if l.view.state = .resuming then l else openFreeze c l
    { opened with
      view := { l.view with state := .called, calledFrom := callFrom }
      lanes := opened.lanes.map fun r => { r with callMarker := true } }

/-- The cut data the lap engine hands standings (R78, R87). -/
def cutData (k : Lane) (x : Stamp) (s : State) : CutData :=
  let l := s.lap k
  { before := l.state
    last := l.last
    lastCrossing := l.lastCrossing
    sectorFrozen := frozenAt s.laps.freezeStamp x l
    bestSplit := if 2 ≤ (s.geom k).gateCount then l.bestSplits.slot (l.last + 1) else none
    bestLap := l.bestLap
    haltInSector := l.haltInSector
    instant := x }

/-- A cut of one lane (R78): nothing for a FINISHED or VACANT lane. -/
def cutLane (byRetire : Bool) (x : Stamp) (s : State) (k : Lane) : State :=
  if (s.lap k).state.assembling then finishLane k x true (standCut k byRetire (cutData k x s) s) else s

/-- The lanes a cut takes, in the order chosen and then lane 1 first (log 4). -/
def cutOrder (o : Orders) : List Lane := completeOrder o.cuts allLanes

/-- The abort at one lane (R79, R157). -/
def abortLane (x : Stamp) (s : State) (k : Lane) : State :=
  if (s.lap k).state.assembling then
    penAbortFinish k x (powerFinished k x (s.onLapLane k fun l => { l with
      state := .finished, huntFlag := false, freezeOpen := false }))
  else s

/-- The view becomes IDLE and every lane VACANT (R60, R85). That the view's gone-green mark is cleared here too is the
model's choice: R60 and R79 do not say, and the staging change clears it in any case (R56; DESIGN CHOICE, log 36). -/
def lapIdle (s : State) : State :=
  s.onLaps fun l =>
    let d := dropFreeze l
    { d with
      view := { state := .idle, calledFrom := .none, goneGreen := false }
      lanes := d.lanes.map fun r => { r with state := .vacant } }

/-- The action of a race change on the lap engine (the table of R54), after its drain. -/
def applyChange (o : Orders) (ch : Change) (s : State) : State :=
  let x := ch.stamp
  match ch.kind with
  | .staging label gridOn minLap racers => lapStaging x label gridOn minLap racers s
  | .countdown => s.onLaps fun l => { l with
      view := { l.view with state := .countdown }, lanes := l.lanes.map fun r => { r with jumpMark := false } }
  | .restaged => s.onLaps fun l => { l with view := { l.view with state := .staged } }
  | .green => lapEnterGreen x s
  | .called callFrom => lapCalled callFrom x s
  | .resuming => s.onLaps fun l => { l with view := { l.view with state := .resuming } }
  | .resumed backTo => s.onLaps fun l =>
      { closeFreeze x l with view := { l.view with state := backTo, calledFrom := .none } }
  | .runout => s.onLaps fun l => { l with
      view := if l.view.state.frozen then { l.view with calledFrom := .runout } else { l.view with state := .runout } }
  | .cutUnfinished => (cutOrder o).foldl (cutLane false x) s
  | .retire k => cutLane true x s k
  | .abort => lapIdle (allLanes.foldl (abortLane x) s)
  | .settle => lapIdle s

/-- The crossings stamped before an ABORT HEAT change leave the queue, not counted and not reported (R79). -/
def discardEarlier (x : Stamp) (s : State) : State :=
  s.onGates fun g => { g with queue := g.queue.filter fun c => !isLater c.stamp x }

/-- The head of the pending change list is taken (R54): its drain, its action, and it leaves the list. -/
def takeHeadChange (o : Orders) (s : State) : State :=
  match s.laps.changes with
  | [] => s
  | ch :: _ =>
    let drained := match ch.kind with
      | .abort => discardEarlier ch.stamp s
      | _ => drain o ch.stamp s.gates.queue s
    (applyChange o ch drained).onLaps fun l => { l with changes := l.changes.tail }

/-- The head of the pending change list may be taken (R54): the present stamp is two ticks after its own, or more. -/
def changeDue (s : State) : Bool :=
  match s.laps.changes with
  | [] => false
  | ch :: _ => atOrAfter (ch.stamp + 2) (now s)

/-- Pending changes taken while the head is due, at most so many. -/
def takeDue (o : Orders) : Nat → State → State
  | 0, s => s
  | n + 1, s => if changeDue s then takeDue o n (takeHeadChange o s) else s

/-- Every pending race change then due is taken (R46, R54). A change taken can hand on at most a RUNOUT, a cut and a
settle, so that the count below is never short. -/
def takeAllDue (o : Orders) (s : State) : State := takeDue o (s.laps.changes.length + 4) s

/-- One crossing taken from the head of the queue, and the changes it makes due at once (R46, R54). -/
def takeNext (o : Orders) (s : State) : State :=
  match s.gates.queue with
  | [] => s
  | c :: rest => takeAllDue o (takeCrossing o c (s.onGates fun g => { g with queue := rest }))

/-- So many crossings taken, oldest first (R46). -/
def takeSome (o : Orders) : Nat → State → State
  | 0, s => s
  | n + 1, s => if s.gates.queue = [] then s else takeSome o n (takeNext o s)

/-- The lap engine's work at a service tick (R46). -/
def crossingWork (o : Orders) (s : State) : State := takeSome o takeLimit (takeAllDue o s)

end Sys2Proof.Machine
end

