-- ==== Sys2Proof/Machine/Refresh.lean ====
section
/-! DEFINITION. The refresh of race status and lane status (R11): every field takes its owning block's value. -/

namespace Sys2Proof.Machine

open Config

/-- Bytes 1 to 28 of race status (section 1.4). -/
def raceStatusBytes (s : State) : List Byte :=
  bytesOf 1 s.race.state.code ++ bytesOf 1 s.race.calledFrom.code ++ bytesOf 1 s.race.cardCursor.val ++
    [currentLabel s] ++ bytesOf 4 (heatClock s) ++ bytesOf 2 (sat16 (runoutRemaining s)) ++
    bytesOf 2 s.race.callCount ++ bytesOf 1 ((s.race.lastCallSource.map CallSource.code).getD 0) ++
    bytesOf 1 s.race.lastCallWho ++ bytesOf 1 s.time.refState.code ++ [s.time.epoch] ++
    bytesOf 4 s.time.tickCount.toNat ++ bytesOf 1 s.port.slipCursor.val ++ bytesOf 1 s.port.noticeCursor.val ++
    bytesOf 2 s.port.noticeLost ++ bytesOf 1 s.race.lamps.toNat ++ bytesOf 1 (if s.port.setupLoaded then 1 else 0) ++
    bytesOf 2 (s.race.lfsr.getD 0).toNat

/-- Two warning counters, one nibble each. -/
def warningByte (l : PenLane) (high low : Fin 8) : Byte :=
  BitVec.ofNat 8 (16 * pick l.warnings high + pick l.warnings low)

/-- The serving kind and serial of a lane; none is 0 and 0 (R160). -/
def servingBytes (l : PenLane) : List Byte :=
  match l.serving with
  | some e => bytesOf 1 e.kind.code ++ bytesOf 2 e.serial.toNat
  | none => [0, 0, 0]

/-- Bytes 1 to 59 of a lane status block (section 1.4). -/
def laneStatusBytes (s : State) (k : Lane) : List Byte :=
  let l := s.lap k
  let p := s.penLane k
  let d := s.standLane k
  bytesOf 1 l.state.code ++ [currentRacer s k] ++
    [laneFlags d.retired (servingHalt s k) (servingCap s k) l.stalled l.huntFlag] ++
    bytesOf 2 l.laps ++ bytesOf 2 (scoredLaps s k) ++ bytesOf 2 p.deducted ++ bytesOf 1 d.position ++
    bytesOf 1 (if (s.geom k).gateCount = 0 then 0 else l.expected) ++ bytesOf 1 l.last ++
    stampBytes l.lapStart ++ stampBytes l.lastCrossing ++
    bytesOf 4 l.bestLap ++ splitsBytes l.bestSplits ++ bytesOf 4 p.timePenalty ++
    bytesOf 1 (pick s.race.callsUsed k) ++ [warningByte p 0 1, warningByte p 2 3, warningByte p 4 5, warningByte p 6 7] ++
    bytesOf 1 p.queue.length ++ servingBytes p ++ bytesOf 2 (sat16 (servingRemaining s k)) ++
    bytesOf 1 l.pageCursor.val ++ bytesOf 2 l.bookLost ++ bytesOf 2 l.discardTally ++ bytesOf 4 (finalDistance s k)

/-- One lane status block refreshed as one update (R10, R11), its fields by address (DESIGN CHOICE, log 41). -/
def refreshLane (s : State) (k : Lane) : State :=
  updateBlock (laneStatusAddr k) [(laneStatusAddr k + 1, laneStatusBytes s k)] s

/-- Race status and the eight lane status blocks refreshed (R11): race status first, then lane 1 to lane 8 (DESIGN CHOICE,
log 41). -/
def refreshStatus (s : State) : State :=
  allLanes.foldl refreshLane (updateBlock raceStatusBase [(raceStatusBase + 1, raceStatusBytes s)] s)

end Sys2Proof.Machine
end

