-- ==== Sys2Proof/Machine/Resets.lean ====
section
/-! DEFINITION. Hard and soft reset (section 1.8) and the commands HARD_RESET, RESET_RISING_EDGE, MEMORY_CLEAR_DONE
and SOFT_RESET_END. SOFT_RESET is a write of CTL (Machine/Port.lean). -/

namespace Sys2Proof.Machine

open Config

/-- A hard reset begins (R21): every block at its hard-reset values. Record memory is cleared after the rising edge. -/
def beginHardReset (s : State) : State := { State.reset with pending := s.pending, mem := s.mem, pins := s.pins }

/-- HARD_RESET (R21). -/
def execHardReset (s : State) : Host.Outcome State Fault Refusal := .next (beginHardReset s)

/-- RESET# rises, or power-on ends (R21, R24, R37): counting and the memory clear start. -/
def riseReset (refRunning : Bool) (s : State) : State :=
  if s.phase = .inReset then
    { s.onTime (fun t => { t with refState := if refRunning then .warmup else .fallback }) with phase := .clearing }
  else s

/-- RESET_RISING_EDGE (R21). -/
def execResetRisingEdge (refRunning : Bool) (s : State) : Host.Outcome State Fault Refusal :=
  .next (riseReset refRunning s)

/-- The memory clear completes (R21): all of record memory is 0, and SUM.STARTED is set. -/
def finishClear (s : State) : State :=
  if s.phase = .clearing then
    { (s.onMem fun _ => []).onPort (HostPort.setSum sumStarted) with phase := .running }
  else s

/-- MEMORY_CLEAR_DONE (R21). -/
def execMemoryClearDone (s : State) : Host.Outcome State Fault Refusal := .next (finishClear s)

/-! ### Soft reset -/

/-- The blocks at the start of a soft reset (R22): reset values, with record memory, CTL.LANES_OFF and the reference
kept. REFCLK is running just when the reference state is not FALLBACK (R37). -/
def softBlocks (s : State) : State :=
  { State.reset with
    pending := s.pending, phase := .softReset, mem := s.mem, pins := s.pins
    port := { HostPort.reset with
      ctl := s.port.ctl &&& ctlLanesOff, turns := s.port.turns, dataOut := s.port.dataOut,
      turnReads := s.port.turnReads }
    time := { Timebase.reset with
      refState := if s.time.refState = .fallback then .fallback else .warmup, quiet := s.time.quiet } }

/-- The heat entry race control owned before the reset is voided if it reads RUNNING (R23). The notice's heat label is
read right after the state byte, before the reason is written (DESIGN CHOICE, log 37). -/
def voidHeat (was : RaceControl) (s : State) : State :=
  if was.state = .idle then s
  else
    let a := entryAddr was.cardCursor
    let e := deviceRead a s
    if e.2 = 2 then
      let label := deviceRead (a + 1) e.1
      let r := recheck a 0xFF 2 (deviceWrite (a + 7) [7] label.1)
      if r.2 then
        deliver (plainNotice .heat 7 label.2 (now r.1) was.cardCursor.val 7) (deviceWrite a [4] r.1)
      else r.1
    else e.1

/-- A soft reset starts (R22, R23). -/
def beginSoftReset (s : State) : State := voidHeat s.race (softBlocks s)

/-- The soft reset ends (R22): the status blocks refreshed once, then SUM.STARTED. -/
def finishSoftReset (s : State) : State :=
  if s.phase = .softReset then
    { (refreshStatus s).onPort (HostPort.setSum sumStarted) with phase := .running }
  else s

/-- SOFT_RESET_END (R22). -/
def execSoftResetEnd (s : State) : Host.Outcome State Fault Refusal := .next (finishSoftReset s)

end Sys2Proof.Machine
end

