-- ==== Sys2Proof/Machine/Port.lean ====
section
/-! DEFINITION. The host bus and the register window (sections 1.1 and 1.2), and the commands that are host accesses:
HOST_MEMORY_READ, HOST_MEMORY_WRITE, the register writes, LANES_OFF and SOFT_RESET. -/

namespace Sys2Proof.Machine

open Config

/-- Record memory serves the host (R8, R21): from the end of the memory clear on, and through a soft reset. -/
def memoryOpen (s : State) : Bool := decide (s.phase = .running) || decide (s.phase = .softReset)

/-- A host access to record memory: whole, after those that still wait, or waiting for its turn inside a device step
(R2; log 5). -/
def memoryAccess (landing : Landing) (addr : BitVec 15) (data : Option Byte) (s : State) : State :=
  match landing with
  | .whole => transfer addr data (landAll s)
  | .inside n => s.onPort fun p => { p with
      turns := p.turns ++ [{ after := n, addr := addr, data := data }],
      turnReads := if p.turns = [] then [] else p.turnReads }

/-- The strobes frame a read (R1): CS# and RD# low, WR# high. -/
def framesRead (b : BusLines) : Bool := b.csLow && b.rdLow && !b.wrLow

/-- The strobes frame a write (R1): CS# and WR# low, RD# high. -/
def framesWrite (b : BusLines) : Bool := b.csLow && b.wrLow && !b.rdLow

/-- A host read (R1): the addressed byte on D7 to D0 when the strobes frame a read, else nothing driven. Until the memory
clear completes a byte of record memory reads 0 (R21). A read of record memory may come inside a device step (R2). -/
def hostRead (r : HostRead) (s : State) : State :=
  if s.phase = .inReset then s
  else if !framesRead r.bus then driveData none s
  else if r.bus.regselHigh then driveData (some (registerValue (r.bus.addr.truncate 3) s.port)) s
  else if memoryOpen s then memoryAccess r.landing r.bus.addr none s
  else driveData (some 0) s

/-- HOST_MEMORY_READ (R1, R2). -/
def execHostMemoryRead (bus : HostRead) (s : State) : Host.Outcome State Fault Refusal := .next (hostRead bus s)

/-! ### CTL -/

/-- A host write of CTL.LANES_OFF (R7, R170): a change is evaluated at lane power at the write. -/
def writeLanesOff (b : Bool) (s : State) : State :=
  if b = s.port.lanesOff then s
  else evalAll (now s) (s.onPort fun p => { p with ctl := if b then ctlLanesOff else 0 })

/-- A host write of CTL (R3, R7): LANES_OFF first, then a soft reset if SOFT_RESET is written 1 after SUM.STARTED. -/
def writeCtl (d : Byte) (s : State) : State :=
  let s := writeLanesOff (d.getLsbD 1) s
  if d.getLsbD 0 && decide (s.phase = .running) then beginSoftReset s else s

/-- A host write of a register (R3 to R7); offsets 5 to 7 ignore it. -/
def writeRegister (offset : BitVec 3) (d : Byte) (s : State) : State :=
  match offset.toNat with
  | 0 => s.onPort (HostPort.clearSum d)
  | 1 => s.onPort fun p => { p with sumen := d &&& 0x1F }
  | 2 => s.onPort (HostPort.clearFlt d)
  | 3 => s.onPort fun p => { p with flten := d &&& 0x0F }
  | 4 => writeCtl d s
  | _ => s

/-- A register write as a whole host access: while RESET# is low the device ignores the bus (R1). -/
def hostRegister (offset : BitVec 3) (d : Byte) (s : State) : State :=
  if s.phase = .inReset then s else writeRegister offset d (driveData none s)

/-- SUM_WRITE (R4). -/
def execSumWrite (data : Byte) (s : State) : Host.Outcome State Fault Refusal := .next (hostRegister 0 data s)

/-- SUMEN_WRITE (R5). -/
def execSumenWrite (data : Byte) (s : State) : Host.Outcome State Fault Refusal := .next (hostRegister 1 data s)

/-- FLT_WRITE (R6). -/
def execFltWrite (data : Byte) (s : State) : Host.Outcome State Fault Refusal := .next (hostRegister 2 data s)

/-- FLTEN_WRITE (R6). -/
def execFltenWrite (data : Byte) (s : State) : Host.Outcome State Fault Refusal := .next (hostRegister 3 data s)

/-- LANES_OFF (R170): a write of CTL with SOFT_RESET as 0. -/
def execLanesOff (data : Byte) (s : State) : Host.Outcome State Fault Refusal := .next (hostRegister 4 data s)

/-- SOFT_RESET (R22): a write of CTL with SOFT_RESET as 1. -/
def execSoftReset (data : Byte) (s : State) : Host.Outcome State Fault Refusal := .next (hostRegister 4 data s)

/-- UNUSED_REGISTER_WRITE (R3). -/
def execUnusedRegisterWrite (offset : BitVec 3) (data : Byte) (s : State) : Host.Outcome State Fault Refusal :=
  .next (hostRegister offset data s)

/-! ### Writes of record memory -/

/-- A host write as the bus pins frame it (R1): with REGSEL high a register, with REGSEL low a byte of record memory,
which is discarded until the memory clear completes (R21). A write of record memory may come inside a device step
(R2). -/
def hostWrite (bus : BusLines) (data : Byte) (landing : Landing) (s : State) : State :=
  if s.phase = .inReset then s
  else if !framesWrite bus then driveData none s
  else if bus.regselHigh then writeRegister (bus.addr.truncate 3) data (driveData none s)
  else if memoryOpen s then memoryAccess landing bus.addr (some data) s
  else driveData none s

/-- HOST_MEMORY_WRITE (R1, R2). -/
def execHostMemoryWrite (bus : BusLines) (data : Byte) (landing : Landing) (s : State) :
    Host.Outcome State Fault Refusal := .next (hostWrite bus data landing s)

end Sys2Proof.Machine
end

