-- ==== Sys2Proof/Machine/Gates.lean ====
section
/-! DEFINITION. The gate front end (chapter 3) and the commands of its inputs: QUALIFIED_BREAK, BREAK_RELEASED,
GATE_STUCK, the button presses and releases, DRAW_RISE and DRAW_FALL. -/

namespace Sys2Proof.Machine

open Config

/-! ### Sampling at a tick -/

/-- One sample of a mapped input (R39, R40). At a third consecutive sample the count stands at 3, and the qualified
break or the release is the step of its own row. -/
def sampleInput (t : Stamp) (high : Bool) (r : InputRec) : InputRec :=
  match r.mapping with
  | none => r
  | some m =>
    let active := decide (high = m.activeHigh)
    match r.phase with
    | .quiet => if active then { r with phase := .arming, count := 1, onset := some t } else r
    | .arming =>
      if active then { r with count := min 3 (r.count + 1) }
      else { r with phase := .quiet, count := 0, onset := none }
    | .broken => if active then r else { r with phase := .clearing, count := 1, release := some t }
    | .clearing =>
      if active then { r with phase := .broken, count := 0, release := none }
      else { r with count := min 3 (r.count + 1) }

/-- One sample of a debounced input (R49, R51). When the run count reaches its span, the change of level is the step
of its own row. -/
def sampleLevel (span : Nat) (active : Bool) (d : Debounce) : Debounce :=
  if active = d.level then { d with run := 0 } else { d with run := min span (d.run + 1) }

/-- Every mapped gate input, button and draw input sampled at a tick (R38, R49, R51). -/
def sampleGates (t : Stamp) (p : Sample) (g : GateFront) : GateFront :=
  { g with
    inputs := tabulate fun n => sampleInput t (p.gi.getLsbD n.val) (pick g.inputs n)
    driver := tabulate fun k => sampleLevel buttonRun (!p.dc.getLsbD k.val) (pick g.driver k)
    marshal := tabulate fun n => sampleLevel buttonRun (!p.mp.getLsbD n.val) (pick g.marshal n)
    director := sampleLevel buttonRun (!p.dr) g.director
    draw := tabulate fun k => sampleLevel drawRun (p.dw.getLsbD k.val) (pick g.draw k) }

/-! ### Breaks -/

/-- A crossing enters the crossing queue, or is dropped with FLT.GATE_OVERRUN (R45). -/
def enqueueCrossing (c : Crossing) (s : State) : State :=
  if s.gates.queue.length < crossingHold then s.onGates fun g => { g with queue := g.queue ++ [c] }
  else s.onPort (HostPort.setFlt fltGateOverrun)

/-- The third consecutive active sample has been taken (R39). -/
def breakDue (s : State) (n : GateIn) : Bool :=
  let r := s.input n
  r.mapping.isSome && decide (r.phase = .arming) && decide (r.count = 3)

/-- A break with onset a is folded into the input's last crossing (R41). An onset exactly 2^39 ticks from the hold-off end
is by R31 neither at or after it nor earlier: the model folds it (DESIGN CHOICE, log 31). -/
def isFold (r : InputRec) (a : Stamp) : Bool :=
  match r.holdOffEnd with
  | none => false
  | some h => !atOrAfter h a

/-- A qualified break: a crossing or a fold (R41, R42). The table of section 3.2 does not say what the sample count is in
BROKEN: the model holds 0 (DESIGN CHOICE, log 34). -/
def qualify (n : GateIn) (s : State) : State :=
  let r := s.input n
  match r.mapping, r.onset with
  | some m, some a =>
    let s := s.onInput n fun r => { r with phase := .broken, count := 0 }
    if isFold r a then takeFold m.lane s
    else enqueueCrossing { stamp := a, lane := m.lane, gate := m.gate }
      (s.onInput n fun r => { r with holdOffEnd := some (stampAfter a (s.gates.holdOff.getD 0)) })
  | _, _ => s

/-- QUALIFIED_BREAK (R39, R41). -/
def takeBreak (n : GateIn) (s : State) : State := if breakDue s n then qualify n s else s

/-- The third consecutive inactive sample has been taken (R40). -/
def releaseDue (s : State) (n : GateIn) : Bool :=
  let r := s.input n
  r.mapping.isSome && decide (r.phase = .clearing) && decide (r.count = 3)

/-- An ANOMALY notice of a gate input (R43, R44). -/
def gateNotice (subcode : Nat) (n : GateIn) (x : Stamp) (b : Nat) (s : State) : State :=
  match (s.input n).mapping with
  | none => s
  | some m =>
    deliver (laneNotice .anomaly subcode m.lane (currentRacer s m.lane) (currentLabel s) x n.val b) s

/-- The break on an input is released (R40), and a stuck mark is cleared and reported (R44). The manual says of a release
that the onset becomes absent; that the sample count is then 0 and the release stamp absent is the model's (DESIGN CHOICE,
log 34). -/
def releaseBreak (n : GateIn) (s : State) : State :=
  let r := s.input n
  let t := s.onInput n fun r => { r with
    phase := .quiet, count := 0, onset := none, release := none, stuck := false }
  match r.stuck, r.onset, r.release with
  | true, some a, some b => gateNotice 5 n b (sat16 (interval a b / 100000)) t
  | _, _, _ => t

/-- BREAK_RELEASED (R40, R44). -/
def takeRelease (n : GateIn) (s : State) : State := if releaseDue s n then releaseBreak n s else s

/-- The stuck timer has ended with the break still held (R43). Where the third inactive sample falls on the very tick at
which the timer ends, the break counts as held until its release is taken: a tick takes the release first, and
GATE_STUCK commanded before it marks and reports the input (DESIGN CHOICE, log 40). -/
def stuckDue (s : State) (n : GateIn) : Bool :=
  let r := s.input n
  r.mapping.isSome && !r.stuck && (decide (r.phase = .broken) || decide (r.phase = .clearing)) &&
    (match r.onset with
      | none => false
      | some a => durationEnded a stuckMs (now s))

/-- The input becomes stuck, and GATE_STUCK is produced with the stamp at which the timer ended (R43). -/
def becomeStuck (n : GateIn) (s : State) : State :=
  let r := s.input n
  match r.mapping, r.onset with
  | some m, some a =>
    gateNotice 4 n (stampAfter a stuckMs) m.gate.val (s.onInput n fun r => { r with stuck := true })
  | _, _ => s

/-- GATE_STUCK (R43). -/
def takeStuck (n : GateIn) (s : State) : State := if stuckDue s n then becomeStuck n s else s

/-! ### Buttons and draw inputs (R49 to R53) -/

/-- The debounced filter of a button. -/
def buttonOf (s : State) : Button → Debounce
  | .driver k => pick s.gates.driver k
  | .marshal n => pick s.gates.marshal n
  | .director => s.gates.director

/-- A button's filter replaced. -/
def setButton (b : Button) (d : Debounce) (s : State) : State :=
  match b with
  | .driver k => s.onGates fun g => { g with driver := put g.driver k d }
  | .marshal n => s.onGates fun g => { g with marshal := put g.marshal n d }
  | .director => s.onGates fun g => { g with director := d }

/-- A button's debounced level is to change to active at this tick (R49). -/
def pressDue (s : State) (b : Button) : Bool :=
  !(buttonOf s b).level && decide ((buttonOf s b).run = buttonRun)

/-- A button's debounced level is to change to inactive at this tick (R49). -/
def buttonReleaseDue (s : State) (b : Button) : Bool :=
  (buttonOf s b).level && decide ((buttonOf s b).run = buttonRun)

/-- A press taken by race control: a DRIVER or MARSHAL call, or the director's press (R50, R129, R139). -/
def pressed (b : Button) (s : State) : State :=
  match b with
  | .driver k => takeCall { source := .driver, lane := some k, post := 0 } (now s) s
  | .marshal n => takeCall { source := .marshal, lane := none, post := n.val + 1 } (now s) s
  | .director =>
    match s.race.state with
    | .staged =>
      match s.race.snapshot with
      | some h => if h.startHeld then enterCountdown (now s) s else s
      | none => s
    | .called => beginResume (now s) s
    | _ => s

/-- A press of a button: the level becomes active and the press is handed to race control (R49, R50). -/
def takePress (b : Button) (s : State) : State :=
  if pressDue s b then pressed b (setButton b { level := true, run := 0 } s) else s

/-- BUTTON_RELEASE (R49, R50): race control takes no action on a release (R139). -/
def takeButtonRelease (b : Button) (s : State) : State :=
  if buttonReleaseDue s b then setButton b { level := false, run := 0 } s else s

/-- The draw watch runs for a lane (R128). -/
def drawWatched (s : State) (k : Lane) : Bool :=
  decide (s.race.state = .countdown) && occupiedLane s k &&
    (match s.race.snapshot with
      | some h => h.liveGrid
      | none => false)

/-- A lane's draw level rises, and with the draw watch on a run begins (R52, R128). -/
def drawRises (k : Lane) (s : State) : State :=
  let s := s.onGates fun g => { g with draw := put g.draw k { level := true, run := 0 } }
  if drawWatched s k && decide (pick s.race.drawRuns k = .idle) then
    s.onRace fun r => { r with drawRuns := put r.drawRuns k (.timing (now s)) }
  else s

/-- The stamp at which a lane's draw run ends, once it has (R128). -/
def runEnd (s : State) (k : Lane) : Option Stamp :=
  match pick s.race.drawRuns k with
  | .timing b =>
    if drawWatched s k && durationEnded b (raceTimes s).jumpDraw (now s) then
      some (stampAfter b (raceTimes s).jumpDraw)
    else none
  | _ => none

/-- DRAW_RUN_END (R128). -/
def takeRunEnd (k : Lane) (s : State) : State :=
  match runEnd s k with
  | some x => jumpOnce k x (s.onRace fun r => { r with drawRuns := put r.drawRuns k .spent })
  | none => s

/-- DRAW_RUN_END (R128). -/
def execDrawRunEnd (lane : Lane) (s : State) : Host.Outcome State Fault Refusal := .next (takeRunEnd lane s)

/-- A run that is being timed is abandoned by a fall. -/
def abandonRun : DrawRun → DrawRun
  | .timing _ => .idle
  | r => r

/-- A lane's draw level falls (R52). A run whose duration has ended by the fall's tick is ended first: only a fall before
its end abandons a run (R128). -/
def drawFalls (k : Lane) (s : State) : State :=
  ((takeRunEnd k s).onGates fun g => { g with draw := put g.draw k { level := false, run := 0 } }).onRace fun r => { r with
    drawRuns := amend r.drawRuns k abandonRun }

/-- A draw input's debounced level is to rise at this tick (R51). -/
def riseDue (s : State) (k : Lane) : Bool :=
  !(pick s.gates.draw k).level && decide ((pick s.gates.draw k).run = drawRun)

/-- A draw input's debounced level is to fall at this tick (R51). -/
def fallDue (s : State) (k : Lane) : Bool :=
  (pick s.gates.draw k).level && decide ((pick s.gates.draw k).run = drawRun)

/-- DRAW_RISE (R51, R52, R128). -/
def takeRise (k : Lane) (s : State) : State := if riseDue s k then drawRises k s else s

/-- DRAW_FALL (R51, R52, R128). -/
def takeFall (k : Lane) (s : State) : State := if fallDue s k then drawFalls k s else s

/-! ### Loading a setup (R47) -/

/-- The gate front end takes a new gate map and hold-off (R47). -/
def loadGates (maps : GateIn → Option GateMapping) (holdOff : Nat) (g : GateFront) : GateFront :=
  { g with inputs := tabulate fun n => InputRec.quiet (maps n), holdOff := some holdOff, queue := [] }

/-! ### The commands -/

/-- QUALIFIED_BREAK (R41). -/
def execQualifiedBreak (input : GateIn) (s : State) : Host.Outcome State Fault Refusal := .next (takeBreak input s)

/-- BREAK_RELEASED (R40). -/
def execBreakReleased (input : GateIn) (s : State) : Host.Outcome State Fault Refusal := .next (takeRelease input s)

/-- GATE_STUCK (R43). -/
def execGateStuck (input : GateIn) (s : State) : Host.Outcome State Fault Refusal := .next (takeStuck input s)

/-- DRIVER_CALL_PRESS (R129). -/
def execDriverCallPress (lane : Lane) (s : State) : Host.Outcome State Fault Refusal :=
  .next (takePress (.driver lane) s)

/-- MARSHAL_POST_PRESS (R129). -/
def execMarshalPostPress (post : Post) (s : State) : Host.Outcome State Fault Refusal :=
  .next (takePress (.marshal post) s)

/-- DIRECTOR_RESUME_PRESS (R139). -/
def execDirectorResumePress (s : State) : Host.Outcome State Fault Refusal := .next (takePress .director s)

/-- BUTTON_RELEASE (R50). -/
def execButtonRelease (button : Button) (s : State) : Host.Outcome State Fault Refusal :=
  .next (takeButtonRelease button s)

/-- DRAW_RISE (R128). -/
def execDrawRise (lane : Lane) (s : State) : Host.Outcome State Fault Refusal := .next (takeRise lane s)

/-- DRAW_FALL (R128). -/
def execDrawFall (lane : Lane) (s : State) : Host.Outcome State Fault Refusal := .next (takeFall lane s)

end Sys2Proof.Machine
end

