-- ==== Sys2Proof/Machine/Slips.lean ====
section
/-! DEFINITION. The slip list (section 1.5), SETUP (section 1.6), and the slip commands, one for each kind. A slip
command takes the slip at the slip cursor when it reads POSTED with that kind while the scan of a service tick is on. -/

namespace Sys2Proof.Machine

open Config

/-! ### SETUP (R16, R17) -/

/-- A lane's geometry in the setup block. -/
def readGeometry (s : State) (k : Lane) : Geometry :=
  let a := setupBase + 64 + 8 * k.val
  { gateCount := readField s a 1, pos1 := readField s (a + 1) 2, pos2 := readField s (a + 3) 2,
    pos3 := readField s (a + 5) 2 }

/-- Check 1 of R16 for one lane. -/
def geometryGood (g : Geometry) : Bool :=
  let inside := fun p => decide (1 ≤ p) && decide (p ≤ 999)
  decide (g.gateCount ≤ 4) &&
    (decide (g.gateCount < 2) || inside g.pos1) &&
    (decide (g.gateCount < 3) || (inside g.pos2 && decide (g.pos1 < g.pos2))) &&
    (decide (g.gateCount < 4) || (inside g.pos3 && decide (g.pos2 < g.pos3)))

/-- A gate map entry's byte: bits 3 to 0 lane, bits 5 and 4 gate, bit 7 polarity. -/
def mapByte (s : State) (n : GateIn) : Byte := readByte s (setupBase + 2 * n.val)
/-- The lane an entry names, 0 for unused. -/
def mapLane (b : Byte) : Nat := (b &&& 0x0F).toNat
/-- The gate index an entry names. -/
def mapGate (b : Byte) : GateNo := Fin.ofNat 4 (b >>> 4).toNat

/-- All gate inputs, GI0 first. -/
def allInputs : List GateIn := List.finRange 32

/-- The gate count of the lane a map entry names, from the setup block. -/
def mappedCount (s : State) (b : Byte) : Nat :=
  if h : 1 ≤ mapLane b ∧ mapLane b ≤ 8 then (readGeometry s ⟨mapLane b - 1, by omega⟩).gateCount else 0

/-- Check 2 of R16 for one input. -/
def inputGood (s : State) (n : GateIn) : Bool :=
  let b := mapByte s n
  decide (mapLane b = 0) ||
    (decide (mapLane b ≤ 8) && decide ((mapGate b).val < mappedCount s b) &&
      allInputs.all fun m => decide (n ≤ m) ||
        !(decide (mapLane (mapByte s m) = mapLane b) && decide (mapGate (mapByte s m) = mapGate b)))

/-- Check 3 of R16 for one lane: each of its gates is mapped by some input. -/
def laneCovered (s : State) (k : Lane) : Bool :=
  ([0, 1, 2, 3] : List GateNo).all fun g => decide ((readGeometry s k).gateCount ≤ g.val) ||
    allInputs.any fun n => decide (mapLane (mapByte s n) = laneNo k) && decide (mapGate (mapByte s n) = g)

/-- The checks of R16 in order: the field number of the first that fails, or none. -/
def setupFault (s : State) : Option Nat :=
  match allLanes.find? fun k => !geometryGood (readGeometry s k) with
  | some k => some (laneNo k)
  | none =>
    match allInputs.find? fun n => !inputGood s n with
    | some n => some (9 + n.val)
    | none =>
      match allLanes.find? fun k => !laneCovered s k with
      | some k => some (laneNo k)
      | none =>
        if 1 < readField s (setupBase + 130) 1 then some 41
        else if 1 < readField s (setupBase + 133) 1 then some 42 else none

/-- What a map entry assigns to its input (R38). -/
def readMapping (s : State) (n : GateIn) : Option GateMapping :=
  let b := mapByte s n
  if h : 1 ≤ mapLane b ∧ mapLane b ≤ 8 then
    some { lane := ⟨mapLane b - 1, by omega⟩, gate := mapGate b, activeHigh := b.getLsbD 7 }
  else none

/-- A range-limited setup field, clamped (R17). -/
def setupField (s : State) (offset lo hi : Nat) : Nat := clamp lo hi (readField s (setupBase + offset) 2)

/-- A lane's gates under a new gate count: the expected gate is kept where it is below the count, and 0 otherwise (R72),
and with a gate count of 1 the last gate is 0 (R63; log 28). -/
def fitGates (gateCount : Nat) (l : LapLane) : LapLane :=
  { l with
    expected := if l.expected < gateCount then l.expected else 0
    last := if gateCount = 1 then 0 else l.last }

/-- The bytes of the setup block that are not ignored, in order (R16; log 37). -/
def setupBytes : List Nat := span setupBase 150

/-- A setup, as read, loaded into the blocks of a state (R17, R47, R63, R72). -/
def loadSetup (v s : State) : State :=
  let seed : Half := BitVec.ofNat 16 (readField v (setupBase + 144) 2)
  let times : RaceTimes :=
    { jumpDraw := setupField v 134 50 500, resumeDelay := setupField v 136 1000 10000,
      countdownStep := setupField v 138 500 2000, holdMin := setupField v 140 0 5000,
      holdSpan := setupField v 142 0 5000 }
  let lap : LapSetup :=
    { missTolerance := readField v (setupBase + 130) 1, stallTime := setupField v 131 2000 60000,
      autoCall := decide (readField v (setupBase + 133) 1 = 1) }
  { s with
    port := { s.port with setupLoaded := true }
    gates := loadGates (readMapping v) (setupField v 128 5 250) s.gates
    laps := { s.laps with
      geometry := tabulate (readGeometry v), setup := some lap
      lanes := tabulate fun k => fitGates (readGeometry v k).gateCount (s.lap k) }
    race := { s.race with times := some times, lfsr := some (if seed = 0 then 1 else seed) }
    pen := { s.pen with coastGrace := some (setupField v 146 0 5000) }
    power := { s.power with rampTime := some (setupField v 148 0 1000) } }

/-! ### Taking a slip (R13 to R15) -/

def slipOk : Nat := 0
def slipBadKind : Nat := 1
def slipBadState : Nat := 2
def slipBadLane : Nat := 3
def slipBadArg : Nat := 4
def slipNoSetup : Nat := 5
def slipNotFound : Nat := 6
def slipSetupInvalid : Nat := 7

/-- What a slip's owning block answers: the state it leaves, the result code and the result detail. -/
structure SlipAnswer where
  state : State
  code : Nat
  detail : Nat

/-- A refusal, which has no effect beyond its result (R15). -/
def refuseSlip (s : State) (code : Nat) : SlipAnswer := { state := s, code := code, detail := 0 }

/-- A slip finished with OK. -/
def acceptSlip (s : State) : SlipAnswer := { state := s, code := slipOk, detail := 0 }

/-- The address of the slip at the slip cursor. -/
def slipHere (s : State) : Nat := slipAddr s.port.slipCursor

/-- A slip's kind, lane and arguments as the device has read them (R14). -/
structure Slip where
  kind : Nat
  /-- The lane it names, if its lane field is 1 to 8. -/
  lane : Option Lane
  /-- Argument byte 7. -/
  arg : Byte
  /-- Argument bytes 7 and 8. -/
  serial : Half
  deriving DecidableEq, Repr

/-- The bytes a slip is read from after its state byte, in order: kind, lane and arguments (R14; log 37). -/
def slipBytes (a : Nat) : List Nat := [a + 1, a + 4] ++ span (a + 7) 8

/-- The lane of a lane field of 1 to 8. -/
def laneOf (n : Nat) : Option Lane := if h : 1 ≤ n ∧ n ≤ 8 then some ⟨n - 1, by omega⟩ else none

/-- The slip at an address, from the bytes as read. -/
def readSlip (v : State) (a : Nat) : Slip :=
  { kind := readField v (a + 1) 1, lane := laneOf (readField v (a + 4) 1), arg := readByte v (a + 7),
    serial := BitVec.ofNat 16 (readField v (a + 7) 2) }

/-- The scan of a service tick is on and has not taken 8 slips (R13). -/
def scanOn (s : State) : Bool := decide (s.phase = .running) && s.time.serviceDue && decide (0 < s.time.scanLeft)

/-- A slip's result written (R14): code, detail, the recheck, then DONE or REFUSED and SUM.SLIP. The cursor moves on. -/
def finishSlip (r : SlipAnswer) : State :=
  let a := slipHere r.state
  let c := recheck a 0xFF 1 (deviceWrite (a + 3) [BitVec.ofNat 8 r.detail]
    (deviceWrite (a + 2) [BitVec.ofNat 8 r.code] r.state))
  let t := if c.2 then
      (deviceWrite a [if r.code = slipOk then 2 else 3] c.1).onPort (HostPort.setSum sumSlip)
    else c.1
  (t.onPort fun p => { p with slipCursor := p.slipCursor + 1 }).onTime fun t => { t with scanLeft := t.scanLeft - 1 }

/-- The checks of R15 that come before the owning block's: NO_SETUP. -/
def withSetup (act : State → SlipAnswer) (s : State) : SlipAnswer :=
  if s.port.setupLoaded then act s else refuseSlip s slipNoSetup

/-! ### The owning blocks' checks and actions -/

/-- SETUP (R16, R17). -/
def actSetup (s : State) : SlipAnswer :=
  if s.race.state ≠ .idle then refuseSlip s slipBadState
  else
    let g := gather setupBytes s
    match setupFault g.view with
    | some n => { state := g.state, code := slipSetupInvalid, detail := n }
    | none => acceptSlip (loadSetup g.view g.state)

/-- START (R110). -/
def actStart (s : State) : SlipAnswer :=
  match s.race.state, s.race.snapshot with
  | .staged, some h => if h.startHeld then acceptSlip (enterCountdown (now s) s) else refuseSlip s slipBadState
  | _, _ => refuseSlip s slipBadState

/-- CALL (R136). A run-out that has expired is met as IDLE (R131; log 32). -/
def actCall (s : State) : SlipAnswer :=
  if s.race.state = .idle ∨ s.race.state = .staged ∨ runoutOver s then refuseSlip s slipBadState
  else acceptSlip (takeCall { source := .raceDesk, lane := none, post := 0 } (now s) s)

/-- RESUME (R137). -/
def actResume (s : State) : SlipAnswer :=
  if s.race.state = .called then acceptSlip (beginResume (now s) s) else refuseSlip s slipBadState

/-- END HEAT (R113). -/
def actEndHeat (s : State) : SlipAnswer :=
  if s.race.state = .green then acceptSlip (enterRunout (now s) 3 none s) else refuseSlip s slipBadState

/-- ABORT HEAT (R120). -/
def actAbortHeat (s : State) : SlipAnswer :=
  if s.race.state = .idle then refuseSlip s slipBadState else acceptSlip (abortHeat (now s) s)

/-- The lane of a slip, with a racer in the heat snapshot (R158, R159, R179). -/
def racerLane (r : Slip) (s : State) : Option Lane := r.lane.filter (occupiedLane s)

/-- PENALISE (R158). -/
def actPenalise (r : Slip) (s : State) : SlipAnswer :=
  if s.race.state = .idle then refuseSlip s slipBadState
  else
    match racerLane r s with
    | none => refuseSlip s slipBadLane
    | some k =>
      let m := r.arg.toNat
      if 3 < m then refuseSlip s slipBadArg else acceptSlip (trigger (Fin.ofNat 8 (4 + m)) k (now s) s)

/-- PARDON (R159). -/
def actPardon (r : Slip) (s : State) : SlipAnswer :=
  if s.race.state = .idle then refuseSlip s slipBadState
  else
    match racerLane r s with
    | none => refuseSlip s slipBadLane
    | some k =>
      let serial := r.serial
      let l := s.penLane k
      match l.serving.filter fun e => decide (e.serial = serial) with
      | some _ => acceptSlip (endService k (now s) 2 (servingRemaining s k) s)
      | none =>
        match l.queue.find? fun e => decide (e.serial = serial) with
        | some e =>
          acceptSlip (penNotice .served 2 k (now s) serial.toNat e.amount
            (s.onPenLane k fun l => { l with queue := l.queue.erase e }))
        | none => refuseSlip s slipNotFound

/-- Laps changed by a delta, clamped to 0 to 65535 (R83). -/
def adjustLaps (delta : Int) (n : Nat) : Nat := min 65535 ((n : Int) + delta).toNat

/-- ADJUST (R83). -/
def actAdjust (r : Slip) (s : State) : SlipAnswer :=
  if !s.race.state.afterGreen then refuseSlip s slipBadState
  else
    match r.lane with
    | none => refuseSlip s slipBadLane
    | some k =>
      let delta := r.arg.toInt
      if (s.lap k).state = .vacant then refuseSlip s slipBadLane
      else if delta < -5 ∨ 5 < delta then refuseSlip s slipBadArg
      else acceptSlip (resort (s.onLapLane k fun l => { l with laps := adjustLaps delta l.laps }))

/-- RETIRE (R179). -/
def actRetire (r : Slip) (s : State) : SlipAnswer :=
  if !s.race.state.afterGreen then refuseSlip s slipBadState
  else
    match racerLane r s with
    | none => refuseSlip s slipBadLane
    | some k =>
      if (s.standLane k).retireMark ∨ (s.lap k).state = .finished then refuseSlip s slipBadLane
      else acceptSlip (handChange (.retire k) (now s) (s.onStandLane k fun l => { l with retireMark := true }))

/-- CLEAR TALLY (R183). -/
def actClearTally (s : State) : SlipAnswer :=
  if s.race.state ≠ .idle then refuseSlip s slipBadState
  else acceptSlip (allTally.foldl (fun t i => writeTallyZero 0 0 i t) s)

/-- The action of a slip by its kind, with the first two checks of R15. -/
def slipAction (r : Slip) (s : State) : SlipAnswer :=
  match r.kind with
  | 1 => actSetup s
  | 2 => withSetup actStart s
  | 3 => actCall s
  | 4 => actResume s
  | 5 => withSetup actEndHeat s
  | 6 => withSetup actAbortHeat s
  | 7 => withSetup (actPenalise r) s
  | 8 => withSetup (actPardon r) s
  | 9 => withSetup (actAdjust r) s
  | 10 => withSetup (actRetire r) s
  | 11 => actClearTally s
  | _ => refuseSlip s slipBadKind

/-- The rest of the slip at the cursor is read, once its state byte has read POSTED (R14). -/
def fetchSlip (s : State) : Slip × State :=
  let g := gather (slipBytes (slipHere s)) s
  (readSlip g.view (slipHere s), g.state)

/-- A slip as read is acted on and finished (R14). -/
def handleSlip (q : Slip × State) : State := finishSlip (slipAction q.1 q.2)

/-- The slip at the cursor taken and finished, when the scan of a service tick is on, the slip reads POSTED (R13) and its
kind is one of those meant. Otherwise the command has no effect (log 7). -/
def takeSlip (meant : Nat → Bool) (s : State) : State :=
  let e := deviceRead (slipHere s) s
  let q := fetchSlip e.1
  if scanOn s && decide (e.2 = 1) && meant q.1.kind then handleSlip q else s

/-- So many slips of any kind taken in ring order (R13); the scan stops at the first that is not POSTED. -/
def scanSlips : Nat → State → State
  | 0, s => s
  | n + 1, s =>
    if scanOn s then
      let e := deviceRead (slipHere s) s
      if e.2 = 1 then scanSlips n (handleSlip (fetchSlip e.1)) else e.1
    else s

/-! ### The commands -/

/-- SETUP (R16). -/
def execSetup (s : State) : Host.Outcome State Fault Refusal := .next (takeSlip (fun n => n == 1) s)

/-- START (R110). -/
def execStart (s : State) : Host.Outcome State Fault Refusal := .next (takeSlip (fun n => n == 2) s)

/-- CALL (R136). -/
def execCall (s : State) : Host.Outcome State Fault Refusal := .next (takeSlip (fun n => n == 3) s)

/-- RESUME (R137). -/
def execResume (s : State) : Host.Outcome State Fault Refusal := .next (takeSlip (fun n => n == 4) s)

/-- END HEAT (R113). -/
def execEndHeat (s : State) : Host.Outcome State Fault Refusal := .next (takeSlip (fun n => n == 5) s)

/-- ABORT HEAT (R120). -/
def execAbortHeat (s : State) : Host.Outcome State Fault Refusal := .next (takeSlip (fun n => n == 6) s)

/-- PENALISE (R158). -/
def execPenalise (s : State) : Host.Outcome State Fault Refusal := .next (takeSlip (fun n => n == 7) s)

/-- PARDON (R159). -/
def execPardon (s : State) : Host.Outcome State Fault Refusal := .next (takeSlip (fun n => n == 8) s)

/-- ADJUST (R83). -/
def execAdjust (s : State) : Host.Outcome State Fault Refusal := .next (takeSlip (fun n => n == 9) s)

/-- RETIRE (R179). -/
def execRetire (s : State) : Host.Outcome State Fault Refusal := .next (takeSlip (fun n => n == 10) s)

/-- CLEAR TALLY (R183). -/
def execClearTally (s : State) : Host.Outcome State Fault Refusal := .next (takeSlip (fun n => n == 11) s)

/-- A slip whose kind is outside 1 to 11 (R15). -/
def execSlipBadKind (s : State) : Host.Outcome State Fault Refusal :=
  .next (takeSlip (fun n => n == 0 || 11 < n) s)

end Sys2Proof.Machine
end

