-- ==== Sys2Proof/Machine/Service.lean ====
section
/-! DEFINITION. SERVICE_TICK (R33) and RACE_CHANGE_TAKE (R54): the scheduled work on record memory and of the lap
engine. -/

namespace Sys2Proof.Machine

open Config

/-- The works of a service tick in an order the manual allows. -/
def allJobs : List ServiceJob := [.crossingTake, .slipScan, .heatExamine, .noticeRetry, .lapBookRetry, .statusRefresh]

/-- The work of a service tick on record memory, which waits for SUM.STARTED (R11, R13, R19, R100, R103). Whether the
service tick at the very tick on which the clear ends (R21) comes after SUM.STARTED the manual leaves open: the model
does the work at it where the clear has ended first (DESIGN CHOICE, log 26). -/
def memoryJob (job : State → State) (s : State) : State := if s.phase = .running then job s else s

/-- One work of a service tick. -/
def runJob (o : Orders) (s : State) : ServiceJob → State
  | .slipScan => memoryJob (fun s => scanSlips s.time.scanLeft s) s
  | .noticeRetry => memoryJob retryNotices s
  | .lapBookRetry => memoryJob retryBooks s
  | .statusRefresh => memoryJob refreshStatus s
  | .heatExamine => memoryJob examineCard s
  | .crossingTake => crossingWork o s

/-- The service tick, when it is due: every work once, in the chosen order, completed where it names fewer (log 4). -/
def serviceTick (jobs : List ServiceJob) (o : Orders) (s : State) : State :=
  if s.time.serviceDue then
    ((completeOrder jobs allJobs).foldl (runJob o) s).onTime fun t => { t with serviceDue := false, scanLeft := 0 }
  else s

/-- SERVICE_TICK (R33). -/
def execServiceTick (jobs : List ServiceJob) (orders : Orders) (s : State) : Host.Outcome State Fault Refusal :=
  .next (serviceTick jobs orders s)

/-- RACE_CHANGE_TAKE (R54): the change at the head of the pending change list, when it is due. -/
def takeChange (o : Orders) (s : State) : State := if changeDue s then takeHeadChange o s else s

/-- RACE_CHANGE_TAKE (R54). -/
def execRaceChangeTake (orders : Orders) (s : State) : Host.Outcome State Fault Refusal := .next (takeChange orders s)

end Sys2Proof.Machine
end

