-- ==== Sys2Proof/Machine/Events.lean ====
section
/-! DEFINITION. The commands that are events in time: durations and heat-clock values that race control, the lap
engine, the penalty unit and lane power wait for. A command whose event
has not come about leaves the state as it is (log 7). -/

namespace Sys2Proof.Machine

open Config

/-- A CLOCK notice (R26, R27, R30). -/
def clockNotice (subcode a b : Nat) (s : State) : State :=
  deliver (plainNotice .clock subcode (currentLabel s) (now s) a b) s

/-- The device counts time: RESET# is not low (R24). -/
def counting (s : State) : Bool := decide (s.phase ≠ .inReset)

/-! ### Race control's waits -/

/-- The AUTO gap has ended (R108). -/
def gapDue (s : State) : Bool :=
  match s.race.state, s.race.snapshot with
  | .staged, some h => !h.startHeld && durationEnded s.race.stagedStamp h.gap (now s)
  | _, _ => false

/-- GAP_END (R108). -/
def takeGapEnd (s : State) : State :=
  match s.race.snapshot with
  | some h => if gapDue s then enterCountdown (stampAfter s.race.stagedStamp h.gap) s else s
  | none => s

/-- GAP_END (R108). -/
def execGapEnd (s : State) : Host.Outcome State Fault Refusal := .next (takeGapEnd s)

/-- The next countdown step's duration has ended (R125). -/
def stepDue (s : State) : Bool :=
  match s.race.state, s.race.countdownStamp with
  | .countdown, some e =>
    decide (s.race.countdownStep < 5) &&
      durationEnded e ((s.race.countdownStep + 1) * (raceTimes s).countdownStep) (now s)
  | _, _ => false

/-- The next red lamp lights; at LR5 a hold of 0 ends at once (R125). -/
def lightNext (s : State) : State :=
  let k := s.race.countdownStep + 1
  let s := s.onRace fun r => { r with countdownStep := k, lamps := redLamps k }
  match greenStamp s with
  | some g => if k = 5 ∧ s.race.hold = 0 then enterGreen g s else s
  | none => s

/-- COUNTDOWN_STEP (R125). -/
def takeCountdownStep (s : State) : State := if stepDue s then lightNext s else s

/-- COUNTDOWN_STEP (R125). -/
def execCountdownStep (s : State) : Host.Outcome State Fault Refusal := .next (takeCountdownStep s)

/-- The hold has ended (R125). -/
def greenDue (s : State) : Bool :=
  match s.race.state, s.race.countdownStamp with
  | .countdown, some e =>
    decide (s.race.countdownStep = 5) &&
      durationEnded e (5 * (raceTimes s).countdownStep + s.race.hold) (now s)
  | _, _ => false

/-- GREEN_ENTRY (R126). -/
def takeGreen (s : State) : State :=
  match greenStamp s with
  | some g => if greenDue s then enterGreen g s else s
  | none => s

/-- GREEN_ENTRY (R126). -/
def execGreenEntry (s : State) : Host.Outcome State Fault Refusal := .next (takeGreen s)

/-- The heat clock has reached the time limit in GREEN (R36, R111). -/
def limitDue (s : State) : Bool :=
  decide (s.race.state = .green) && s.race.timeLimitWatch &&
    (match s.race.snapshot with
      | some h => decide (h.timeLimit ≤ heatClock s)
      | none => false)

/-- TIME_LIMIT (R111). -/
def takeTimeLimit (s : State) : State := if limitDue s then enterRunout (now s) 1 none s else s

/-- TIME_LIMIT (R111). -/
def execTimeLimit (s : State) : Host.Outcome State Fault Refusal := .next (takeTimeLimit s)

/-- The heat clock has reached the run-out deadline in RUNOUT (R116). -/
def expiryDue (s : State) : Bool :=
  decide (s.race.state = .runout) && s.race.runoutWait &&
    (match s.race.runoutDeadline with
      | some d => decide (d ≤ heatClock s)
      | none => false)

/-- RUNOUT_EXPIRY (R116). -/
def takeExpiry (s : State) : State := if expiryDue s then expireRunout (now s) s else s

/-- RUNOUT_EXPIRY (R116). -/
def execRunoutExpiry (s : State) : Host.Outcome State Fault Refusal := .next (takeExpiry s)

/-- The stamp at which the resume delay ends, once it has (R138). -/
def resumeEnd (s : State) : Option Stamp :=
  match s.race.state, s.race.resumeStart with
  | .resuming, some r =>
    if durationEnded r (raceTimes s).resumeDelay (now s) then some (stampAfter r (raceTimes s).resumeDelay) else none
  | _, _ => none

/-- RESUME_DONE (R138). -/
def takeResumeDone (s : State) : State :=
  match resumeEnd s with
  | some c1 => finishResume c1 s
  | none => s

/-- RESUME_DONE (R138). -/
def execResumeDone (s : State) : Host.Outcome State Fault Refusal := .next (takeResumeDone s)

/-- LAMP_FLASH (R140): LA toggles at the end of each 250 ms while the race is CALLED. -/
def takeFlash (s : State) : State :=
  match s.race.state, s.race.flashStart with
  | .called, some f =>
    if durationEnded f flashMs (now s) then
      s.onRace fun r => { r with lamps := r.lamps ^^^ lampAmber, flashStart := some (stampAfter f flashMs) }
    else s
  | _, _ => s

/-- LAMP_FLASH (R140). -/
def execLampFlash (s : State) : Host.Outcome State Fault Refusal := .next (takeFlash s)

/-! ### Services and stalls -/

/-- The heat clock has reached the HALT end of a lane (R152). After a call taken first at the tick of the expiry the HALT
does not end until the resume is complete; that the clock counts the call's own tick (R35) is log 14. -/
def haltDue (s : State) (k : Lane) : Bool :=
  s.race.state.racing && servingHalt s k && decide ((s.penLane k).haltEnd ≤ heatClock s)

/-- HALT_EXPIRY (R152). -/
def takeHaltExpiry (k : Lane) (s : State) : State := if haltDue s k then endService k (now s) 1 0 s else s

/-- HALT_EXPIRY (R152). -/
def execHaltExpiry (lane : Lane) (s : State) : Host.Outcome State Fault Refusal := .next (takeHaltExpiry lane s)

/-- A lane is watched for a stall (R80). -/
def stallWatched (s : State) (k : Lane) : Bool :=
  let l := s.lap k
  decide (s.laps.view.state = .green) &&
    (l.state.timing || (decide (l.state = .grid) && s.laps.view.goneGreen)) && !servingHalt s k && !l.stalled

/-- A watched lane's heat clock event has come about (R36, R80): racing goes on, or the count grew at this very tick, so
that a call taken first at the tick hides no lane's stall (R81: several lanes may stall at one value; log 14). -/
def stallDue (s : State) (k : Lane) : Bool :=
  (s.race.state.racing || s.time.raced) && stallWatched s k &&
    (match s.laps.setup with
      | some u => decide ((s.lap k).stallRef + u.stallTime ≤ heatClock s)
      | none => false)

/-- A lane stalls (R81): the flag, the notice, and with auto-call on the call. -/
def stallLane (k : Lane) (s : State) : State :=
  let x := now s
  let auto := (s.laps.setup.map LapSetup.autoCall).getD false
  let s := s.onLapLane k fun l => { l with stalled := true }
  let s := deliver (laneNotice .stall 0 k (pick s.laps.racers k) s.laps.label x (s.lap k).last (s.lap k).laps) s
  if auto then takeCall { source := .stall, lane := some k, post := 0 } x s else s

/-- STALL (R81). -/
def takeStall (k : Lane) (s : State) : State := if stallDue s k then stallLane k s else s

/-- STALL (R81). -/
def execStall (lane : Lane) (s : State) : Host.Outcome State Fault Refusal := .next (takeStall lane s)

/-! ### Lane power -/

/-- RAMP_STEP (R166): the duty of a lane whose ramp runs is set from the whole milliseconds elapsed. -/
def takeRampStep (k : Lane) (s : State) : State :=
  if (s.powerLane k).cond && (s.powerLane k).rampStart.isSome then
    s.onPowerLane k (setDuty (s.power.rampTime.getD 0) (now s))
  else s

/-- RAMP_STEP (R166). -/
def execRampStep (lane : Lane) (s : State) : Host.Outcome State Fault Refusal := .next (takeRampStep lane s)

/-- CHOP_PERIOD_START (R164, R165). -/
def takeChop (s : State) : State :=
  if s.power.chopDue then s.onPower fun p => { p with chopDue := false, lanes := p.lanes.map latchPin } else s

/-- CHOP_PERIOD_START (R164). -/
def execChopPeriodStart (s : State) : Host.Outcome State Fault Refusal := .next (takeChop s)

end Sys2Proof.Machine
end

