-- ==== Sys2Proof/Machine/Tick.lean ====
section
/-! DEFINITION. The timebase: its two sources and the tick prescaler (R24, R25), the reference states (R26, R27), TICK,
REF_LOST, WARMUP_START, REF_BACK and TICK_COUNT_WRAP (R29, R30). A tick first brings about whatever was due at the tick
before and has not been commanded (log 8), then advances the counts and samples the inputs. -/

namespace Sys2Proof.Machine

open Config

/-! ### What is due is brought about -/

/-- The memory clear ends by its bound (R21). -/
def forceClear (s : State) : State := if clearTicks ≤ s.time.tickCount.toNat then finishClear s else s

/-- The soft reset ends before the first service tick after its start (R22). -/
def forceSoftEnd (s : State) : State := if serviceTicks ≤ s.time.servicePrescaler + 1 then finishSoftReset s else s

/-- The EPOCH notice of a wrap at this tick (R30). -/
def wrapNotice (s : State) : State :=
  if s.time.wrapDue then
    clockNotice 3 s.time.epoch.toNat 0 (s.onTime fun t => { t with wrapDue := false })
  else s

/-- The orders the model takes where nothing was commanded: lane 1 first, the PUSH check last (log 8). -/
def plainOrders : Orders := { cuts := [], pushFirst := false }

/-- A work done for every lane. -/
def eachLane (f : Lane → State → State) (s : State) : State := allLanes.foldl (fun s k => f k s) s

/-- A work done for every gate input. -/
def eachInput (f : GateIn → State → State) (s : State) : State := allInputs.foldl (fun s n => f n s) s

/-- All buttons. -/
def allButtons : List Button :=
  allLanes.map Button.driver ++ ([0, 1, 2, 3] : List Post).map Button.marshal ++ [Button.director]

/-- A work done for every button. -/
def eachButton (f : Button → State → State) (s : State) : State := allButtons.foldl (fun s b => f b s) s

/-- The works that may be due at a tick, in the order the model takes those not commanded (log 8). The end of a resume
comes before the events of the heat clock: a time limit (R111), a HALT end or a run-out deadline that the clock had
reached at the tick of a call taken first is taken at the resume's end, with its stamp, commanded or not (log 14). -/
def agenda : List (State → State) :=
  [takeChop, wrapNotice, forceClear, forceSoftEnd, eachInput takeBreak, eachInput takeRelease, eachInput takeStuck,
    eachButton takePress, eachButton takeButtonRelease, eachLane takeRise, eachLane takeFall,
    serviceTick [] plainOrders, takeGapEnd, takeCountdownStep, eachLane takeRunEnd, takeGreen, takeResumeDone,
    takeTimeLimit, eachLane takeHaltExpiry, takeExpiry, takeAllDue plainOrders, eachLane takeStall, takeFlash,
    eachLane takeRampStep]

/-- Everything due at the present tick brought about. -/
def catchUp (s : State) : State := agenda.foldl (fun s f => f s) s

/-! ### The tick -/

/-- The timebase at a tick (R24, R29, R33, R35). -/
def advanceTime (racing : Bool) (t : Timebase) : Timebase :=
  let wraps := decide (t.tickCount = 0xFFFFFFFF)
  let service := decide (serviceTicks ≤ t.servicePrescaler + 1)
  { t with
    tickCount := t.tickCount + 1
    epoch := if wraps then t.epoch + 1 else t.epoch
    wrapDue := wraps
    servicePrescaler := if service then 0 else t.servicePrescaler + 1
    serviceDue := service
    scanLeft := if service then scanLimit else 0
    racingTicks := if racing then t.racingTicks + 1 else t.racingTicks
    raced := racing
    idleNow := false }

/-- The chop counter at a tick, and at the start of a period every lane's output caught for it (R164, R165). -/
def advanceChop (p : LanePower) : LanePower :=
  let starts := decide (p.chopCounter + 1 = 0)
  { p with
    chopCounter := p.chopCounter + 1, chopDue := starts
    lanes := if starts then p.lanes.map catchPin else p.lanes }

/-- The tick count advances, and every mapped gate input, button and draw input is sampled (R24, R38, R49, R51). -/
def advance (pins : Sample) (s : State) : State :=
  let s := (s.onTime (advanceTime s.race.state.racing)).onPower advanceChop
  { s.onGates (sampleGates (now s) pins) with pins := pins }

/-- A tick: what is due at the tick before comes first, and host accesses that still wait (log 8, log 5). -/
def nextTick (pins : Sample) (s : State) : State := advance pins (landAll (catchUp s))

/-! ### The tick prescaler and the reference states (R24 to R27) -/

/-- The prescaler is fed so many 100 ns units. When it reaches 100 the tick count advances, and the prescaler returns to 0
and keeps what is left over (R24). -/
def feed (pins : Sample) (units : Nat) (s : State) : State :=
  let n := s.time.prescaler.val + units
  let t := s.onTime fun t => { t with prescaler := Fin.ofNat 100 n }
  if 100 ≤ n then nextTick pins t else t

/-- A loss from LOCKED (R26): the state is FALLBACK, the stamp at the detection is the unlock stamp, and FLT.REF_LOST and
the CLOCK notice report it. -/
def reportLoss (s : State) : State :=
  clockNotice 1 0 0 ((s.onPort (HostPort.setFlt fltRefLost)).onTime fun t => { t with
    refState := .fallback, quiet := 0, unlockStamp := some (now s) })

/-- A REFCLK rising edge in FALLBACK starts a warm-up (R27). -/
def startWarmup (s : State) : State := s.onTime fun t => { t with refState := .warmup, warmupCount := 0, quiet := 0 }

/-- The unlocked span in milliseconds (R27): from the unlock stamp, or tick 0 where there is none. -/
def unlockedSpan (s : State) : Nat := sat32 (interval (s.time.unlockStamp.getD 0) (now s) / 100)

/-- The reference is LOCKED (R27). The prescaler keeps its progress (R25). -/
def lockReference (s : State) : State :=
  let span := unlockedSpan s
  clockNotice 2 (span / 65536) (span % 65536) (s.onTime fun t => { t with
    refState := .locked, lockStamp := some (now s), warmupCount := 0, quiet := 0 })

/-- The next REFCLK edge ends the warm-up (R27). -/
def warmupEnds (s : State) : Bool := decide (warmupCycles ≤ s.time.warmupCount + 1)

/-- A rising edge of REFCLK (R24, R27): in LOCKED it feeds the prescaler, in WARMUP it ends a cycle, and in FALLBACK it
starts a warm-up. A warm-up entered by a reset takes the first edge after counting starts for the end of a cycle, since
an edge came just before (DESIGN CHOICE, log 35). -/
def clockEdge (pins : Sample) (s : State) : State :=
  match s.time.refState with
  | .fallback => startWarmup s
  | .warmup =>
    if warmupEnds s then lockReference s
    else s.onTime fun t => { t with warmupCount := t.warmupCount + 1, quiet := 0 }
  | .locked => feed pins 1 (s.onTime fun t => { t with quiet := 0 })

/-- One more 100 ns unit without a REFCLK edge makes 2 µs (R26). -/
def silent (s : State) : Bool := decide (lossUnits ≤ s.time.quiet.val + 1)

/-- A 100 ns unit of the internal oscillator passes (R24 to R26): in WARMUP and FALLBACK it feeds the prescaler, and in
WARMUP and LOCKED it is measured against the last REFCLK edge. At a loss from LOCKED the oscillator first credits the
prescaler with the 20 units it has measured, and only then takes over; in WARMUP it has fed them already (log 20). -/
def clockUnit (pins : Sample) (s : State) : State :=
  let lost := silent s
  let quieter := s.onTime fun t => { t with quiet := t.quiet + 1 }
  match s.time.refState with
  | .fallback => feed pins 1 s
  | .warmup =>
    feed pins 1 (if lost then s.onTime fun t => { t with refState := .fallback, warmupCount := 0, quiet := 0 }
      else quieter)
  | .locked => if lost then reportLoss (feed pins lossUnits s) else quieter

/-- One event of the timebase's sources. -/
def clockEvent (pins : Sample) : ClockEvent → State → State
  | .unit => clockUnit pins
  | .edge => clockEdge pins

/-- The events of the sources in order, up to and with the first at which the tick count advances. -/
def runClock (pins : Sample) : List ClockEvent → State → State
  | [], s => s
  | e :: rest, s =>
    let t := clockEvent pins e s
    if t.time.tickCount = s.time.tickCount then runClock pins rest t else t

/-- The events of the sources in order, up to and with the one at which the device leaves WARMUP. -/
def runWarmup (pins : Sample) : List ClockEvent → State → State
  | [], s => s
  | e :: rest, s => if s.time.refState = .warmup then runWarmup pins rest (clockEvent pins e s) else s

/-- So many units pass without a REFCLK edge. -/
def passUnits (pins : Sample) : Nat → State → State
  | 0, s => s
  | n + 1, s => passUnits pins n (clockUnit pins s)

/-! ### The commands -/

/-- TICK with what the sources did up to it (R24): the tick comes when the prescaler reaches 100, and not while RESET# is
low. Events that do not fill the prescaler are counted all the same (log 6). -/
def takeTick (run : ClockRun) (s : State) : State :=
  if counting s then runClock run.pins run.events s else s

/-- TICK (R24). -/
def execTick (run : ClockRun) (s : State) : Host.Outcome State Fault Refusal := .next (takeTick run s)

/-- REF_LOST (R26): what is left of the 2 µs passes without an edge, and the reference is lost. -/
def takeRefLost (pins : Sample) (s : State) : State :=
  if counting s && decide (s.time.refState ≠ .fallback) then passUnits pins (lossUnits - s.time.quiet.val) s else s

/-- REF_LOST (R26). -/
def execRefLost (pins : Sample) (s : State) : Host.Outcome State Fault Refusal := .next (takeRefLost pins s)

/-- WARMUP_START (R27): an edge in FALLBACK. -/
def execWarmupStart (s : State) : Host.Outcome State Fault Refusal :=
  .next (if counting s && decide (s.time.refState = .fallback) then startWarmup s else s)

/-- REF_BACK with what the sources did up to it (R27): the events of a warm-up, up to the edge that ends it and locks.
Events that do not end the warm-up are counted all the same (log 6). -/
def takeRefBack (run : ClockRun) (s : State) : State :=
  if counting s then runWarmup run.pins run.events s else s

/-- REF_BACK (R27). -/
def execRefBack (run : ClockRun) (s : State) : Host.Outcome State Fault Refusal := .next (takeRefBack run s)

/-- The tick at which the tick count wraps (R29, R30): its notice, and the tick itself if it has not come yet. -/
def takeWrap (run : ClockRun) (s : State) : State :=
  if s.time.wrapDue then wrapNotice s
  else if s.time.tickCount = 0xFFFFFFFF then wrapNotice (takeTick run s)
  else s

/-- TICK_COUNT_WRAP (R30). -/
def execTickCountWrap (run : ClockRun) (s : State) : Host.Outcome State Fault Refusal := .next (takeWrap run s)

end Sys2Proof.Machine
end

