-- ==== Sys2Proof/Machine/Dispatch.lean ====
section
/-! DEFINITION. The meaning of every command: one arm for each row of the opcode table. -/

namespace Sys2Proof.Machine

def exec (i : Instr) (s : State) : Host.Outcome State Fault Refusal :=
  match i with
  | .hardReset => Sys2Proof.Machine.execHardReset s
  | .memoryClearDone => Sys2Proof.Machine.execMemoryClearDone s
  | .softReset data => Sys2Proof.Machine.execSoftReset data s
  | .softResetEnd => Sys2Proof.Machine.execSoftResetEnd s
  | .hostMemoryRead bus => Sys2Proof.Machine.execHostMemoryRead bus s
  | .hostMemoryWrite bus data landing => Sys2Proof.Machine.execHostMemoryWrite bus data landing s
  | .sumWrite data => Sys2Proof.Machine.execSumWrite data s
  | .sumenWrite data => Sys2Proof.Machine.execSumenWrite data s
  | .fltWrite data => Sys2Proof.Machine.execFltWrite data s
  | .fltenWrite data => Sys2Proof.Machine.execFltenWrite data s
  | .lanesOff data => Sys2Proof.Machine.execLanesOff data s
  | .unusedRegisterWrite offset data => Sys2Proof.Machine.execUnusedRegisterWrite offset data s
  | .refLost pins => Sys2Proof.Machine.execRefLost pins s
  | .warmupStart => Sys2Proof.Machine.execWarmupStart s
  | .refBack run => Sys2Proof.Machine.execRefBack run s
  | .tickCountWrap run => Sys2Proof.Machine.execTickCountWrap run s
  | .serviceTick jobs orders => Sys2Proof.Machine.execServiceTick jobs orders s
  | .setup => Sys2Proof.Machine.execSetup s
  | .start => Sys2Proof.Machine.execStart s
  | .call => Sys2Proof.Machine.execCall s
  | .resume => Sys2Proof.Machine.execResume s
  | .endHeat => Sys2Proof.Machine.execEndHeat s
  | .abortHeat => Sys2Proof.Machine.execAbortHeat s
  | .penalise => Sys2Proof.Machine.execPenalise s
  | .pardon => Sys2Proof.Machine.execPardon s
  | .adjust => Sys2Proof.Machine.execAdjust s
  | .retire => Sys2Proof.Machine.execRetire s
  | .clearTally => Sys2Proof.Machine.execClearTally s
  | .slipBadKind => Sys2Proof.Machine.execSlipBadKind s
  | .qualifiedBreak input => Sys2Proof.Machine.execQualifiedBreak input s
  | .breakReleased input => Sys2Proof.Machine.execBreakReleased input s
  | .gateStuck input => Sys2Proof.Machine.execGateStuck input s
  | .driverCallPress lane => Sys2Proof.Machine.execDriverCallPress lane s
  | .marshalPostPress post => Sys2Proof.Machine.execMarshalPostPress post s
  | .directorResumePress => Sys2Proof.Machine.execDirectorResumePress s
  | .buttonRelease button => Sys2Proof.Machine.execButtonRelease button s
  | .drawRise lane => Sys2Proof.Machine.execDrawRise lane s
  | .drawFall lane => Sys2Proof.Machine.execDrawFall lane s
  | .raceChangeTake orders => Sys2Proof.Machine.execRaceChangeTake orders s
  | .stall lane => Sys2Proof.Machine.execStall lane s
  | .gapEnd => Sys2Proof.Machine.execGapEnd s
  | .countdownStep => Sys2Proof.Machine.execCountdownStep s
  | .greenEntry => Sys2Proof.Machine.execGreenEntry s
  | .drawRunEnd lane => Sys2Proof.Machine.execDrawRunEnd lane s
  | .timeLimit => Sys2Proof.Machine.execTimeLimit s
  | .runoutExpiry => Sys2Proof.Machine.execRunoutExpiry s
  | .resumeDone => Sys2Proof.Machine.execResumeDone s
  | .lampFlash => Sys2Proof.Machine.execLampFlash s
  | .haltExpiry lane => Sys2Proof.Machine.execHaltExpiry lane s
  | .rampStep lane => Sys2Proof.Machine.execRampStep lane s
  | .chopPeriodStart => Sys2Proof.Machine.execChopPeriodStart s
  | .tick run => Sys2Proof.Machine.execTick run s
  | .resetRisingEdge refRunning => Sys2Proof.Machine.execResetRisingEdge refRunning s

end Sys2Proof.Machine
end

