-- ==== Sys2Proof/Safety.lean ====
section
/-! DEFINITION. What counts as a safe run of the LT832, in the terms the statements use: the outcome of a step, the
invariants of a state, and what a command of a given kind leaves behind (a slip finished, a countdown entered, a status
block shown). Nothing here is read by the machine. -/

namespace Sys2Proof.Machine

open Config

/-- A step is safe when it answers a next state: no command of the LT832 stops the device. -/
def Safe (r : Host.Outcome State Fault Refusal) : Prop := ∃ t, r = .next t

/-! ### Invariants -/

/-- Record memory is in its one canonical form. -/
def MemorySound (s : State) : Prop := Memory.wf s.mem

/-- Unused register bits read 0 (R3), and SOFT_RESET reads 0 (R7). -/
def RegistersSound (s : State) : Prop :=
  s.port.sum &&& 0xF0 = 0 ∧ s.port.sumen &&& 0xE0 = 0 ∧ s.port.flt &&& 0xF0 = 0 ∧ s.port.flten &&& 0xF0 = 0 ∧
    s.port.ctl &&& 0xFD = 0

/-- Every queue is within the size the manual gives it: the crossing queue (R45), the notice hold queue (R18), each
lap book's hold queue (R99) and each pending queue (R148); and the lost counts and each lane's deducted laps and time penalty
(R147) within their ranges. -/
def QueuesSound (s : State) : Prop :=
  s.gates.queue.length ≤ 64 ∧ s.port.noticeQueue.length ≤ 8 ∧ s.port.noticeLost ≤ 65535 ∧
    ∀ k, (s.lap k).bookQueue.length ≤ 4 ∧ (s.lap k).bookLost ≤ 65535 ∧ (s.penLane k).queue.length ≤ 8 ∧
      (s.penLane k).deducted ≤ 65535 ∧ (s.penLane k).timePenalty ≤ 0xFFFFFFFF

/-- The race is consistent: called-from is set just while the race is CALLED or RESUMING (R138), a heat is snapshotted
just outside IDLE (R118, R120), and lane power and the penalty unit know the race state race control has. -/
def RaceSound (s : State) : Prop :=
  (s.race.calledFrom ≠ .none ↔ s.race.state.frozen = true) ∧ (s.race.snapshot = none ↔ s.race.state = .idle) ∧
    (s.pen.heatStaged = true ↔ s.race.state ≠ .idle) ∧ s.power.state = s.race.state

/-- The gates agree with the loaded geometry: a lane's expected gate is below its gate count (R72), a lane of gate count 1
has last gate 0 (R63), and a crossing that waits and an input that is mapped name a gate the lane has (R16). -/
def GatesSound (s : State) : Prop :=
  (∀ k, (1 ≤ (s.geom k).gateCount → (s.lap k).expected < (s.geom k).gateCount) ∧
    ((s.geom k).gateCount = 1 → (s.lap k).last = 0)) ∧
  (∀ c ∈ s.gates.queue, c.gate.val < (s.geom c.lane).gateCount) ∧
  ∀ n m, (s.input n).mapping = some m → m.gate.val < (s.geom m.lane).gateCount

/-- Lane power agrees with its inputs: every lane's condition is the one R162 gives, a lane whose condition is off has
its pin low and no ramp (R165, R166), and a powered lane's duty is not above its target (R163). -/
def PowerSound (s : State) : Prop :=
  ∀ k, (s.powerLane k).cond = laneCondition s k ∧
    ((s.powerLane k).cond = false → (s.powerLane k).mode = .off ∧ (s.powerLane k).rampStart = none ∧
      (s.powerLane k).nextPin = none) ∧
    ((s.powerLane k).cond = true → (s.powerLane k).duty ≤ targetDuty (s.powerLane k))

/-! ### What a command leaves behind -/

/-- A byte of memory inside so many bytes from an address. -/
def Within (a len j : Nat) : Prop := a ≤ j ∧ j < a + len

/-- A lane with a discarded crossing or a fold counted on it (R74). -/
def discardCounted (l : LapLane) : LapLane :=
  { l with
    discardTally := min 65535 (l.discardTally + 1)
    lapTally := if l.state = .lapping ∨ l.state = .hunt then min 255 (l.lapTally + 1) else l.lapTally }

/-- The state t is u with a slip finished (R14): the slip at u's cursor holds the result code and detail and DONE or
REFUSED, every other byte reads as in u, SUM.SLIP is set, the cursor has moved on by one, and nothing else differs. -/
def SlipFinished (code detail : Nat) (u t : State) : Prop :=
  t = { u with
    mem := t.mem
    port := { u.port with sum := u.port.sum ||| 2, slipCursor := u.port.slipCursor + 1 }
    time := { u.time with scanLeft := u.time.scanLeft - 1 } } ∧
  readByte t (slipAddr u.port.slipCursor) = (if code = 0 then 2 else 3) ∧
  readByte t (slipAddr u.port.slipCursor + 2) = BitVec.ofNat 8 code ∧
  readByte t (slipAddr u.port.slipCursor + 3) = BitVec.ofNat 8 detail ∧
  ∀ j, ¬ (j = slipAddr u.port.slipCursor ∨ Within (slipAddr u.port.slipCursor + 2) 2 j) → readByte t j = readByte u j

/-- A slip of a kind is at the slip cursor, POSTED, while the scan of a service tick is on, and no host access waits for
its turn. -/
def SlipWaits (kind : Nat) (s : State) : Prop :=
  s.phase = .running ∧ s.time.serviceDue = true ∧ 0 < s.time.scanLeft ∧ s.port.turns = [] ∧
    readByte s (slipAddr s.port.slipCursor) = 1 ∧ readByte s (slipAddr s.port.slipCursor + 1) = BitVec.ofNat 8 kind ∧
    kind < 256

/-- Bytes 1 to 28 of race status show their owning blocks' values in s (section 1.4, R11). -/
def RaceStatusShows (s t : State) : Prop :=
  readField t 0x181 1 = s.race.state.code ∧ readField t 0x182 1 = s.race.calledFrom.code ∧
  readField t 0x183 1 = s.race.cardCursor.val ∧ readByte t 0x184 = currentLabel s ∧
  readField t 0x185 4 = heatClock s ∧ readField t 0x189 2 = min (runoutRemaining s) 65535 ∧
  readField t 0x18B 2 = s.race.callCount % 65536 ∧
  readField t 0x18D 1 = (match s.race.lastCallSource with
    | none => 0
    | some c => c.code) ∧
  readField t 0x18E 1 = s.race.lastCallWho % 256 ∧ readField t 0x18F 1 = s.time.refState.code ∧
  readByte t 0x190 = s.time.epoch ∧ readField t 0x191 4 = s.time.tickCount.toNat ∧
  readField t 0x195 1 = s.port.slipCursor.val ∧ readField t 0x196 1 = s.port.noticeCursor.val ∧
  readField t 0x197 2 = s.port.noticeLost % 65536 ∧ readField t 0x199 1 = s.race.lamps.toNat ∧
  readField t 0x19A 1 = (if s.port.setupLoaded then 1 else 0) ∧ readField t 0x19B 2 = (s.race.lfsr.getD 0).toNat

/-- Fields of a lane status block show their owning blocks' values in s (section 1.4, R11, R160). -/
def LaneStatusShows (k : Lane) (s t : State) : Prop :=
  let a := laneStatusAddr k
  readField t (a + 1) 1 = (s.lap k).state.code ∧ readByte t (a + 2) = currentRacer s k ∧
  (readByte t (a + 3)).getLsbD 0 = (s.standLane k).retired ∧ (readByte t (a + 3)).getLsbD 1 = servingHalt s k ∧
  (readByte t (a + 3)).getLsbD 2 = servingCap s k ∧ (readByte t (a + 3)).getLsbD 3 = (s.lap k).stalled ∧
  (readByte t (a + 3)).getLsbD 4 = (s.lap k).huntFlag ∧
  readField t (a + 4) 2 = (s.lap k).laps % 65536 ∧ readField t (a + 6) 2 = scoredLaps s k % 65536 ∧
  readField t (a + 8) 2 = (s.penLane k).deducted % 65536 ∧
  readField t (a + 10) 1 = (s.standLane k).position % 256 ∧
  readField t (a + 11) 1 = (if (s.geom k).gateCount = 0 then 0 else (s.lap k).expected % 256) ∧
  readField t (a + 12) 1 = (s.lap k).last % 256 ∧ readField t (a + 13) 5 = (s.lap k).lapStart.toNat ∧
  readField t (a + 18) 5 = (s.lap k).lastCrossing.toNat ∧ readField t (a + 23) 4 = (s.lap k).bestLap % 2 ^ 32 ∧
  readField t (a + 27) 3 = (s.lap k).bestSplits.one.getD 0xFFFFFF % 2 ^ 24 ∧
  readField t (a + 30) 3 = (s.lap k).bestSplits.two.getD 0xFFFFFF % 2 ^ 24 ∧
  readField t (a + 33) 3 = (s.lap k).bestSplits.three.getD 0xFFFFFF % 2 ^ 24 ∧
  readField t (a + 36) 4 = (s.penLane k).timePenalty % 2 ^ 32 ∧
  readField t (a + 40) 1 = pick s.race.callsUsed k % 256 ∧
  (∀ i : Fin 4, readField t (a + 41 + i.val) 1 = (16 * pick (s.penLane k).warnings (Fin.ofNat 8 (2 * i.val)) +
    pick (s.penLane k).warnings (Fin.ofNat 8 (2 * i.val + 1))) % 256) ∧
  readField t (a + 45) 1 = (s.penLane k).queue.length % 256 ∧
  readField t (a + 46) 1 = (match (s.penLane k).serving with
    | none => 0
    | some e => e.kind.code) ∧
  readField t (a + 47) 2 = (match (s.penLane k).serving with
    | none => 0
    | some e => e.serial.toNat) ∧
  readField t (a + 49) 2 = min (servingRemaining s k) 65535 ∧
  readField t (a + 51) 1 = (s.lap k).pageCursor.val ∧ readField t (a + 52) 2 = (s.lap k).bookLost % 65536 ∧
  readField t (a + 54) 2 = (s.lap k).discardTally % 65536 ∧ readField t (a + 56) 4 = finalDistance s k

/-- The nine status blocks are refreshed from s, each as one update (R10, R11), and no other byte changes. -/
def StatusRefreshed (s t : State) : Prop :=
  readByte t raceStatusBase = readByte s raceStatusBase + 2 ∧ RaceStatusShows s t ∧
  (∀ k, readByte t (laneStatusAddr k) = readByte s (laneStatusAddr k) + 2 ∧ LaneStatusShows k s t) ∧
  ∀ j, ¬ (Within raceStatusBase 29 j ∨ ∃ k, Within (laneStatusAddr k) 60 j) → readByte t j = readByte s j

/-! ### Power at a change of race state -/

/-- Lane power has entered a race state in which no lane may be powered: every lane is off at once and every ramp is
abandoned (R162, R165, R169); the duty of a lane that is off keeps its last value (log 43). -/
def PowerCut (r : RaceState) (s u : State) : Prop :=
  u.power = { s.power with state := r, lanes := u.power.lanes } ∧
  ∀ k, u.powerLane k = { s.powerLane k with cond := false, rampStart := none, mode := .off, nextPin := none }

/-- Nothing of its own keeps a lane from power: LANES_OFF is clear, and the lane is occupied, not finished, and not
serving HALT (R162). -/
def LaneFree (s : State) (l : PowerLane) : Prop :=
  s.port.lanesOff = false ∧ l.occupied = true ∧ l.finished = false ∧ l.serving ≠ some .halt

/-- The duty of a powered lane l set from a target: the target itself; while a ramp runs, its share by the whole
milliseconds elapsed since the ramp start, which stays, until they reach the ramp time (R166). -/
def DutyFollows (target : Nat) (s : State) (l m : PowerLane) : Prop :=
  let ramp := s.power.rampTime.getD 0
  (l.rampStart = none → m = { l with duty := target }) ∧
  ∀ r, l.rampStart = some r →
    let e := interval r (now s) / 100
    (e < ramp → m = { l with duty := target * e / ramp }) ∧
    (ramp ≤ e → m = { l with duty := target, rampStart := none })

/-- A lane l is evaluated in a race state at an event with stamp x, with its target duty, and becomes m. A free lane in
GREEN, RUNOUT or a live-grid COUNTDOWN is powered: already on, its duty follows the target, through a running ramp; turned
on in GREEN or RUNOUT it ramps up from x, or with a ramp time of 0 goes straight to its target, as it does in COUNTDOWN.
Every other lane is off, any ramp abandoned, its duty kept (R162, R163, R165 to R168; log 43). -/
def LaneEvaluated (race : RaceState) (x : Stamp) (target : Nat) (s : State) (l m : PowerLane) : Prop :=
  let powered := LaneFree s l ∧
    (race = .green ∨ race = .runout ∨ (race = .countdown ∧ s.power.liveGrid = true))
  let ramp := s.power.rampTime.getD 0
  (¬ powered → m = { l with cond := false, rampStart := none, mode := .off, nextPin := none }) ∧
  (powered → l.cond = true → DutyFollows target s l m) ∧
  (powered → l.cond = false → race ≠ .countdown → 0 < ramp →
    m = { l with cond := true, duty := 0, rampStart := some x }) ∧
  (powered → l.cond = false → race = .countdown ∨ ramp = 0 →
    m = { l with cond := true, duty := target, rampStart := none })

/-- Lane power has entered a race state with stamp x, and every lane is evaluated in it (R162, R166, R167, R169; the duty of
a lane that is off is log 43). -/
def PowerRestored (r : RaceState) (x : Stamp) (s u : State) : Prop :=
  u.power = { s.power with state := r, lanes := u.power.lanes } ∧
  ∀ k, LaneEvaluated r x (targetDuty (s.powerLane k)) s (s.powerLane k) (u.powerLane k)

/-! ### The start -/

/-- COUNTDOWN is entered with stamp e (R123, R124, R128, R167): the LFSR is 16 steps on and the hold is drawn from it,
the lamps are dark, the lap engine is handed the change, live-grid lanes are at their caps, the notice COUNTDOWN carries
the hold, and the draw runs begin. -/
def CountdownEntered (e : Stamp) (s t : State) : Prop :=
  ∃ (u : State) (h : HeatSnapshot), s.race.snapshot = some h ∧
    u = { s with
      race := { s.race with
        state := .countdown, countdownStamp := some e, countdownStep := 0, jumpMarks := Vector.replicate 8 false,
        lfsr := s.race.lfsr.map (lfsrSteps 16),
        hold := (raceTimes s).holdMin +
          ((s.race.lfsr.map (lfsrSteps 16)).getD 0).toNat % ((raceTimes s).holdSpan + 1),
        lamps := 0, flashStart := none }
      laps := { s.laps with changes := s.laps.changes ++ [{ kind := .countdown, stamp := e }] }
      power := u.power } ∧
    u.power = { s.power with state := .countdown, lanes := u.power.lanes } ∧
    (∀ k, let l := s.powerLane k
      (LaneFree s l ∧ s.power.liveGrid = true →
        u.powerLane k = { l with cond := true, duty := targetDuty l, rampStart := none }) ∧
      (¬ (LaneFree s l ∧ s.power.liveGrid = true) →
        u.powerLane k = { l with cond := false, rampStart := none, mode := .off, nextPin := none })) ∧
    t = { deliver (plainNotice .heat 3 h.label e s.race.cardCursor.val u.race.hold) u with
      race := { u.race with drawRuns := t.race.drawRuns } } ∧
    ∀ k, pick t.race.drawRuns k =
      if h.liveGrid = true ∧ pick h.racers k ≠ 0 ∧ (pick s.gates.draw k).level = true then .timing e else .idle

/-- GREEN is entered with stamp g (R126): the reds go dark and LG lights, the draw runs are abandoned, the lap engine
and the timebase are handed the change, power comes up, the time limit is watched in a timed heat, and the notice GREEN
is produced. -/
def GreenEntered (g : Stamp) (s t : State) : Prop :=
  ∃ (u : State) (h : HeatSnapshot), s.race.snapshot = some h ∧
    u = { s with
      race := { s.race with
        state := .green, drawRuns := Vector.replicate 8 .idle, lamps := 0x40, flashStart := none,
        timeLimitWatch := decide (h.endMode ≠ .laps) }
      laps := { s.laps with changes := s.laps.changes ++ [{ kind := .green, stamp := g }] }
      time := { s.time with racingSince := g }
      power := u.power } ∧
    PowerRestored .green g s u ∧
    t = deliver (plainNotice .heat 4 h.label g s.race.cardCursor.val 0) u

/-! ### The end of racing -/

/-- The RUNOUT notice (R121): for LAPS it names the lane that reached the limit and its racer. -/
def runoutNoticeOf (h : HeatSnapshot) (x : Stamp) (cause : Nat) (by_ : Option Lane) (s : State) : Notice :=
  { plainNotice .heat 5 h.label x s.race.cardCursor.val cause with
    lane := (match by_ with
      | some k => laneNo k
      | none => 0)
    racer := (match by_ with
      | some k => pick h.racers k
      | none => 0) }

/-- The race moves from GREEN to RUNOUT with stamp x and a cause (R114): the deadline is the heat clock at x plus the
run-out limit, LG and LR1 are lit, the lap engine and lane power are handed the change, and the notice RUNOUT is produced.
A deadline already reached cuts the unfinished lanes at once, with the stamp at which the heat clock reached it, or x
where that is not later (R36, R116; log 13). Power goes on: a running ramp keeps its start, and a lane without one stands
at its target (R166, R169). -/
def RunoutEntered (x : Stamp) (cause : Nat) (by_ : Option Lane) (s t : State) : Prop :=
  ∃ (u v : State) (h : HeatSnapshot), s.race.snapshot = some h ∧
    let deadline := heatClockAt x s + h.runoutLimit
    u = { s with
      race := { s.race with
        state := .runout, timeLimitWatch := false, runoutDeadline := some deadline, runoutWait := true, lamps := 0x41,
        flashStart := none }
      laps := { s.laps with changes := s.laps.changes ++ [{ kind := .runout, stamp := x }] }
      power := u.power } ∧
    PowerRestored .runout x s u ∧
    v = deliver (runoutNoticeOf h x cause by_ s) u ∧
    (heatClock s < deadline → t = v) ∧
    (deadline ≤ heatClock s → ∃ y : Stamp,
      (100 * deadline ≤ racingTicksAt x s → y = x) ∧
      (racingTicksAt x s < 100 * deadline → y + BitVec.ofNat 40 (s.time.racingTicks - 100 * deadline) = now s) ∧
      t = { v with
        race := { u.race with runoutWait := false }
        laps := { u.laps with changes := u.laps.changes ++ [{ kind := .cutUnfinished, stamp := y }] } })

/-! ### The finish of a lane -/

/-- A lane assembles a lap or waits for its first: GRID, LAPPING or HUNT. -/
def Unfinished (l : LapLane) : Prop := l.state = .grid ∨ l.state = .lapping ∨ l.state = .hunt

/-- A lane finishes with stamp x (R77): it becomes FINISHED and its power goes, its duty kept (log 43), and its finish is
handed to the penalty unit, to standings, where a finish at the line leaves no partial distance (R178), and to race control. -/
def LaneFinished (k : Lane) (x : Stamp) (afterCut : Bool) (s t : State) : Prop :=
  ∃ v w : State,
    v = { s with
      laps := { s.laps with lanes := put s.laps.lanes k { s.lap k with
        state := .finished, huntFlag := false, freezeOpen := false } }
      power := { s.power with lanes := put s.power.lanes k { s.powerLane k with
        finished := true, cond := false, rampStart := none, mode := .off, nextPin := none } } } ∧
    (let p := penFinish k x v
      let d := p.standLane k
      (d.finished = true ∨ pick p.stand.racers k = 0 → w = p) ∧
      (d.finished = false → pick p.stand.racers k ≠ 0 → w = { p with
        stand := { p.stand with lanes := put p.stand.lanes k { d with
          finished := true, partialDist := if afterCut then d.partialDist else 0 } } })) ∧
    t = raceFinish k x w

/-- A lane is cut with instant x (R78, R87, R175, R178, R180): standings is handed the cut data and takes the partial
distance from them, a RETIRE sets the retired flag and re-sorts the running order, and the lane finishes. -/
def LaneCut (byRetire : Bool) (x : Stamp) (k : Lane) (s t : State) : Prop :=
  let l := s.lap k
  let data : CutData :=
    { before := l.state, last := l.last, lastCrossing := l.lastCrossing,
      sectorFrozen := (if l.freezeOpen then
          l.sectorFrozen + interval (laterOf (s.laps.freezeStamp.getD l.lastCrossing) l.lastCrossing) x
        else l.sectorFrozen),
      bestSplit := (if 2 ≤ (s.geom k).gateCount then l.bestSplits.slot (l.last + 1) else none),
      bestLap := l.bestLap, haltInSector := l.haltInSector, instant := x }
  let u := { s with stand := { s.stand with lanes := put s.stand.lanes k { s.standLane k with
    partialDist := partialOf (s.geom k) data, retired := (s.standLane k).retired || byRetire } } }
  (byRetire = true → LaneFinished k x true (resort u) t) ∧ (byRetire = false → LaneFinished k x true u t)

/-- What follows the count of a lap that finishes its lane, from the state in which race control has answered (R71 steps 2
to 5): the running order is re-sorted, the record built and handed to the lane's book, the crossing handed to the penalty
unit as a completion that finishes, and the lane finished, its lap tally and lap marks left as they are (log 45). -/
def CompletionFinishes (k : Lane) (x : Stamp) (view : RaceView) (answered t : State) : Prop :=
  let v := resort answered
  let l := v.lap k
  let lap := buildRecord k x (pick v.laps.racers k) v.laps.label (v.standLane k).position (degraded l.lapStart x v) l
  let booked := arriveLap k lap { v with laps := { v.laps with lanes := put v.laps.lanes k { l with
    bestLap := if lap.isBest then lap.net else l.bestLap, lapFrozen := 0 } } }
  LaneFinished k x false (penAcceptedLine k x true true view booked) t

/-- A crossing with stamp x, seen in a race view, is checked for PUSH on lane k (R155): with the lane serving HALT, its push
mark clear, no call in the view, and more than the coast grace past the serve stamp, the mark is set and PUSH raised;
else nothing happens. -/
def PushChecked (k : Lane) (x : Stamp) (view : RaceView) (s t : State) : Prop :=
  let l := s.penLane k
  let due := servingHalt s k = true ∧ l.pushMark = false ∧ view.state ≠ .called ∧ view.state ≠ .resuming ∧
    isLater l.serveStamp x = true ∧ 100 * s.pen.coastGrace.getD 0 < interval l.serveStamp x
  (due → t = trigger trigPush k x { s with pen := { s.pen with lanes := put s.pen.lanes k { l with pushMark := true } } }) ∧
  (¬ due → t = s)

/-- A crossing that is no accepted line crossing does an effect; on a lane that serves HALT it is checked for PUSH as well,
before the effect or after it, as the command has it (R82, R154, R155; the order is log 4). -/
def CheckedAround (o : Orders) (k : Lane) (x : Stamp) (view : RaceView) (effect : State → State) (s t : State) : Prop :=
  (servingHalt s k = false → t = effect s) ∧
  (o.pushFirst = true → ∃ p, PushChecked k x view s p ∧ t = effect p) ∧
  (o.pushFirst = false → PushChecked k x view (effect s) t)

/-! ### The lap engine's work -/

/-- The change at the head of the pending change list is due (R54). -/
def HeadDue (s : State) : Prop :=
  ∃ ch rest, s.laps.changes = ch :: rest ∧ atOrAfter (ch.stamp + 2) (now s) = true

/-- The changes due in s are taken, one after the other from the head of the list, until none is due in t. -/
def DueTaken (o : Orders) (s t : State) : Prop :=
  ∃ m, t = Nat.iterate (takeHeadChange o) m s ∧ (∀ i, i < m → HeadDue (Nat.iterate (takeHeadChange o) i s)) ∧ ¬ HeadDue t

/-! ### Staging -/

/-- The racers of a heat, in lane order. -/
def heatRacers (h : HeatSnapshot) : List Byte := (allLanes.map fun k => pick h.racers k).filter fun r => r ≠ 0

/-- The racers of a heat that no USED tally entry holds, and the tally entries that read FREE (R107). -/
def heatNewRacers (s : State) (h : HeatSnapshot) : List Byte :=
  (heatRacers h).eraseDups.filter fun r =>
    (List.finRange 64).all fun i => !(readByte s (tallyAddr i) == 1 && readByte s (tallyAddr i + 1) == r)
def tallyRoom (s : State) : List (Fin 64) := (List.finRange 64).filter fun i => readByte s (tallyAddr i) == 0

/-- What race control reads from heat entry i (R12, R105): start and grid mode at 1 are HELD and ON, end mode above 1 is BOTH,
any live grid but 0 is on, calls allowed are at most 20, the time limit at most 24 hours, the run-out limit at most 60 s, the
minimum lap 100 to 60,000 ms and each card cap 10 to 100 %; label, lap limit, gap and racers are as written. -/
def HeatEntryRead (s : State) (i : Fin 32) (h : HeatSnapshot) : Prop :=
  let field := fun n len => readField s (entryAddr i + n) len
  h.label.toNat = field 1 1 ∧ (h.startHeld = true ↔ field 2 1 = 1) ∧ (h.gridOn = true ↔ field 3 1 = 1) ∧
    (field 4 1 = 0 → h.endMode = .time) ∧ (field 4 1 = 1 → h.endMode = .laps) ∧ (2 ≤ field 4 1 → h.endMode = .both) ∧
    (h.liveGrid = true ↔ field 5 1 ≠ 0) ∧ h.callsAllowed = min (field 6 1) 20 ∧
    h.timeLimit = min (field 8 4) 86400000 ∧ h.lapLimit = field 12 2 ∧ h.runoutLimit = min (field 14 2) 60000 ∧
    h.minLap = max 100 (min (field 16 2) 60000) ∧ h.gap = field 18 2 ∧
    ∀ k : Lane, (pick h.racers k).toNat = field (20 + k.val) 1 ∧
      pick h.caps k = max 10 (min (field (28 + k.val) 1) 100)

/-- The amount m that the snapshot holds for a response whose field reads n: clamped to the response's range, or as read
where the response uses none (R143). -/
def AmountClamped (r : Response) (n m : Nat) : Prop :=
  (r = .halt → m = max 500 (min n 60000)) ∧ (r = .cap → m = max 1 (min n 20)) ∧ (r = .laps → m = max 1 (min n 10)) ∧
    (r = .time → m = max 100 (min n 60000)) ∧ (r = .none ∨ r = .warn → m = n)

/-- The duty m that the snapshot holds for a response whose field reads n: 10 to 90 % for CAP, or as read (R143). -/
def DutyClamped (r : Response) (n m : Nat) : Prop := (r = .cap → m = max 10 (min n 90)) ∧ (r ≠ .cap → m = n)

/-- What the penalty unit takes into its snapshot from row r of the penalty table (R12, R142, R143): a response above 5 is
NONE, an escalation other than 2 to 5 is LAPS with amount 1, a fallback other than LAPS is TIME, the warn limit is 1 to 9, and
each amount and duty is clamped to the range of its own response. -/
def PenaltyRowRead (s : State) (r : Fin 8) (row : PenaltyRow) : Prop :=
  let field := fun n len => readField s (rowAddr r + n) len
  (field 0 1 = 1 → row.response = .warn) ∧ (field 0 1 = 2 → row.response = .halt) ∧
    (field 0 1 = 3 → row.response = .cap) ∧ (field 0 1 = 4 → row.response = .laps) ∧
    (field 0 1 = 5 → row.response = .time) ∧ (field 0 1 = 0 ∨ 5 < field 0 1 → row.response = .none) ∧
    AmountClamped row.response (field 1 2) row.amount ∧ DutyClamped row.response (field 3 1) row.duty ∧
    row.warnLimit = max 1 (min (field 4 1) 9) ∧
    (field 5 1 = 2 → row.escResponse = .halt) ∧ (field 5 1 = 3 → row.escResponse = .cap) ∧
    (field 5 1 = 4 → row.escResponse = .laps) ∧ (field 5 1 = 5 → row.escResponse = .time) ∧
    (2 ≤ field 5 1 → field 5 1 ≤ 5 → AmountClamped row.escResponse (field 6 2) row.escAmount) ∧
    (field 5 1 < 2 ∨ 5 < field 5 1 → row.escResponse = .laps ∧ row.escAmount = 1) ∧
    DutyClamped row.escResponse (field 8 1) row.escDuty ∧
    (field 9 1 = 4 → row.fbResponse = .laps) ∧ (field 9 1 ≠ 4 → row.fbResponse = .time) ∧
    AmountClamped row.fbResponse (field 10 2) row.fbAmount

/-- A heat is staged from the entry at the card cursor with the present stamp (R106, R107, R142, R160, R169, R172): the
entry RUNNING with reason, order and settle stamp 0; the new racers' tally entries, each in the FREE entry of lowest index
not yet taken, with bytes 27 to 31 left as they were (log 16); the snapshot, the changes handed on, the heat clock at 0,
the counts of the last heat cleared; the duties kept while every lane is off (log 43), and the run-out backup and the serve
stamps kept as well (log 46); and the notice STAGED. -/
def HeatStaged (h : HeatSnapshot) (s t : State) : Prop :=
  let a := entryAddr s.race.cardCursor
  let order := allLanes.filter fun k => pick h.racers k ≠ 0
  ∃ u : State,
    u = { s with
      mem := u.mem
      race := { s.race with
        state := .staged, snapshot := some h, stagedStamp := now s, finishedSet := Vector.replicate 8 false,
        runoutDeadline := none, runoutWait := false, callCount := 0, callsUsed := Vector.replicate 8 0,
        lastCallSource := none, lastCallWho := 0 }
      laps := { s.laps with changes := s.laps.changes ++
        [{ kind := .staging h.label h.gridOn h.minLap h.racers, stamp := now s }] }
      time := { s.time with racingTicks := 0 }
      pen := { s.pen with
        table := some (tabulate (readRow s)), heatStaged := true, serial := 0, label := h.label, lanes := u.pen.lanes }
      power := { s.power with state := .staged, liveGrid := h.liveGrid, lanes := u.power.lanes }
      stand := { order := order, label := h.label, racers := h.racers, lanes := u.stand.lanes } } ∧
    (∀ k, u.penLane k = { PenLane.reset with racer := pick h.racers k, serveStamp := (s.penLane k).serveStamp } ∧
      u.powerLane k = { s.powerLane k with
        occupied := decide (pick h.racers k ≠ 0), finished := false, cardCap := pick h.caps k, serving := none,
        cond := false, rampStart := none, mode := .off, nextPin := none } ∧
      u.standLane k = { StandLane.reset with position := if k ∈ order then order.idxOf k + 1 else 0 }) ∧
    readByte u a = 2 ∧ readByte u (a + 7) = 0 ∧ (∀ j, Within (a + 36) 13 j → readByte u j = 0) ∧
    (∀ (i : Nat) r e, (heatNewRacers s h)[i]? = some r → (tallyRoom s)[i]? = some e →
      let b := tallyAddr e
      readByte u b = 1 ∧ readByte u (b + 1) = r ∧ readByte u (b + 3) = readByte s (b + 3) + 2 ∧
        ∀ j, Within (b + 2) 25 j → j ≠ b + 3 → readByte u j = 0) ∧
    (∀ j, j ≠ a → j ≠ a + 7 → ¬ Within (a + 36) 13 j →
      (∀ (i : Nat) e, i < (heatNewRacers s h).length → (tallyRoom s)[i]? = some e → ¬ Within (tallyAddr e) 27 j) →
      readByte u j = readByte s j) ∧
    t = deliver (plainNotice .heat 1 h.label (now s) s.race.cardCursor.val order.length) u

/-! ### Calls and resumes -/

/-- The lane or post that race status shows for a call (section 1.4). -/
def CallOrigin.who (o : CallOrigin) : Nat :=
  match o.lane with
  | some k => laneNo k
  | none => o.post

/-- The CALL notice of a call, with its outcome, from the state with the call counted (R135). -/
def callNoticeOf (o : CallOrigin) (outcome : Nat) (u : State) : Notice :=
  { kind := .call
    subcode := o.source.code
    lane := (match o.lane with
      | some k => laneNo k
      | none => 0)
    racer := (match o.lane with
      | some k => currentRacer u k
      | none => 0)
    label := currentLabel u
    stamp := now u
    a := u.race.callCount
    b := outcome * 256 + o.post }

/-- A call is charged and reported (R134, R135): a driver call from an occupied lane counts against the lane, and beyond
the allowance it raises CALLS after its notice. -/
def CallReported (o : CallOrigin) (outcome : Nat) (u t : State) : Prop :=
  (∀ k, o.source = .driver → o.lane = some k → currentRacer u k ≠ 0 →
    ∃ v : State, v = { u with race := { u.race with
        callsUsed := put u.race.callsUsed k (min 255 (pick u.race.callsUsed k + 1)) } } ∧
      t = if callsAllowed u ≠ 0 ∧ callsAllowed u < min 255 (pick u.race.callsUsed k + 1) then
          trigger trigCalls k (now u) (deliver (callNoticeOf o outcome u) v)
        else deliver (callNoticeOf o outcome u) v) ∧
  ((o.source ≠ .driver ∨ o.lane = none ∨ ∃ k, o.lane = some k ∧ currentRacer u k = 0) →
    t = deliver (callNoticeOf o outcome u) u)

/-- Race control takes a call at the present stamp (R129 to R133): ignored in IDLE and STAGED, and in a RUNOUT that has
expired (log 32); in COUNTDOWN the race returns to STAGED, and the hold register keeps its number (log 39); in GREEN and
RUNOUT it enters CALLED, the racing tick count stops, that of the call's own tick counted (R35; where a HALT ends at the same
tick, log 14), and the power goes (log 43); in CALLED it merges; in RESUMING the race returns to CALLED. -/
def CallTaken (o : CallOrigin) (s t : State) : Prop :=
  let c := now s
  let r := { s.race with
    callCount := min 65535 (s.race.callCount + 1), lastCallSource := some o.source, lastCallWho := o.who }
  (s.race.state = .idle ∨ s.race.state = .staged → t = s) ∧
  (s.race.state = .countdown → ∃ u : State,
    u = { s with
      race := { r with
        state := .staged, countdownStep := 0, drawRuns := Vector.replicate 8 .idle, stagedStamp := c, lamps := 0,
        flashStart := none }
      laps := { s.laps with changes := s.laps.changes ++ [{ kind := .restaged, stamp := c }] }
      power := u.power } ∧
    PowerCut .staged s u ∧ CallReported o 4 u t) ∧
  (s.race.state = .green → ∃ u : State,
    u = { s with
      race := { r with state := .called, calledFrom := .green, lamps := 0x20, flashStart := some c }
      laps := { s.laps with changes := s.laps.changes ++ [{ kind := .called .green, stamp := c }] }
      power := u.power } ∧
    PowerCut .called s u ∧ CallReported o 1 u t) ∧
  (s.race.state = .runout → s.race.runoutWait = false → t = s) ∧
  (s.race.state = .runout → s.race.runoutWait = true → ∃ u : State,
    u = { s with
      race := { r with
        state := .called, calledFrom := .runout, runoutBackup := s.race.runoutDeadline.getD 0 - heatClock s,
        lamps := 0x20, flashStart := some c }
      laps := { s.laps with changes := s.laps.changes ++ [{ kind := .called .runout, stamp := c }] }
      power := u.power } ∧
    PowerCut .called s u ∧ CallReported o 1 u t) ∧
  (s.race.state = .called → t = deliver (callNoticeOf o 3 { s with race := r }) { s with race := r }) ∧
  (s.race.state = .resuming → ∃ u : State,
    u = { s with
      race := { r with state := .called, resumeStart := none, lamps := 0x20, flashStart := some c }
      laps := { s.laps with changes := s.laps.changes ++ [{ kind := .called s.race.calledFrom, stamp := c }] }
      power := u.power } ∧
    PowerCut .called s u ∧ CallReported o 2 u t)

/-- The resume begins at stamp x in CALLED (R137): LA is steady, the delay runs from x, the lap engine is handed the
change, the lanes stay off, and the notice BEGUN is produced. -/
def ResumeBegun (x : Stamp) (s t : State) : Prop :=
  t = deliver (plainNotice .resume 1 (currentLabel s) x s.race.callCount s.race.calledFrom.code)
    { s with
      race := { s.race with state := .resuming, resumeStart := some x, lamps := 0x20, flashStart := none }
      laps := { s.laps with changes := s.laps.changes ++ [{ kind := .resuming, stamp := x }] }
      power := { s.power with state := .resuming } }

/-! ### Services -/

/-- The serving entry of a lane ends with stamp x (R152, R159): it becomes none, the end of a HALT starts the stall
watch anew, the lane is evaluated with serving kind none and its card cap as target (R162, R166, R168; what the duty and
the CAP duty hold out of use is log 43, what the HALT end, the CAP remaining and the serve stamp hold log 46), and the notice
SERVED carries what remained. -/
def ServiceEnded (k : Lane) (x : Stamp) (subcode remaining : Nat) (s t : State) : Prop :=
  ∃ (e : PenEntry) (v : State), (s.penLane k).serving = some e ∧
    v = { s with
      pen := { s.pen with lanes := put s.pen.lanes k { s.penLane k with serving := none } }
      laps := (match e.kind with
        | .halt => { s.laps with lanes := put s.laps.lanes k { s.lap k with stallRef := heatClock s } }
        | .cap => s.laps)
      power := { s.power with lanes := put s.power.lanes k (v.powerLane k) } } ∧
    LaneEvaluated s.power.state x (s.powerLane k).cardCap s { s.powerLane k with serving := none } (v.powerLane k) ∧
    t = deliver (laneNotice .served subcode k (s.penLane k).racer s.pen.label x e.serial.toNat remaining) v

/-! ### Setup -/

/-- The gate count, and the position of gate i, of a lane in the setup block (section 1.4). -/
def setupCount (s : State) (k : Lane) : Nat := readField s (64 + 8 * k.val) 1
def setupPosition (s : State) (k : Lane) (i : Nat) : Nat := readField s (64 + 8 * k.val + 1 + 2 * (i - 1)) 2

/-- The lane and the gate index that an input's entry of the gate map names. -/
def setupMapLane (s : State) (n : GateIn) : Nat := (readByte s (2 * n.val)).toNat % 16
def setupMapGate (s : State) (n : GateIn) : Nat := (readByte s (2 * n.val)).toNat / 16 % 4

/-- Check 1 of R16: positions of gates 1 to n - 1 inside 1 to 999 and rising strictly. -/
def SetupGeometryValid (s : State) (k : Lane) : Prop :=
  setupCount s k ≤ 4 ∧ ∀ i, 1 ≤ i → i < setupCount s k →
    1 ≤ setupPosition s k i ∧ setupPosition s k i ≤ 999 ∧ (2 ≤ i → setupPosition s k (i - 1) < setupPosition s k i)

/-- Check 2 of R16: a lane of 1 to 8, a gate index below its gate count, and no lower input with the same two. -/
def SetupMapValid (s : State) (n : GateIn) : Prop :=
  setupMapLane s n = 0 ∨
    ((∃ k : Lane, setupMapLane s n = laneNo k ∧ setupMapGate s n < setupCount s k) ∧
      ∀ m, m < n → ¬ (setupMapLane s m = setupMapLane s n ∧ setupMapGate s m = setupMapGate s n))

/-- Check 3 of R16: each gate of a lane is mapped by some input. -/
def SetupCovered (s : State) (k : Lane) : Prop :=
  ∀ g, g < setupCount s k → ∃ n, setupMapLane s n = laneNo k ∧ setupMapGate s n = g

/-- Checks 1 to 3 of R16. -/
def SetupTrackValid (s : State) : Prop :=
  (∀ k, SetupGeometryValid s k) ∧ (∀ n, SetupMapValid s n) ∧ ∀ k, SetupCovered s k

/-- The first of checks 1 to 3 of R16 that fails has field number f: the lane of the first bad geometry, else 9 plus the
first input badly mapped, else the first lane with a gate that no input maps. -/
def SetupTrackFault (s : State) (f : Nat) : Prop :=
  (∃ k, (∀ j, j < k → SetupGeometryValid s j) ∧ ¬ SetupGeometryValid s k ∧ f = laneNo k) ∨
  ((∀ k, SetupGeometryValid s k) ∧ ∃ n, (∀ m, m < n → SetupMapValid s m) ∧ ¬ SetupMapValid s n ∧ f = 9 + n.val) ∨
  ((∀ k, SetupGeometryValid s k) ∧ (∀ n, SetupMapValid s n) ∧
    ∃ k, (∀ j, j < k → SetupCovered s j) ∧ ¬ SetupCovered s k ∧ f = laneNo k)

/-- The setup block loaded into the blocks (R17, R47); a lane's expected gate that is not below its new gate count becomes
0, and with a gate count of 1 its last gate too (R63, R72; log 28). -/
def SetupLoaded (s u : State) : Prop :=
  u = { s with
    port := { s.port with setupLoaded := true }
    gates := { s.gates with
      inputs := u.gates.inputs, holdOff := some (clamp 5 250 (readField s 128 2)), queue := [] }
    laps := { s.laps with
      geometry := u.laps.geometry
      lanes := u.laps.lanes
      setup := some {
        missTolerance := readField s 130 1
        stallTime := clamp 2000 60000 (readField s 131 2)
        autoCall := decide (readField s 133 1 = 1) } }
    race := { s.race with
      times := some {
        jumpDraw := clamp 50 500 (readField s 134 2), resumeDelay := clamp 1000 10000 (readField s 136 2),
        countdownStep := clamp 500 2000 (readField s 138 2), holdMin := clamp 0 5000 (readField s 140 2),
        holdSpan := clamp 0 5000 (readField s 142 2) }
      lfsr := some (if readField s 144 2 = 0 then 1 else BitVec.ofNat 16 (readField s 144 2)) }
    pen := { s.pen with coastGrace := some (clamp 0 5000 (readField s 146 2)) }
    power := { s.power with rampTime := some (clamp 0 1000 (readField s 148 2)) } } ∧
  (∀ k, u.lap k = { s.lap k with
    expected := if (s.lap k).expected < setupCount s k then (s.lap k).expected else 0,
    last := if setupCount s k = 1 then 0 else (s.lap k).last }) ∧
  (∀ k, (u.geom k).gateCount = setupCount s k ∧ (u.geom k).pos1 = setupPosition s k 1 ∧
    (u.geom k).pos2 = setupPosition s k 2 ∧ (u.geom k).pos3 = setupPosition s k 3) ∧
  (∀ n, setupMapLane s n = 0 → u.input n = InputRec.quiet none) ∧
  ∀ n k g, setupMapLane s n = laneNo k → setupMapGate s n = g.val →
    u.input n = InputRec.quiet (some { lane := k, gate := g, activeHigh := (readByte s (2 * n.val)).getLsbD 7 })

end Sys2Proof.Machine
end

