-- ==== Sys2Proof/Certificates/Slice0/Obligations.lean ====
section
/-! DEFINITION. The statements about the LT832 model. Each docstring names the rules of the manual it formalises, and
the log entry where a clause rests on a choice of the model's. -/

open Sys2Proof Sys2Proof.Machine Sys2Proof.Config

/-! ### The queue and the outcome of a command -/

/-- A step with a command at the front of the queue is that command's meaning on the state with the queue's rest. -/
def Obligations.StepRunsFrontCommand : Prop :=
  ∀ (c : Instr) (rest : List Instr) (s : State),
    step { s with pending := c :: rest } = exec c { s with pending := rest }

/-- No command stops the device, and no command touches the queue of commands that wait behind it. -/
def Obligations.CommandsAnswerNextAndLeaveQueue : Prop :=
  ∀ (c : Instr) (s : State), ∃ t, exec c s = .next t ∧ t.pending = s.pending

/-! ### Invariants -/

/-- The state in a hard reset meets every invariant of Safety.lean. -/
def Obligations.ResetStateIsSound : Prop :=
  MemorySound State.reset ∧ RegistersSound State.reset ∧ QueuesSound State.reset ∧ RaceSound State.reset ∧
    GatesSound State.reset ∧ PowerSound State.reset

/-- Every step keeps record memory in its canonical form. -/
def Obligations.StepKeepsMemoryCanonical : Prop :=
  ∀ s t : State, MemorySound s → step s = .next t → MemorySound t

/-- Every step keeps unused register bits 0 (R3, R7) and every queue, lost count and penalty total within its range (R18,
R45, R99, R147, R148). -/
def Obligations.StepKeepsRegistersAndQueues : Prop :=
  ∀ s t : State, RegistersSound s → QueuesSound s → step s = .next t → RegistersSound t ∧ QueuesSound t

/-- Every step keeps called-from, the heat snapshot, the penalty unit's heat staged and lane power's race state
consistent with the race state (R118, R120, R138, R157, R169). -/
def Obligations.StepKeepsRaceConsistent : Prop :=
  ∀ s t : State, RaceSound s → step s = .next t → RaceSound t

/-- Every step keeps every lane's power in agreement with R162, R163 and R165: the condition is the one its inputs
give, a lane without it is low with no ramp, and a powered lane's duty is not above its target. -/
def Obligations.StepKeepsLanePowerInAgreement : Prop :=
  ∀ s t : State, PowerSound s → step s = .next t → PowerSound t

/-- Every step keeps the gates in agreement with the loaded geometry: every lane's expected gate below its gate count, and
0 as its last gate is on a lane of gate count 1 (R63, R72; what a SETUP leaves in them is log 28). -/
def Obligations.StepKeepsGatesWithinGeometry : Prop :=
  ∀ s t : State, GatesSound s → step s = .next t → GatesSound t

/-- No command but a host write changes a byte of a host region, except in a memory clear (R8): not the setup block and
the penalty table, not a free area. -/
def Obligations.DeviceSparesHostRegions : Prop :=
  ∀ (c : Instr) (s t : State), s.port.turns = [] → s.phase ≠ .clearing →
    (∀ bus data landing, c ≠ .hostMemoryWrite bus data landing) → exec c s = .next t →
    ∀ j, j < 0x180 ∨ Within 0x1C0 0x40 j ∨ Within 0x1E00 0x200 j ∨ 0x6000 ≤ j → readByte t j = readByte s j

/-! ### Resets -/

/-- What a hard reset leaves: every block whole at its reset state, with record memory, the pins and the waiting commands
as they were until RESET# rises; and the values the manual gives (R13, R17, R20, R37, R48, R53, R61, R97, R122, R141,
R161, R171 and R184). The rest of the reset state, where the manual gives no value, is log 2. -/
def Obligations.HardResetGivesResetValues : Prop :=
  ∀ s : State, ∃ t, exec .hardReset s = .next t ∧
    t = { State.reset with pending := s.pending, mem := s.mem, pins := s.pins } ∧ t.phase = .inReset ∧
    (∀ o, registerValue o t.port = 0) ∧ irqLow t.port = false ∧ t.port.slipCursor = 0 ∧ t.port.noticeCursor = 0 ∧
    t.port.noticeQueue = [] ∧ t.port.noticeLost = 0 ∧ t.port.noticeSerial = 0 ∧ t.port.setupLoaded = false ∧
    now t = 0 ∧ t.time.prescaler = 0 ∧ t.time.servicePrescaler = 0 ∧ t.time.warmupCount = 0 ∧
    t.time.lockStamp = none ∧ t.time.unlockStamp = none ∧ heatClock t = 0 ∧
    t.gates.holdOff = none ∧ t.gates.queue = [] ∧ (∀ n, (t.input n).mapping = none ∧ (t.input n).phase = .quiet ∧
      (t.input n).stuck = false) ∧ t.gates.director = { level := false, run := 0 } ∧
    (∀ n, pick t.gates.marshal n = { level := false, run := 0 }) ∧
    t.race.state = .idle ∧ t.race.calledFrom = .none ∧ t.race.cardCursor = 0 ∧ t.race.snapshot = none ∧
    t.race.runoutDeadline = none ∧ t.race.lfsr = none ∧ t.race.callCount = 0 ∧ t.race.lastCallSource = none ∧
    t.race.lamps = 0 ∧
    t.laps.changes = [] ∧ t.laps.freezeStamp = none ∧ t.pen.table = none ∧ t.pen.heatStaged = false ∧
    t.pen.coastGrace = none ∧
    t.pen.serial = 0 ∧ t.power.rampTime = none ∧ t.power.chopCounter = 0 ∧ t.stand.order = [] ∧
    (∀ k, pick t.gates.driver k = { level := false, run := 0 } ∧ (pick t.gates.draw k).level = false ∧
      (t.lap k).state = .vacant ∧ (t.lap k).laps = 0 ∧ (t.lap k).callMarker = false ∧ (t.lap k).stalled = false ∧
      (t.lap k).pageCursor = 0 ∧ (t.lap k).bookQueue = [] ∧ (t.lap k).bestLap = 0 ∧ (t.penLane k).queue = [] ∧
      (t.penLane k).serving = none ∧ (t.penLane k).deducted = 0 ∧ (∀ r, pick (t.penLane k).warnings r = 0) ∧
      pick t.race.callsUsed k = 0 ∧ (t.powerLane k).cond = false ∧
      (∀ u, pinHigh t k u = false) ∧ (t.standLane k).position = 0 ∧ finalDistance t k = 0)

/-- RESET# rising takes the device out of reset into the memory clear, with the reference state R37 gives; the end of
the clear leaves every byte 0 and SUM.STARTED set (R21, R37). While RESET# is low the bus is ignored and nothing counts
(R1, R24); during the clear the host reads 0, its writes to record memory are discarded, and a write of 1 to SOFT_RESET
is ignored (R3, R21). -/
def Obligations.ColdStartShutsTheHostOutUntilStarted : Prop :=
  (∀ (s : State) (running : Bool), s.phase = .inReset → ∃ t u,
    exec (.resetRisingEdge running) s = .next t ∧
    t = { s with phase := .clearing, time := { s.time with refState := if running then .warmup else .fallback } } ∧
    exec .memoryClearDone t = .next u ∧
    u = { t with phase := .running, mem := [], port := { t.port with sum := t.port.sum ||| 1 } } ∧
    (∀ j, readByte u j = 0) ∧ (registerValue 0 u.port).getLsbD 0 = true) ∧
  ∀ (s : State) (bus : BusLines) (d : Byte) (l : Landing) (p : Sample) (clock : List ClockEvent) (o : BitVec 3),
    (s.phase = .inReset →
      exec (.hostMemoryRead ⟨bus, l⟩) s = .next s ∧ exec (.hostMemoryWrite bus d l) s = .next s ∧
      exec (.sumWrite d) s = .next s ∧ exec (.sumenWrite d) s = .next s ∧ exec (.fltWrite d) s = .next s ∧
      exec (.fltenWrite d) s = .next s ∧ exec (.lanesOff d) s = .next s ∧ exec (.softReset d) s = .next s ∧
      exec (.unusedRegisterWrite o d) s = .next s ∧ exec (.tick ⟨p, clock⟩) s = .next s ∧
      exec (.refLost p) s = .next s ∧ exec .warmupStart s = .next s ∧ exec (.refBack ⟨p, clock⟩) s = .next s) ∧
    (s.phase = .clearing →
      (bus.regselHigh = false → bus.csLow = true → bus.rdLow = true → bus.wrLow = false →
        exec (.hostMemoryRead ⟨bus, l⟩) s = .next { s with port := { s.port with dataOut := some 0 } }) ∧
      (bus.regselHigh = false → bus.csLow = true → bus.wrLow = true → bus.rdLow = false →
        exec (.hostMemoryWrite bus d l) s = .next { s with port := { s.port with dataOut := none } }) ∧
      (d.getLsbD 1 = s.port.lanesOff →
        exec (.softReset d) s = .next { s with port := { s.port with dataOut := none } }))

/-- A soft reset in IDLE: every register 0 but LANES_OFF, every block at its reset values, record memory kept (R7, R22,
R37); and its end: the nine status blocks refreshed once, each as one update, then SUM.STARTED (R10, R11, R22). That
REFCLK runs just when the reference state is not FALLBACK is the model's inference (log 19), that the time measured since
its last edge goes on is log 35, that the reserved bytes of the status blocks are left as they are is log 16, and the
model's own record of host reads inside device steps is log 5. -/
def Obligations.SoftResetInIdleAndItsEnd : Prop :=
  (∀ (s : State) (d : Byte), s.phase = .running → s.race.state = .idle → s.port.turns = [] →
    d.getLsbD 0 = true → d.getLsbD 1 = s.port.lanesOff →
    exec (.softReset d) s = .next { State.reset with
      pending := s.pending
      phase := .softReset
      mem := s.mem
      pins := s.pins
      port := { HostPort.reset with ctl := if s.port.lanesOff then 2 else 0, turnReads := s.port.turnReads }
      time := { Timebase.reset with
        refState := if s.time.refState = .fallback then .fallback else .warmup, quiet := s.time.quiet } }) ∧
  ∀ s : State, s.phase = .softReset → s.port.turns = [] → ∃ t, exec .softResetEnd s = .next t ∧
    t = { s with phase := .running, mem := t.mem, port := { s.port with sum := s.port.sum ||| 1 } } ∧
    StatusRefreshed s t

/-- A soft reset outside IDLE voids the heat entry at the old card cursor if it reads RUNNING: reason RESET, VOID and a
HEAT VOID notice, written into entry 0 when that is EMPTY; another state byte is left as it is (R22, R23). -/
def Obligations.SoftResetVoidsRunningHeat : Prop :=
  ∀ (s : State) (d : Byte), s.phase = .running → s.race.state ≠ .idle → s.port.turns = [] →
    d.getLsbD 0 = true → d.getLsbD 1 = s.port.lanesOff →
    let a := entryAddr s.race.cardCursor
    ∃ t, exec (.softReset d) s = .next t ∧ t.phase = .softReset ∧ t.race = RaceControl.reset ∧
      t.laps = LapEngine.reset ∧ t.pen = PenaltyUnit.reset ∧ t.power = LanePower.reset ∧ t.stand = Standings.reset ∧
      (readByte s a ≠ 2 → t.mem = s.mem ∧ t.port.sum = 0) ∧
      (readByte s a = 2 → readByte s 0xE00 &&& 0x0F = 1 →
        readByte t a = 4 ∧ readByte t (a + 7) = 7 ∧ readByte t 0xE00 = 0x02 ∧ readByte t 0xE01 = 0x17 ∧
        readByte t 0xE02 = 0 ∧ readByte t 0xE03 = readByte s (a + 1) ∧ readField t 0xE04 5 = 0 ∧
        readField t 0xE09 2 = s.race.cardCursor.val ∧ readField t 0xE0B 2 = 7 ∧ readField t 0xE0D 2 = 1 ∧
        readByte t 0xE0F = 0 ∧ t.port.sum = 0x08 ∧ t.port.noticeCursor = 1 ∧
        ∀ j, ¬ (j = a ∨ j = a + 7 ∨ Within 0xE00 16 j) → readByte t j = readByte s j)

/-! ### The host bus and the registers -/

/-- A host read drives the addressed byte or register on D7 to D0 when the strobes frame a read, nothing otherwise, and has
no side effect; a host write stores one byte and leaves every other byte and every block alone; with CS# high, or both
strobes low, nothing is transferred (R1, R3). An access that is to come inside a device step waits for its turn, and comes
before the next whole access to record memory at the latest (R2; log 5). -/
def Obligations.HostAccessReadsOrStoresOneByte : Prop :=
  ∀ (s : State) (bus : BusLines) (d : Byte) (l : Landing), s.phase = .running ∨ s.phase = .softReset →
    s.port.turns = [] →
    let undriven := { s with port := { s.port with dataOut := none } }
    (bus.csLow = true → bus.rdLow = true → bus.wrLow = false →
      (bus.regselHigh = true → exec (.hostMemoryRead ⟨bus, l⟩) s = .next { s with port := { s.port with
        dataOut := some (registerValue (bus.addr.truncate 3) s.port) } }) ∧
      (bus.regselHigh = false → exec (.hostMemoryRead ⟨bus, .whole⟩) s = .next { s with port := { s.port with
        dataOut := some (readByte s bus.addr.toNat) } })) ∧
    (bus.csLow = true → bus.wrLow = true → bus.rdLow = false → bus.regselHigh = false →
      ∃ t, exec (.hostMemoryWrite bus d .whole) s = .next t ∧
        t = { s with mem := t.mem, port := { s.port with dataOut := none } } ∧ readByte t bus.addr.toNat = d ∧
        ∀ j, j ≠ bus.addr.toNat → readByte t j = readByte s j) ∧
    (bus.csLow = false ∨ (bus.rdLow = true ∧ bus.wrLow = true) →
      exec (.hostMemoryRead ⟨bus, l⟩) s = .next undriven ∧ exec (.hostMemoryWrite bus d l) s = .next undriven) ∧
    ∀ (n : Nat) (other : BusLines), bus.csLow = true → bus.regselHigh = false →
      other.csLow = true → other.rdLow = true → other.wrLow = false → other.regselHigh = false →
      (bus.wrLow = true → bus.rdLow = false → ∃ t u, exec (.hostMemoryWrite bus d (.inside n)) s = .next t ∧
        t = { s with port := { s.port with turns := [{ after := n, addr := bus.addr, data := some d }], turnReads := [] } } ∧
        exec (.hostMemoryRead ⟨other, .whole⟩) t = .next u ∧ u.port.turns = [] ∧ readByte u bus.addr.toNat = d ∧
        u.port.dataOut = some (readByte u other.addr.toNat) ∧
        ∀ j, j ≠ bus.addr.toNat → readByte u j = readByte s j) ∧
      (bus.rdLow = true → bus.wrLow = false → ∃ t u, exec (.hostMemoryRead ⟨bus, .inside n⟩) s = .next t ∧
        t = { s with port := { s.port with turns := [{ after := n, addr := bus.addr, data := none }], turnReads := [] } } ∧
        exec (.hostMemoryRead ⟨other, .whole⟩) t = .next u ∧
        u = { s with port := { s.port with
          dataOut := some (readByte s other.addr.toNat), turnReads := [readByte s bus.addr.toNat] } })

/-- A host access that comes inside an update of a block comes between two of the device's byte accesses: the read of the
count, its first write, each byte of the fields in order, and the last write of the count. A host write is overwritten
just where the device writes that byte after it, and a host read sees each byte as it is before or after the device's write
of it; every other byte is as with no host access. The count goes on from the value the device found at its read (R2,
R10; how a turn is given is log 5, that the count is read once is log 38, and that the fields are written by address is
log 41). The field may have no byte at all. Record memory is in its canonical form, which every step keeps. -/
def Obligations.HostAccessComesBetweenDeviceBytes : Prop :=
  ∀ (s : State) (c a : Nat) (bs : List Byte) (n : Nat) (addr : BitVec 15),
    MemorySound s → s.port.turns = [] → c < memSize → a + bs.length ≤ memSize → ¬ Within a bs.length c →
    let plain := updateBlock c [(a, bs)] s
    let met := fun data : Option Byte => updateBlock c [(a, bs)]
      { s with port := { s.port with turns := [{ after := n, addr := addr, data := data }] } }
    (bs.length + 3 ≤ n → ∀ data, met data = { plain with port := { plain.port with
      turns := [{ after := n - (bs.length + 3), addr := addr, data := data }] } }) ∧
    (n < bs.length + 3 →
      (∀ d, let t := met (some d)
        t = { s with mem := t.mem, port := { s.port with dataOut := none } } ∧
        (∀ j, j ≠ addr.toNat → j ≠ c → readByte t j = readByte plain j) ∧
        (addr.toNat = c → readByte t c = (if n = 0 then d else readByte s c) + 2) ∧
        (addr.toNat ≠ c → readByte t c = readByte plain c) ∧
        (∀ i, i < bs.length → addr.toNat = a + i →
          readByte t (a + i) = if i + 2 < n then d else readByte plain (a + i)) ∧
        (addr.toNat ≠ c → ¬ Within a bs.length addr.toNat → readByte t addr.toNat = d)) ∧
      (let t := met none
        let b := if addr.toNat = c then (if n ≤ 1 then readByte s c else readByte s c + 1)
          else if addr.toNat + 2 < n + a then readByte plain addr.toNat else readByte s addr.toNat
        t = { plain with port := { s.port with dataOut := some b, turnReads := s.port.turnReads ++ [b] } }))

/-- A notice entry that the host takes back before the hand-over, at any of the device's byte accesses up to the recheck,
is not handed over: the state byte stays the host's, the cursor, the serial and SUM stay, and the notice waits in the hold
queue (R2, R9, R18; log 10). -/
def Obligations.HostTakesBackNoticeEntry : Prop :=
  ∀ (n : Notice) (s : State) (d : Byte) (k : Nat),
    let a := noticeAddr s.port.noticeCursor
    s.port.noticeQueue = [] → s.port.noticeLost = 0 → readByte s a &&& 0x0F = 1 → k ≤ 16 →
    s.port.turns = [{ after := k, addr := BitVec.ofNat 15 a, data := some d }] → d &&& 0x0F ≠ 1 →
    readByte (deliver n s) a = d ∧ (deliver n s).port.noticeQueue = [{ notice := n, lost := 0 }] ∧
      (deliver n s).port.noticeSerial = s.port.noticeSerial ∧ (deliver n s).port.turns = [] ∧
      (deliver n s).port.noticeCursor = s.port.noticeCursor ∧ (deliver n s).port.sum = s.port.sum

/-- IRQ# is low just while SUM and SUMEN have a set bit in common, and it follows both at once (R5). -/
def Obligations.IrqFollowsEnabledCauses : Prop :=
  (∀ p : HostPort, irqLow p = true ↔
    ∃ i < 8, (registerValue 0 p).getLsbD i = true ∧ (registerValue 1 p).getLsbD i = true) ∧
  (∀ (s : State) (d : Byte), s.phase ≠ .inReset → ∃ t, exec (.sumWrite d) s = .next t ∧
    ((∀ i < 8, (registerValue 0 s.port).getLsbD i = true → (registerValue 1 s.port).getLsbD i = true →
      i < 4 ∧ d.getLsbD i = true) → irqLow t.port = false)) ∧
  (∀ (s : State) (d : Byte), s.phase ≠ .inReset → ∃ t, exec (.sumenWrite d) s = .next t ∧
    (irqLow t.port = true ↔ ∃ i < 5, (registerValue 0 s.port).getLsbD i = true ∧ d.getLsbD i = true))

/-- Writes of SUM, SUMEN, FLT and FLTEN: causes written as 1 are cleared, enables are as written, SUM.FAULT follows FLT
and FLTEN, and nothing else changes (R3, R4, R6); offsets 5 to 7 ignore a write and read 0 (R3). -/
def Obligations.RegisterWritesClearAndSelect : Prop :=
  ∀ (s : State) (d : Byte), s.phase ≠ .inReset → RegistersSound s →
    (∃ t, exec (.sumWrite d) s = .next t ∧ t = { s with port := { s.port with sum := t.port.sum, dataOut := none } } ∧
      (∀ i < 4, (registerValue 0 t.port).getLsbD i = ((registerValue 0 s.port).getLsbD i && !d.getLsbD i)) ∧
      (registerValue 0 t.port).getLsbD 4 = (registerValue 0 s.port).getLsbD 4) ∧
    exec (.sumenWrite d) s = .next { s with port := { s.port with sumen := d &&& 0x1F, dataOut := none } } ∧
    (∃ t, exec (.fltWrite d) s = .next t ∧ t = { s with port := { s.port with flt := t.port.flt, dataOut := none } } ∧
      (∀ i < 4, t.port.flt.getLsbD i = (s.port.flt.getLsbD i && !d.getLsbD i)) ∧
      ((registerValue 0 t.port).getLsbD 4 = true ↔
        ∃ i < 4, t.port.flt.getLsbD i = true ∧ t.port.flten.getLsbD i = true)) ∧
    exec (.fltenWrite d) s = .next { s with port := { s.port with flten := d &&& 0x0F, dataOut := none } } ∧
    (∀ o : BitVec 3, 5 ≤ o.toNat →
      exec (.unusedRegisterWrite o d) s = .next { s with port := { s.port with dataOut := none } } ∧
      registerValue o s.port = 0)

/-- LANES_OFF set turns every lane off at once and abandons every ramp, and stops nothing else; cleared, it turns the
eligible lanes on, in GREEN and RUNOUT through a ramp from the write, with a ramp time of 0 and in a live-grid countdown at
their targets with no ramp, and leaves the others off (R162, R165, R166, R167, R170). That a lane that is off keeps its
last duty is log 43. -/
def Obligations.LanesOffCutsAndRestoresPower : Prop :=
  ∀ (s : State) (d : Byte), s.phase ≠ .inReset → d.getLsbD 0 = false →
    (d.getLsbD 1 = true → s.port.lanesOff = false → ∃ t, exec (.lanesOff d) s = .next t ∧
      t = { s with
        port := { s.port with ctl := 2, dataOut := none }
        power := { s.power with lanes := t.power.lanes } } ∧
      ∀ k, t.powerLane k =
          { s.powerLane k with cond := false, rampStart := none, mode := .off, nextPin := none } ∧
        ∀ u, pinHigh t k u = false) ∧
    (∀ ramp, PowerSound s → d.getLsbD 1 = false → s.port.lanesOff = true → s.power.rampTime = some ramp →
      ∃ t, exec (.lanesOff d) s = .next t ∧ t.port.lanesOff = false ∧
        t = { s with
          port := { s.port with ctl := 0, dataOut := none }
          power := { s.power with lanes := t.power.lanes } } ∧
        ∀ k, let l := s.powerLane k
          let free := l.occupied = true ∧ l.finished = false ∧ l.serving ≠ some .halt
          (free → s.power.state.racing = true → 0 < ramp →
            t.powerLane k = { l with cond := true, duty := 0, rampStart := some (now s) }) ∧
          (free → s.power.state.racing = true → ramp = 0 →
            t.powerLane k = { l with cond := true, duty := targetDuty l, rampStart := none }) ∧
          (free → s.power.state = .countdown → s.power.liveGrid = true →
            t.powerLane k = { l with cond := true, duty := targetDuty l, rampStart := none }) ∧
          (¬ free ∨ (s.power.state.racing = false ∧ s.power.state ≠ .countdown) → t.powerLane k = l))

/-! ### Notices -/

/-- A notice that arrives with nothing held is written whole into an EMPTY entry at the cursor, serial, lost field and
state byte last; where the entry is not EMPTY it is held, and where 8 are held it is counted as lost. One that arrives while
notices are held first retries them: if that empties the queue it is handled as with nothing held, else it joins the tail,
or is counted as lost where 8 are held still (R9, R18, R19, R20). -/
def Obligations.NoticeWrittenHeldOrLost : Prop :=
  ∀ (n : Notice) (s : State), s.port.turns = [] →
    let a := noticeAddr s.port.noticeCursor
    let m := min s.port.noticeLost 255
    let t := deliver n s
    (s.port.noticeQueue = [] → readByte s a &&& 0x0F = 1 →
      t = { s with
        mem := t.mem
        port := { s.port with
          sum := s.port.sum ||| 8, noticeCursor := s.port.noticeCursor + 1,
          noticeSerial := s.port.noticeSerial + 1, noticeLost := s.port.noticeLost - m } } ∧
      readByte t a = BitVec.ofNat 8 (16 * n.lane + 2) ∧
      readByte t (a + 1) = BitVec.ofNat 8 (16 * n.kind.code + n.subcode) ∧
      readByte t (a + 2) = n.racer ∧ readByte t (a + 3) = n.label ∧ readField t (a + 4) 5 = n.stamp.toNat ∧
      readField t (a + 9) 2 = n.a % 65536 ∧ readField t (a + 11) 2 = n.b % 65536 ∧
      readField t (a + 13) 2 = (s.port.noticeSerial + 1).toNat ∧ readField t (a + 15) 1 = m ∧
      ∀ j, ¬ Within a 16 j → readByte t j = readByte s j) ∧
    (readByte s a &&& 0x0F ≠ 1 → s.port.noticeQueue.length < 8 →
      t = { s with port := { s.port with
        noticeQueue := s.port.noticeQueue ++ [{ notice := n, lost := m }], noticeLost := s.port.noticeLost - m } }) ∧
    (readByte s a &&& 0x0F ≠ 1 → 8 ≤ s.port.noticeQueue.length →
      t = { s with port := { s.port with
        flt := s.port.flt ||| 8, noticeLost := min 65535 (s.port.noticeLost + 1) } }) ∧
    ∀ u, s.port.noticeQueue ≠ [] → u = retryNotices s →
      let q := u.port.noticeQueue
      let w := min u.port.noticeLost 255
      (q = [] → t = deliver n u) ∧
      (q ≠ [] → q.length < 8 → t = { u with port := { u.port with
        noticeQueue := q ++ [{ notice := n, lost := w }], noticeLost := u.port.noticeLost - w } }) ∧
      (8 ≤ q.length → t = { u with port := { u.port with
        flt := u.port.flt ||| 8, noticeLost := min 65535 (u.port.noticeLost + 1) } })

/-- A retry writes held notices while the entry at the cursor is EMPTY, oldest first, each whole into an entry that the
host has given, with the next serial and its own lost field, and stops at the first entry that is not EMPTY; no other
byte changes. A notice that arrives, and a retry, whatever waits, change the notice list and what the record memory block
keeps for it, and nothing else (R8, R18, R19, R20). -/
def Obligations.RetryWritesHeldAndTouchesOnlyNotices : Prop :=
  (∀ s : State, s.port.turns = [] → s.port.noticeQueue.length ≤ 8 → ∃ n,
    let t := retryNotices s
    let entry := fun i : Nat => noticeAddr (s.port.noticeCursor + Fin.ofNat 128 i)
    n ≤ s.port.noticeQueue.length ∧
    t = { s with
      mem := t.mem
      port := { s.port with
        sum := if n = 0 then s.port.sum else s.port.sum ||| 8,
        noticeCursor := s.port.noticeCursor + Fin.ofNat 128 n,
        noticeSerial := s.port.noticeSerial + BitVec.ofNat 16 n, noticeQueue := s.port.noticeQueue.drop n } } ∧
    (t.port.noticeQueue = [] ∨ readByte t (noticeAddr t.port.noticeCursor) &&& 0x0F ≠ 1) ∧
    (∀ i, i < n → readByte s (entry i) &&& 0x0F = 1) ∧
    (∀ j, (∀ i, i < n → ¬ Within (entry i) 16 j) → readByte t j = readByte s j) ∧
    ∀ i h, i < n → s.port.noticeQueue[i]? = some h →
      let a := entry i
      readByte t a = BitVec.ofNat 8 (16 * h.notice.lane + 2) ∧
      readByte t (a + 1) = BitVec.ofNat 8 (16 * h.notice.kind.code + h.notice.subcode) ∧
      readByte t (a + 2) = h.notice.racer ∧ readByte t (a + 3) = h.notice.label ∧
      readField t (a + 4) 5 = h.notice.stamp.toNat ∧ readField t (a + 9) 2 = h.notice.a % 65536 ∧
      readField t (a + 11) 2 = h.notice.b % 65536 ∧
      readField t (a + 13) 2 = (s.port.noticeSerial + BitVec.ofNat 16 (i + 1)).toNat ∧
      readField t (a + 15) 1 = h.lost % 256) ∧
  ∀ (n : Notice) (s : State), s.port.turns = [] →
    ∀ t, t = deliver n s ∨ t = retryNotices s →
      t = { s with
        mem := t.mem
        port := { s.port with
          sum := t.port.sum, flt := t.port.flt, noticeCursor := t.port.noticeCursor,
          noticeQueue := t.port.noticeQueue, noticeLost := t.port.noticeLost,
          noticeSerial := t.port.noticeSerial } } ∧
      ∀ j, ¬ Within 0xE00 0x800 j → readByte t j = readByte s j

/-! ### The timebase -/

/-- The source in force fills the prescaler: 100 units of the oscillator in FALLBACK and WARMUP, 100 edges of REFCLK in
LOCKED, what it already holds included; fewer only count. The tick that then comes advances the stamp by one, the service
prescaler and the chop counter; it marks a wrap, a service tick with 8 slips to take, and a chop period, whose lanes it
catches; it counts racing time, moves the glitch filters and the debounces of the inputs, and leaves all the rest, the
reference state, its stamps and the warm-up count included (R24, R29, R33, R35, R38 to R40, R49, R51, R164, R165). How
TICK spells the sources' events is log 6. The last part is for a tick with nothing due before it: what is due and not
commanded comes about first (log 8). -/
def Obligations.TickAdvancesStampAndSamples : Prop :=
  ∀ (s : State) (p : Sample) (m : Nat) (clock : List ClockEvent) (quiet : Fin 20), s.phase ≠ .inReset →
    let n := s.time.prescaler.val
    (n + m < 100 →
      (s.time.refState = .fallback → exec (.tick ⟨p, List.replicate m .unit⟩) s =
        .next { s with time := { s.time with prescaler := Fin.ofNat 100 (n + m) } }) ∧
      (s.time.refState = .locked → 0 < m → exec (.tick ⟨p, List.replicate m .edge⟩) s =
        .next { s with time := { s.time with prescaler := Fin.ofNat 100 (n + m), quiet := 0 } })) ∧
    ((s.time.refState = .fallback ∧ clock = List.replicate (100 - n) .unit ∧ quiet = s.time.quiet) ∨
      (s.time.refState = .locked ∧ clock = List.replicate (100 - n) .edge ∧ quiet = 0) ∨
      (s.time.refState = .warmup ∧ clock = [.unit] ∧ n = 99 ∧ s.time.quiet.val < 19 ∧ quiet = s.time.quiet + 1) →
      let full := { s with time := { s.time with prescaler := 0, quiet := quiet } }
      ∃ t, exec (.tick ⟨p, clock⟩) s = .next t ∧ now t = now s + 1 ∧
        t.time.wrapDue = decide (s.time.tickCount = 0xFFFFFFFF) ∧
        t.time.servicePrescaler = (if 99 ≤ s.time.servicePrescaler then 0 else s.time.servicePrescaler + 1) ∧
        t.time.serviceDue = decide (99 ≤ s.time.servicePrescaler) ∧
        t.time.scanLeft = (if 99 ≤ s.time.servicePrescaler then 8 else 0) ∧
        t.time.refState = s.time.refState ∧ t.time.prescaler = 0 ∧ t.time.warmupCount = s.time.warmupCount ∧
        t.time.lockStamp = s.time.lockStamp ∧ t.time.unlockStamp = s.time.unlockStamp ∧
        t.power.chopCounter = s.power.chopCounter + 1 ∧ t.power.chopDue = decide (s.power.chopCounter = 49) ∧
        t.pins = p ∧
        (catchUp full = full → s.port.turns = [] →
          t = { full with
            pins := p
            time := { full.time with
              tickCount := s.time.tickCount + 1
              epoch := if s.time.tickCount = 0xFFFFFFFF then s.time.epoch + 1 else s.time.epoch
              wrapDue := t.time.wrapDue, servicePrescaler := t.time.servicePrescaler
              serviceDue := t.time.serviceDue, scanLeft := t.time.scanLeft
              racingTicks := s.time.racingTicks + (if s.race.state.racing then 1 else 0)
              raced := s.race.state.racing, idleNow := false }
            power := { s.power with
              chopCounter := t.power.chopCounter, chopDue := t.power.chopDue, lanes := t.power.lanes }
            gates := { s.gates with
              inputs := t.gates.inputs, driver := t.gates.driver, marshal := t.gates.marshal,
              director := t.gates.director, draw := t.gates.draw } } ∧
          (∀ k, let l := s.powerLane k
            t.powerLane k = if s.power.chopCounter = 49 then
              { l with nextPin := if l.cond then some l.duty else none } else l) ∧
          (∀ n, (s.input n).mapping = none → t.input n = s.input n) ∧
          (∀ n m, (s.input n).mapping = some m →
            let r := s.input n
            let active := p.gi.getLsbD n.val = m.activeHigh
            (r.phase = .quiet → t.input n = if active then
                { r with phase := .arming, count := 1, onset := some (now t) } else r) ∧
            (r.phase = .arming → t.input n = if active then { r with count := min 3 (r.count + 1) }
              else { r with phase := .quiet, count := 0, onset := none }) ∧
            (r.phase = .broken → t.input n = if active then r
              else { r with phase := .clearing, count := 1, release := some (now t) }) ∧
            (r.phase = .clearing → t.input n = if active then
                { r with phase := .broken, count := 0, release := none }
              else { r with count := min 3 (r.count + 1) })) ∧
          (∀ k, let d := pick s.gates.driver k
            pick t.gates.driver k =
              { d with run := if (!p.dc.getLsbD k.val) = d.level then 0 else min 2001 (d.run + 1) }) ∧
          (∀ n, let d := pick s.gates.marshal n
            pick t.gates.marshal n =
              { d with run := if (!p.mp.getLsbD n.val) = d.level then 0 else min 2001 (d.run + 1) }) ∧
          (let d := s.gates.director;
            t.gates.director = { d with run := if (!p.dr) = d.level then 0 else min 2001 (d.run + 1) }) ∧
          (∀ k, let d := pick s.gates.draw k
            pick t.gates.draw k = { d with run := if p.dw.getLsbD k.val = d.level then 0 else min 201 (d.run + 1) })))

/-- Intervals are taken modulo 2^40, and "later", "at or after" and "the later of" are judged by them (R31). At a wrap
the tick count is 0, the epoch is one on, and the EPOCH notice carries the new epoch and the wrap's stamp; nothing else
comes of the wrap (R29, R30). TICK_COUNT_WRAP stands for the tick that wraps, or for the notice of one that has (log 12),
and has no effect at another tick (log 7). -/
def Obligations.StampOrderAndEpochWrap : Prop :=
  (∀ a b : Stamp,
    interval a b = (b.toNat + 2 ^ 40 - a.toNat) % 2 ^ 40 ∧
    (isLater a b = true ↔ 0 < interval a b ∧ interval a b < 2 ^ 39) ∧
    (atOrAfter a b = true ↔ isLater a b = true ∨ a = b) ∧
    (isLater a b = true → laterOf a b = b ∧ laterOf b a = b) ∧ laterOf a a = a) ∧
  ∀ (s : State) (p q : Sample) (clock other : List ClockEvent), s.phase ≠ .inReset → s.time.wrapDue = false →
    (s.time.tickCount ≠ 0xFFFFFFFF → exec (.tickCountWrap ⟨p, clock⟩) s = .next s) ∧
    (s.time.tickCount = 0xFFFFFFFF →
      (s.time.refState = .fallback ∧ clock = List.replicate (100 - s.time.prescaler.val) .unit) ∨
        (s.time.refState = .locked ∧ clock = List.replicate (100 - s.time.prescaler.val) .edge) →
      ∃ u, exec (.tick ⟨p, clock⟩) s = .next u ∧ u.time.tickCount = 0 ∧ u.time.epoch = s.time.epoch + 1 ∧
        ∀ t, t = deliver (plainNotice .clock 3 (currentLabel u) (now u) u.time.epoch.toNat 0)
            { u with time := { u.time with wrapDue := false } } →
          exec (.tickCountWrap ⟨p, clock⟩) s = .next t ∧ exec (.tickCountWrap ⟨q, other⟩) u = .next t)

/-- What the two sources do to the reference (R24 to R27): in each reference state, what one unit of the oscillator and one
edge of REFCLK do; the loss after 2 µs without an edge, with the prescaler's credit, the tick that the credit may fill,
FLT.REF_LOST and the CLOCK notice; the edge that starts a warm-up; and the edge that locks, with its notice. That events
come as operands, and that the credit fills the prescaler before the stamp of the loss is taken, is log 6; that a loss in
WARMUP gives no credit, since the oscillator has fed the prescaler all along, is log 20; that a command whose event has
not come about does nothing is log 7; and that a warm-up entered by a reset counts its first edge is log 35. -/
def Obligations.ReferenceFollowsItsSources : Prop :=
  ∀ (s : State) (p : Sample), s.phase ≠ .inReset →
    let n := s.time.prescaler.val
    let q := s.time.quiet.val
    let lost := fun u : State => deliver (plainNotice .clock 1 (currentLabel u) (now u) 0 0) { u with
      time := { u.time with refState := .fallback, unlockStamp := some (now u), quiet := 0 }
      port := { u.port with flt := u.port.flt ||| 1 } }
    (s.time.refState = .locked →
      (n < 99 → exec (.tick ⟨p, [.edge]⟩) s = .next { s with
        time := { s.time with prescaler := Fin.ofNat 100 (n + 1), quiet := 0 } }) ∧
      (q < 19 → exec (.tick ⟨p, [.unit]⟩) s = .next { s with time := { s.time with quiet := s.time.quiet + 1 } }) ∧
      (q = 19 → exec (.tick ⟨p, [.unit]⟩) s = exec (.refLost p) s) ∧
      (n + 20 < 100 → exec (.refLost p) s =
        .next (lost { s with time := { s.time with prescaler := Fin.ofNat 100 (n + 20), quiet := 19 } })) ∧
      (100 ≤ n + 20 →
        let u := nextTick p { s with time := { s.time with prescaler := Fin.ofNat 100 (n - 80), quiet := 19 } }
        now u = now s + 1 ∧ exec (.refLost p) s = .next (lost u))) ∧
    (s.time.refState = .warmup →
      (s.time.warmupCount < 65535 →
        let t := { s with time := { s.time with warmupCount := s.time.warmupCount + 1, quiet := 0 } }
        exec (.tick ⟨p, [.edge]⟩) s = .next t ∧
        ∀ rest, exec (.refBack ⟨p, .edge :: rest⟩) s = exec (.refBack ⟨p, rest⟩) t) ∧
      (65535 ≤ s.time.warmupCount →
        let span := min 0xFFFFFFFF (interval (s.time.unlockStamp.getD 0) (now s) / 100)
        let t := deliver (plainNotice .clock 2 (currentLabel s) (now s) (span / 65536) (span % 65536)) { s with
          time := { s.time with refState := .locked, lockStamp := some (now s), warmupCount := 0, quiet := 0 } }
        exec (.tick ⟨p, [.edge]⟩) s = .next t ∧ ∀ rest, exec (.refBack ⟨p, .edge :: rest⟩) s = .next t) ∧
      (q < 19 → n < 99 → exec (.tick ⟨p, [.unit]⟩) s = .next { s with
        time := { s.time with prescaler := Fin.ofNat 100 (n + 1), quiet := s.time.quiet + 1 } }) ∧
      (q = 19 → exec (.tick ⟨p, [.unit]⟩) s = exec (.refLost p) s) ∧
      (n + (20 - q) < 100 → exec (.refLost p) s = .next { s with time := { s.time with
        refState := .fallback, warmupCount := 0, quiet := 0, prescaler := Fin.ofNat 100 (n + (20 - q)) } })) ∧
    (s.time.refState = .fallback →
      let started := { s with time := { s.time with refState := .warmup, warmupCount := 0, quiet := 0 } }
      exec (.tick ⟨p, [.edge]⟩) s = .next started ∧ exec .warmupStart s = .next started ∧
      (n < 99 → exec (.tick ⟨p, [.unit]⟩) s = .next { s with
        time := { s.time with prescaler := Fin.ofNat 100 (n + 1) } }) ∧
      exec (.refLost p) s = .next s) ∧
    (s.time.refState ≠ .fallback → exec .warmupStart s = .next s) ∧
    (s.time.refState ≠ .warmup → ∀ clock, exec (.refBack ⟨p, clock⟩) s = .next s) ∧
    exec (.refBack ⟨p, []⟩) s = .next s

/-! ### The gate front end -/

/-- A qualified break is a crossing or a fold by its onset against the hold-off end: a crossing opens a hold-off window
and joins the queue, or is dropped with GATE_OVERRUN when 64 wait; a fold is counted at once on its lane (R39, R41, R42,
R45, R74). A release returns the input to QUIET and reports GATE_CLEAR with the held seconds of a stuck break; a break
held for 5 s makes its input stuck and reports GATE_STUCK (R40, R43, R44). The sample count of 0 in BROKEN and QUIET and
the absent release stamp are log 34; that an onset exactly 2^39 ticks from the hold-off end is folded is log 31; and that
a break whose release is due at the tick the stuck timer ends still counts as held is log 40. -/
def Obligations.GateBreaksReleasesAndStuckGates : Prop :=
  (∀ (s : State) (n : GateIn) (m : GateMapping) (a : Stamp),
    let r := s.input n
    r.mapping = some m → r.phase = .arming → r.count = 3 → r.onset = some a →
    ((∀ h, r.holdOffEnd = some h → atOrAfter h a = true) →
      let inputs := put s.gates.inputs n { r with
        phase := .broken, count := 0,
        holdOffEnd := some (a + BitVec.ofNat 40 (100 * s.gates.holdOff.getD 0)) }
      (s.gates.queue.length < 64 → exec (.qualifiedBreak n) s = .next { s with gates := { s.gates with
        inputs := inputs, queue := s.gates.queue ++ [{ stamp := a, lane := m.lane, gate := m.gate }] } }) ∧
      (64 ≤ s.gates.queue.length → exec (.qualifiedBreak n) s = .next { s with
        gates := { s.gates with inputs := inputs }
        port := { s.port with flt := s.port.flt ||| 2 } })) ∧
    (∀ h, r.holdOffEnd = some h → atOrAfter h a = false →
      let l := s.lap m.lane
      exec (.qualifiedBreak n) s = .next { s with
        gates := { s.gates with inputs := put s.gates.inputs n { r with phase := .broken, count := 0 } }
        laps := { s.laps with lanes := put s.laps.lanes m.lane (if l.state = .vacant then l else discardCounted l) } })) ∧
  ∀ (s : State) (n : GateIn) (m : GateMapping),
    let r := s.input n
    r.mapping = some m →
    (r.phase = .clearing → r.count = 3 →
      let u := { s with gates := { s.gates with inputs := put s.gates.inputs n { r with
        phase := .quiet, count := 0, onset := none, release := none, stuck := false } } }
      (r.stuck = false → exec (.breakReleased n) s = .next u) ∧
      ∀ a b, r.stuck = true → r.onset = some a → r.release = some b →
        exec (.breakReleased n) s = .next (deliver (laneNotice .anomaly 5 m.lane (currentRacer s m.lane)
          (currentLabel s) b n.val (min (interval a b / 100000) 65535)) u)) ∧
    (∀ a, r.phase = .broken ∨ r.phase = .clearing → r.stuck = false → r.onset = some a →
      (500000 ≤ interval a (now s) → exec (.gateStuck n) s = .next (deliver (laneNotice .anomaly 4 m.lane
        (currentRacer s m.lane) (currentLabel s) (a + 500000) n.val m.gate.val)
        { s with gates := { s.gates with inputs := put s.gates.inputs n { r with stuck := true } } })) ∧
      (interval a (now s) < 500000 → exec (.gateStuck n) s = .next s))

/-- A button's release changes its level and nothing else; a draw input's rise and fall change its level, and begin and
abandon a draw run while the draw watch is on; a run that ends raises JUMP once for its lane in a countdown, and a fall
abandons only a run that has not ended by then (R49 to R52, R128, R139). -/
def Obligations.ReleasesDrawLevelsAndRuns : Prop :=
  ∀ (s : State) (k : Lane) (post : Post),
    (pick s.gates.driver k = { level := true, run := 2001 } → exec (.buttonRelease (.driver k)) s =
      .next { s with gates := { s.gates with driver := put s.gates.driver k { level := false, run := 0 } } }) ∧
    (pick s.gates.marshal post = { level := true, run := 2001 } → exec (.buttonRelease (.marshal post)) s =
      .next { s with gates := { s.gates with marshal := put s.gates.marshal post { level := false, run := 0 } } }) ∧
    (s.gates.director = { level := true, run := 2001 } → exec (.buttonRelease .director) s =
      .next { s with gates := { s.gates with director := { level := false, run := 0 } } }) ∧
    (pick s.gates.draw k = { level := false, run := 201 } →
      let u := { s with gates := { s.gates with draw := put s.gates.draw k { level := true, run := 0 } } }
      (∀ h, s.race.state = .countdown → s.race.snapshot = some h → h.liveGrid = true → pick h.racers k ≠ 0 →
        pick s.race.drawRuns k = .idle → exec (.drawRise k) s =
          .next { u with race := { s.race with drawRuns := put s.race.drawRuns k (.timing (now s)) } }) ∧
      (s.race.state ≠ .countdown ∨ pick s.race.drawRuns k ≠ .idle → exec (.drawRise k) s = .next u)) ∧
    (pick s.gates.draw k = { level := true, run := 201 } →
      let fallen := fun v : State => { v with
        gates := { v.gates with draw := put v.gates.draw k { level := false, run := 0 } }
        race := { v.race with
          drawRuns := put v.race.drawRuns k (if pick v.race.drawRuns k = .spent then .spent else .idle) } }
      ((∀ b, pick s.race.drawRuns k = .timing b → interval b (now s) < 100 * (raceTimes s).jumpDraw) →
        exec (.drawFall k) s = .next (fallen s)) ∧
      ∃ v, exec (.drawRunEnd k) s = .next v ∧ exec (.drawFall k) s = .next (fallen v)) ∧
    (∀ h b, s.race.state = .countdown → s.race.snapshot = some h → h.liveGrid = true → pick h.racers k ≠ 0 →
      pick s.race.drawRuns k = .timing b →
      let runs := put s.race.drawRuns k .spent
      (interval b (now s) < 100 * (raceTimes s).jumpDraw → exec (.drawRunEnd k) s = .next s) ∧
      (100 * (raceTimes s).jumpDraw ≤ interval b (now s) →
        (pick s.race.jumpMarks k = true →
          exec (.drawRunEnd k) s = .next { s with race := { s.race with drawRuns := runs } }) ∧
        (pick s.race.jumpMarks k = false → exec (.drawRunEnd k) s =
          .next (trigger trigJump k (b + BitVec.ofNat 40 (100 * (raceTimes s).jumpDraw)) { s with
            race := { s.race with drawRuns := runs, jumpMarks := put s.race.jumpMarks k true } }))))

/-! ### Presses -/

/-- A press of a driver's or a marshal's button makes its level active and is taken as a call by the race's state at the
stamp of the change; without a press due nothing happens (R49, R50, R129 to R135; the last clause is log 7). That a call
meets a run-out that has expired as it meets IDLE is log 32, a call at the very tick of a HALT's end log 14 (R35, R152), the
number a discarded hold leaves in the hold register is log 39, and the duty a lane turned off
keeps is log 43. -/
def Obligations.DriverAndMarshalPressesCall : Prop :=
  ∀ (s : State) (k : Lane) (post : Post),
    (pick s.gates.driver k = { level := false, run := 2001 } → ∃ t, exec (.driverCallPress k) s = .next t ∧
      CallTaken { source := .driver, lane := some k, post := 0 }
        { s with gates := { s.gates with driver := put s.gates.driver k { level := true, run := 0 } } } t) ∧
    (pick s.gates.marshal post = { level := false, run := 2001 } → ∃ t, exec (.marshalPostPress post) s = .next t ∧
      CallTaken { source := .marshal, lane := none, post := post.val + 1 }
        { s with gates := { s.gates with marshal := put s.gates.marshal post { level := true, run := 0 } } } t) ∧
    ((pick s.gates.driver k).run < 2001 → exec (.driverCallPress k) s = .next s)

/-- A press of the director's button begins the countdown of a HELD heat in STAGED, begins the resume in CALLED, and is
ignored in every other state but for its level (R50, R109, R124, R137, R139). That a lane that is off keeps its last duty
is log 43. -/
def Obligations.DirectorPressStartsOrResumes : Prop :=
  ∀ s : State, RaceSound s → PowerSound s → s.gates.director = { level := false, run := 2001 } →
    let u := { s with gates := { s.gates with director := { level := true, run := 0 } } }
    (∀ h, s.race.state = .staged → s.race.snapshot = some h → h.startHeld = true →
      ∃ t, exec .directorResumePress s = .next t ∧ CountdownEntered (now s) u t) ∧
    (s.race.state = .called → ∃ t, exec .directorResumePress s = .next t ∧ ResumeBegun (now s) u t) ∧
    (∀ h, s.race.state = .staged → s.race.snapshot = some h → h.startHeld = false →
      exec .directorResumePress s = .next u) ∧
    (s.race.state ≠ .staged → s.race.state ≠ .called → exec .directorResumePress s = .next u)

/-! ### Lap assembly -/

/-- The ladder: GHOST first, then IN ORDER, REPEAT, and for a skip over k gates, 1 to n - 2 of them, FAULT where the line is
among them, else CUT under the call marker, MISS for one gate with tolerance 1, and FAULT (R62 to R65). -/
def Obligations.LadderDecidesBySkippedGates : Prop :=
  ∀ (n tol minLap : Nat) (c : Crossing) (l : LapLane),
    1 ≤ n → n ≤ 4 → l.expected < n → c.gate.val < n → l.last = (l.expected + n - 1) % n →
    let g := c.gate.val
    let k := (g + n - l.expected) % n
    let ghost := g = 0 ∧ interval l.lapStart c.stamp < 100 * minLap
    let overLine := ∃ j, j < k ∧ (l.expected + j) % n = 0
    (ghost → ladder n tol minLap c l = .ghost) ∧
    (¬ ghost → g = l.expected → ladder n tol minLap c l = .inOrder) ∧
    (¬ ghost → g ≠ l.expected → g = l.last → ladder n tol minLap c l = .repeated) ∧
    (¬ ghost → g ≠ l.expected → g ≠ l.last →
      1 ≤ k ∧ k + 2 ≤ n ∧
      (overLine → ladder n tol minLap c l = .fault) ∧
      (¬ overLine → l.callMarker = true → ladder n tol minLap c l = .cut k) ∧
      (¬ overLine → l.callMarker = false → k = 1 → tol = 1 → ladder n tol minLap c l = .miss k) ∧
      (¬ overLine → l.callMarker = false → k ≠ 1 ∨ tol ≠ 1 → ladder n tol minLap c l = .fault))

/-- A sector gate crossed in order closes its sector and moves the lane on, and changes nothing else (R64, R70, R86, R89,
R95). On a lane that serves HALT the sector is marked as a halted one, and the crossing is checked for PUSH, before or
after its other effects (R70, R82, R155; the order is log 4). -/
def Obligations.InOrderSectorCrossingMovesLaneOn : Prop :=
  ∀ (s : State) (c : Crossing) (o : Orders),
    let l := s.lap c.lane
    let n := (s.geom c.lane).gateCount
    let g := c.gate.val
    let frozen := frozenAt s.laps.freezeStamp c.stamp l
    let time := split24 (interval l.lastCrossing c.stamp - frozen)
    let best := frozen = 0 ∧ ∀ b, l.bestSplits.slot g = some b → time < b
    let moved := fun w : State => { w with laps := { w.laps with lanes := put w.laps.lanes c.lane { l with
      last := g, expected := (g + 1) % n, lastCrossing := c.stamp, callMarker := false, stalled := false,
      stallRef := heatClock s, haltInSector := servingHalt s c.lane, splits := l.splits.store g (some time),
      bestSplits := if best then l.bestSplits.store g (some time) else l.bestSplits,
      lapFrozen := l.lapFrozen + frozen, sectorFrozen := 0 } } }
    s.laps.view.state.afterGreen = true → l.state = .lapping → g ≠ 0 → g = l.expected → g < n →
    CheckedAround o c.lane c.stamp s.laps.view moved s (takeCrossing o c s)

/-- A lap completed in a timed heat in GREEN by a line crossing in order, by one that ends a HUNT, or by a skip that lands on
the line, with nothing pending or serving on its lane, or with HALT served on it (which marks the sector and the next lap,
begins no other service, and has the crossing checked for PUSH before a CUT), no lap record held and an OPEN page at the
cursor: the sector closes,
the lap is counted, the running order re-sorted, the record written whole to the page, and the next lap begun at the line.
A skip marks the lap CUT or MISS and leaves the sectors it passed over absent, and a CUT then raises CUT and reports; a
HUNT's lap has every split absent and ends the hunt (R66, R67, R69 to R71, R82, R86, R89 to R96, R98, R99, R155). That the
CUT comes after the whole completion is log 30. -/
def Obligations.LapCompletionFillsAPage : Prop :=
  ∀ (s : State) (c : Crossing) (o : Orders) (h : HeatSnapshot) (v : Verdict),
    let k := c.lane
    let l := s.lap k
    let n := (s.geom k).gateCount
    let p := pageAddr k l.pageCursor
    let m := min l.bookLost 255
    let raw := interval l.lapStart c.stamp
    let frozen := frozenAt s.laps.freezeStamp c.stamp l
    let lapFrozen := l.lapFrozen + frozen
    let net := raw - lapFrozen
    let passed := fun j : Nat => dropSectors l.expected j l.splits
    let isCut : Bool := match v with | .cut _ => true | _ => false
    let isMiss : Bool := match v with | .miss _ => true | _ => false
    let cut := l.cutMark = true ∨ isCut = true
    let miss := l.missMark = true ∨ isMiss = true
    let best := ¬ cut ∧ l.unverified = false ∧ lapFrozen = 0 ∧ (l.bestLap = 0 ∨ net < l.bestLap)
    let sector := split24 (interval l.lastCrossing c.stamp - frozen)
    let bestSector := v = .inOrder ∧ 2 ≤ n ∧ frozen = 0 ∧ ∀ b, l.bestSplits.slot n = some b → sector < b
    s.laps.view.state = .green → s.race.state = .green → s.race.snapshot = some h → h.endMode = .time →
    1 ≤ n → c.gate = 0 → 100 * s.laps.minLap ≤ raw → raw ≤ 0xFFFFFFFF → v = classify s c →
    (v = .huntEnd ∧ l.state = .hunt) ∨ (l.state = .lapping ∧ (v = .inOrder ∨ (2 ≤ n ∧ ∃ j, v = .cut j ∨ v = .miss j))) →
    ((s.penLane k).serving = none ∧ (s.penLane k).queue = []) ∨ servingHalt s k = true →
    (∀ j, (s.lap j).bookQueue = []) → readByte s p = 1 → s.port.turns = [] →
    ∃ t checked : State, PushChecked k c.stamp s.laps.view t checked ∧
    (∀ j, v = .cut j → takeCrossing o c s =
      deliver (laneNotice .anomaly 1 k (pick s.laps.racers k) s.laps.label c.stamp j 0)
        (trigger trigCut k c.stamp checked)) ∧
    (isCut = false → takeCrossing o c s = checked) ∧
    t = { s with
      mem := t.mem
      port := { s.port with sum := s.port.sum ||| 4 }
      stand := t.stand
      laps := { s.laps with lanes := put s.laps.lanes k { l with
        state := .lapping, huntFlag := if l.state = .hunt then false else l.huntFlag,
        laps := min 65535 (l.laps + 1), lapStart := c.stamp, lastCrossing := c.stamp, lastLine := some c.stamp,
        last := 0, expected := 1 % n, callMarker := false, stalled := false, stallRef := heatClock s,
        haltInSector := servingHalt s k, cutMark := false, missMark := false, unverified := false, lapTally := 0,
        splits := Splits.absent, haltService := servingHalt s k, capService := false, sectorFrozen := 0,
        lapFrozen := 0,
        bestSplits := if bestSector then l.bestSplits.store n (some sector) else l.bestSplits,
        bestLap := if best then net else l.bestLap,
        pageCursor := l.pageCursor + 1, bookLost := l.bookLost - m } } } ∧
    t.stand = (resort { s with laps := { s.laps with lanes := put s.laps.lanes k { l with
      laps := min 65535 (l.laps + 1), lastLine := some c.stamp } } }).stand ∧
    readByte t p = 2 ∧ readField t (p + 2) 1 = laneNo k ∧ readByte t (p + 3) = pick s.laps.racers k ∧
    readByte t (p + 4) = s.laps.label ∧ readField t (p + 5) 1 = (t.standLane k).position % 256 ∧
    readField t (p + 6) 1 = m ∧ readField t (p + 7) 1 = min l.lapTally 255 ∧
    readField t (p + 8) 2 = min 65535 (l.laps + 1) ∧ readField t (p + 10) 4 = net ∧
    readField t (p + 14) 4 = min lapFrozen 0xFFFFFFFF ∧
    (∀ splits : Splits,
      (n < 2 → splits = l.splits) ∧ (2 ≤ n → v = .huntEnd → splits = Splits.absent) ∧
        (2 ≤ n → v = .inOrder → splits = l.splits.store n (some sector)) ∧
        (2 ≤ n → ∀ j, v = .cut j ∨ v = .miss j → splits = (passed j).store n (some sector)) →
      readField t (p + 18) 3 = splits.one.getD 0xFFFFFF % 2 ^ 24 ∧
      readField t (p + 21) 3 = splits.two.getD 0xFFFFFF % 2 ^ 24 ∧
      readField t (p + 24) 3 = splits.three.getD 0xFFFFFF % 2 ^ 24) ∧
    readField t (p + 27) 5 = c.stamp.toNat ∧
    ((readByte t (p + 1)).getLsbD 0 = true ↔ cut) ∧ ((readByte t (p + 1)).getLsbD 1 = true ↔ miss) ∧
    (readByte t (p + 1)).getLsbD 2 = l.unverified ∧ ((readByte t (p + 1)).getLsbD 3 = true ↔ best) ∧
    (readByte t (p + 1)).getLsbD 4 = l.capService ∧ (readByte t (p + 1)).getLsbD 5 = l.haltService ∧
    (readByte t (p + 1)).getLsbD 6 = degraded l.lapStart c.stamp s ∧
    ((readByte t (p + 1)).getLsbD 7 = true ↔ 0 < lapFrozen) ∧
    ∀ j, ¬ Within p 32 j → readByte t j = readByte s j

/-- Race control's answer to a lap completion (R112): in the run-out phase of the view every completion finishes its lane;
one at or above the lap limit in a GREEN phase finishes its lane and, by race control's own state, begins the run-out with
the crossing's stamp, begins it behind a call, or finds it begun; every other completion, and every one in IDLE, finishes
nothing. Where the answer is that it finishes, the lap engine, for a lap completed in order, at the end of a HUNT or by a
skip to the line, completes the lap and finishes the lane in the order of R71; a CUT is raised and reported after that
(R66, R77, R112, R114, R121; the heat clock at a stamp in the past is log 11, a deadline that has been reached log 13, that
the CUT comes last log 30, the duty a finished lane keeps log 43, a completion between an abort and its taking log 44, the
lap tally and lap marks a finished lane keeps log 45, and the run-out backup out of use log 46). -/
def Obligations.CompletionsReachTheLapLimitAndFinish : Prop :=
  (∀ (s : State) (k : Lane) (x : Stamp) (view : RaceView) (h : HeatSnapshot), s.race.snapshot = some h →
    let r := lapCompleted k x view s
    let runout := view.state = .runout ∨ ((view.state = .called ∨ view.state = .resuming) ∧ view.calledFrom = .runout)
    let limit := (view.state = .green ∨
        ((view.state = .called ∨ view.state = .resuming) ∧ view.calledFrom = .green)) ∧
      h.endMode ≠ .time ∧ h.lapLimit ≤ (s.lap k).laps - (s.penLane k).deducted
    let inCall := (s.race.state = .called ∨ s.race.state = .resuming) ∧ s.race.calledFrom = .green
    (s.race.state = .idle → r = (s, false)) ∧
    (s.race.state ≠ .idle → runout → r = (s, true)) ∧
    (s.race.state ≠ .idle → ¬ runout → ¬ limit → r = (s, false)) ∧
    (s.race.state ≠ .idle → limit → r.2 = true ∧
      (s.race.state = .green → RaceSound s → PowerSound s → RunoutEntered x 2 (some k) s r.1) ∧
      (inCall → ∃ u, u = { s with race := { s.race with
          calledFrom := .runout, timeLimitWatch := false, runoutDeadline := some (heatClock s + h.runoutLimit),
          runoutWait := true, runoutBackup := h.runoutLimit } } ∧
        r.1 = { deliver (runoutNoticeOf h x 2 (some k) s) u with
          laps := { s.laps with changes := s.laps.changes ++ [{ kind := .runout, stamp := x }] } }) ∧
      (s.race.state ≠ .green → ¬ inCall → r.1 = s))) ∧
  ∀ (s : State) (c : Crossing) (o : Orders) (how : Accepted),
    let k := c.lane
    let l := s.lap k
    let n := (s.geom k).gateCount
    let v := classify s c
    let isCut : Bool := match v with | .cut _ => true | _ => false
    let isMiss : Bool := match v with | .miss _ => true | _ => false
    c.gate = 0 → (v = .inOrder ∧ how = .inOrder) ∨ (v = .huntEnd ∧ how = .huntEnd) ∨
      (∃ j, (v = .cut j ∨ v = .miss j) ∧ how = .skip j) →
    let closed := accept n c (heatClock s) (servingHalt s k) (closeSector n 0 how s.laps.freezeStamp c.stamp l)
    let counted := { s with laps := { s.laps with lanes := put s.laps.lanes k { closed with
      state := .lapping, huntFlag := if v = .huntEnd then false else l.huntFlag, laps := min 65535 (l.laps + 1),
      cutMark := l.cutMark || isCut, missMark := l.missMark || isMiss } } }
    let r := lapCompleted k c.stamp s.laps.view counted
    r.2 = true → ∃ t, CompletionFinishes k c.stamp s.laps.view r.1 t ∧
      (∀ j, v = .cut j → takeCrossing o c s =
        deliver (laneNotice .anomaly 1 k (pick s.laps.racers k) s.laps.label c.stamp j 0) (trigger trigCut k c.stamp t)) ∧
      (isCut = false → takeCrossing o c s = t)

/-- What the other verdicts do. In the IDLE view nothing (R55); on a VACANT lane the
STRAY notice alone (R76); in the STAGED view, on a FINISHED lane, at a sector gate of a GRID or HUNT lane, and for a
GHOST or REPEAT, the crossing is counted and nothing else (R55, R59, R62, R64, R69, R74, R76); a JUMP is counted, and the
first of a lane in a countdown reaches race control, which charges it once, or as an earlier countdown's (R75, R127); the
first line crossing after GREEN starts a GRID lane's first lap (R59), and in the run-out finishes the lane (R77, R91); a
CUT that lands on a sector gate closes its sector, raises CUT and then reports, and a MISS closes its sector and no more
(R65 to R67, R86, R89); and a FAULT is counted and reported and sends the lane into HUNT with its lap UNVERIFIED (R68). On a
lane that serves HALT each of these is checked for PUSH as well, before or after its own effects, and a crossing that is
accepted marks the sector as a halted one (R70, R82, R154, R155; the order is log 4). A jump crossing exactly 2^39 ticks
from the countdown's entry is log 31, one with no countdown stamp held is not spoken of (log 18), the duty a finished
lane keeps is log 43, and a GRID lane's finish between an abort and its taking log 44. -/
def Obligations.OtherCrossingsByVerdict : Prop :=
  ∀ (s : State) (c : Crossing) (o : Orders),
    let k := c.lane
    let l := s.lap k
    let g := c.gate.val
    let n := (s.geom k).gateCount
    let v := s.laps.view
    let halted := servingHalt s k
    let onLane := fun (r : LapLane) (w : State) => { w with laps := { w.laps with lanes := put w.laps.lanes k r } }
    let counted := onLane (discardCounted l)
    let does := fun effect : State → State => CheckedAround o k c.stamp v effect s (takeCrossing o c s)
    let atLine := { l with
      last := 0, expected := 1 % n, lastCrossing := c.stamp, lastLine := some c.stamp, callMarker := false,
      stalled := false, stallRef := heatClock s, haltInSector := halted, sectorFrozen := 0, lapFrozen := 0 }
    (v.state = .idle → does id) ∧
    (v.state ≠ .idle → l.state = .vacant → does (deliver (laneNotice .anomaly 3 k 0 s.laps.label c.stamp g 0))) ∧
    (v.state = .staged → l.state ≠ .vacant → does counted) ∧
    (v.state = .countdown → l.state ≠ .vacant →
      let jumped := onLane { discardCounted l with jumpMark := true }
      (l.jumpMark = true ∨ s.race.state = .idle → does jumped) ∧
      ∀ e, l.jumpMark = false → s.race.state ≠ .idle → s.race.countdownStamp = some e →
        (isLater c.stamp e = true → does fun w => trigger trigJump k c.stamp (jumped w)) ∧
        (isLater c.stamp e = false → pick s.race.jumpMarks k = true → does jumped) ∧
        (isLater c.stamp e = false → pick s.race.jumpMarks k = false →
          does fun w => trigger trigJump k c.stamp { jumped w with
            race := { w.race with jumpMarks := put w.race.jumpMarks k true } })) ∧
    (v.state.afterGreen = true →
      (l.state = .finished ∨ (l.state = .grid ∧ (g ≠ 0 ∨ v.goneGreen = false)) ∨ (l.state = .hunt ∧ g ≠ 0) →
        does counted) ∧
      (l.state = .hunt → g = 0 → interval l.lapStart c.stamp < 100 * s.laps.minLap → does counted) ∧
      (l.state = .grid → v.goneGreen = true → g = 0 →
        ((s.penLane k).serving = none ∧ (s.penLane k).queue = []) ∨ halted = true →
        (v.state ≠ .runout → (v.state.frozen = true → v.calledFrom ≠ .runout) →
          PushChecked k c.stamp v (onLane { atLine with
            state := .lapping, lapStart := c.stamp, splits := Splits.absent, haltService := halted,
            capService := false } s) (takeCrossing o c s)) ∧
        (v.state = .runout ∨ (v.state.frozen = true ∧ v.calledFrom = .runout) →
          ∃ p, PushChecked k c.stamp v (onLane atLine s) p ∧ LaneFinished k c.stamp false p (takeCrossing o c s))) ∧
      (l.state = .lapping →
        let verdict := ladder n ((s.laps.setup.map LapSetup.missTolerance).getD 0) s.laps.minLap c l
        (verdict = .ghost ∨ verdict = .repeated → does counted) ∧
        (verdict = .fault → does fun w =>
          deliver (laneNotice .anomaly 2 k (pick s.laps.racers k) s.laps.label c.stamp l.expected g)
            (onLane { discardCounted l with state := .hunt, huntFlag := true, unverified := true } w)) ∧
        ∀ j, g ≠ 0 → 2 ≤ n →
          let frozen := frozenAt s.laps.freezeStamp c.stamp l
          let time := split24 (interval l.lastCrossing c.stamp - frozen)
          let skipped := { l with
            last := g, expected := (g + 1) % n, lastCrossing := c.stamp, callMarker := false, stalled := false,
            stallRef := heatClock s, haltInSector := halted,
            splits := (dropSectors l.expected j l.splits).store g (some time),
            lapFrozen := l.lapFrozen + frozen, sectorFrozen := 0 }
          (verdict = .cut j → does fun w =>
            deliver (laneNotice .anomaly 1 k (pick s.laps.racers k) s.laps.label c.stamp j g)
              (trigger trigCut k c.stamp (onLane { skipped with cutMark := true } w))) ∧
          (verdict = .miss j → does (onLane { skipped with missMark := true }))))

/-- A crossing inside a freeze divides the frozen ticks between the sector it closes and the next: with the close of the
freeze, the lap is charged with every frozen tick once, and no sector with more than its own interval (R84 to R86). A lap
record's net time is the raw interval less the frozen time, unless the raw interval passes 2^32 - 1 ticks, where it is
0xFFFFFFFF and the lap UNVERIFIED; CALLED says that time was frozen; and a lap is BEST when it qualifies and beats the
best lap (R32, R91, R92, R96). The interval of a lap is degraded, which the record's DEGRADED says, when there is no lock
stamp, when the lock stamp is at or after the lap's start, or when the reference is not LOCKED and was lost at or before the
lap's end (R28, R31, R92; a stamp exactly 2^39 ticks on is log 31). -/
def Obligations.FrozenTicksCountOnceInNetTime : Prop :=
  (∀ (e : LapEngine) (k : Lane) (c0 x c1 : Stamp) (n g : Nat) (how : Accepted),
    let l := pick e.lanes k
    let closed := closeSector n g how (some c0) x l
    let after := closeFreeze c1 { e with
      freezeStamp := some c0
      lanes := put e.lanes k { closed with lastCrossing := x } }
    l.freezeOpen = true →
    interval l.lastCrossing c0 + interval c0 x + interval x c1 < 2 ^ 39 →
    l.sectorFrozen ≤ interval l.lastCrossing c0 →
    frozenAt (some c0) x l ≤ interval l.lastCrossing x ∧
    closed.lapFrozen = l.lapFrozen + l.sectorFrozen + interval c0 x ∧ closed.sectorFrozen = 0 ∧
    (pick after.lanes k).lapFrozen + (pick after.lanes k).sectorFrozen =
      l.lapFrozen + l.sectorFrozen + interval c0 c1 ∧
    (pick after.lanes k).freezeOpen = false ∧ after.freezeStamp = none) ∧
  (∀ (s : State) (a b : Stamp), degraded a b s = true ↔
    s.time.lockStamp = none ∨ (∃ lock, s.time.lockStamp = some lock ∧ interval a lock < 2 ^ 39) ∨
      (s.time.refState ≠ .locked ∧ ∃ lost, s.time.unlockStamp = some lost ∧ interval lost b < 2 ^ 39)) ∧
  ∀ (k : Lane) (x : Stamp) (racer label : Byte) (position : Nat) (deg : Bool) (l : LapLane),
    let raw := interval l.lapStart x
    let r := buildRecord k x racer label position deg l
    l.lapFrozen ≤ raw →
    (raw ≤ 0xFFFFFFFF → r.frozen = l.lapFrozen ∧ r.net + r.frozen = raw ∧
      r.flags.getLsbD 2 = l.unverified) ∧
    (0xFFFFFFFF < raw → r.net = 0xFFFFFFFF ∧ r.frozen = min l.lapFrozen 0xFFFFFFFF ∧ r.flags.getLsbD 2 = true) ∧
    (r.flags.getLsbD 7 = true ↔ 0 < l.lapFrozen) ∧ r.flags.getLsbD 6 = deg ∧ r.flags.getLsbD 0 = l.cutMark ∧
    r.flags.getLsbD 1 = l.missMark ∧
    (r.isBest = true ↔ l.cutMark = false ∧ r.flags.getLsbD 2 = false ∧ l.lapFrozen = 0 ∧
      (l.bestLap = 0 ∨ r.net < l.bestLap))

/-- A lap record for which there is no OPEN page is held, or counted as lost with FLT.LAP_LOSS when 4 are held; a retry
writes held records oldest first while the page at the cursor is OPEN; and an arrival on one lane first retries what the
other lanes hold (R98, R99, R100). -/
def Obligations.LapRecordHeldLostOrRetried : Prop :=
  ∀ (k : Lane) (r : LapRecord) (s : State),
    let l := s.lap k
    let p := pageAddr k l.pageCursor
    let m := min l.bookLost 255
    let stuck := fun j => (s.lap j).bookQueue = [] ∨ readByte s (pageAddr j (s.lap j).pageCursor) ≠ 1
    s.port.turns = [] →
    (readByte s p ≠ 1 → (∀ j, stuck j) →
      (l.bookQueue.length < 4 →
        arriveLap k r s = { s with laps := { s.laps with lanes := put s.laps.lanes k { l with
          bookQueue := l.bookQueue ++ [{ record := r, lost := m }], bookLost := l.bookLost - m } } }) ∧
      (4 ≤ l.bookQueue.length →
        arriveLap k r s = { s with
          laps := { s.laps with lanes := put s.laps.lanes k { l with bookLost := min 65535 (l.bookLost + 1) } }
          port := { s.port with flt := s.port.flt ||| 4 } })) ∧
    (∀ j h, j ≠ k → readByte s p ≠ 1 → l.bookQueue.length < 4 → (∀ i, i ≠ j → stuck i) →
      (s.lap j).bookQueue = [h] → readByte s (pageAddr j (s.lap j).pageCursor) = 1 →
      let u := retryBook j s
      (u.lap j).bookQueue = [] ∧
      arriveLap k r s = { u with laps := { u.laps with lanes := put u.laps.lanes k { l with
        bookQueue := l.bookQueue ++ [{ record := r, lost := m }], bookLost := l.bookLost - m } } }) ∧
    (∀ h rest, l.bookQueue = h :: rest → readByte s p = 1 →
      readByte s (pageAddr k (l.pageCursor + 1)) ≠ 1 ∨ rest = [] →
      let t := retryBook k s
      t = { s with
        mem := t.mem
        port := { s.port with sum := s.port.sum ||| 4 }
        laps := { s.laps with lanes := put s.laps.lanes k { l with
          pageCursor := l.pageCursor + 1, bookQueue := rest } } } ∧
      readByte t p = 2 ∧ readByte t (p + 1) = h.record.flags ∧ readField t (p + 6) 1 = h.lost % 256 ∧
      readField t (p + 8) 2 = h.record.lapNumber % 65536 ∧ readField t (p + 10) 4 = h.record.net % 2 ^ 32 ∧
      readField t (p + 18) 3 = h.record.splits.one.getD 0xFFFFFF % 2 ^ 24 ∧
      ∀ j, ¬ Within p 32 j → readByte t j = readByte s j)

/-- The lap engine takes a race change two ticks after its stamp: a call sets every call marker and opens the freeze, a
re-call leaves the freeze as it is, and a return to racing closes it (R54, R73, R84, R85). Which of two stamps exactly
2^39 apart is the later is log 31. -/
def Obligations.RaceChangesOpenAndCloseFreeze : Prop :=
  ∀ (s : State) (o : Orders) (x : Stamp) (rest : List Change) (kind : ChangeKind),
    s.laps.changes = { kind := kind, stamp := x } :: rest → s.gates.queue = [] →
    (atOrAfter (x + 2) (now s) = false → exec (.raceChangeTake o) s = .next s) ∧
    (atOrAfter (x + 2) (now s) = true → ∃ t, exec (.raceChangeTake o) s = .next t ∧
      (∀ from_, kind = .called from_ → s.laps.view.state ≠ .resuming →
        t = { s with laps := { s.laps with
          changes := rest, view := { s.laps.view with state := .called, calledFrom := from_ },
          freezeStamp := some x, lanes := t.laps.lanes } } ∧
        ∀ k, let l := s.lap k
          t.lap k = { l with
            callMarker := true
            freezeOpen := decide (l.state = .grid ∨ l.state = .lapping ∨ l.state = .hunt) }) ∧
      (∀ from_, kind = .called from_ → s.laps.view.state = .resuming →
        t = { s with laps := { s.laps with
          changes := rest, view := { s.laps.view with state := .called, calledFrom := from_ },
          lanes := t.laps.lanes } } ∧
        ∀ k, t.lap k = { s.lap k with callMarker := true }) ∧
      (kind = .resuming →
        t = { s with laps := { s.laps with
          changes := rest, view := { s.laps.view with state := .resuming } } }) ∧
      (∀ back c0, kind = .resumed back → s.laps.freezeStamp = some c0 →
        t = { s with laps := { s.laps with
          changes := rest, view := { s.laps.view with state := back, calledFrom := .none },
          freezeStamp := none, lanes := t.laps.lanes } } ∧
        ∀ k, let l := s.lap k
          t.lap k = { l with
            freezeOpen := false
            sectorFrozen := if l.freezeOpen then l.sectorFrozen + interval (laterOf c0 l.lastCrossing) x
              else l.sectorFrozen }))

/-- What the lap engine does when it takes a change that moves the race itself: staging sets every lane up for the heat
(R56, R97); a countdown clears the jump marks and a return from it keeps them (R57); GREEN starts the lanes of a grid ON
heat and every stall watch (R58, R93); the change to RUNOUT goes to the view, or to its called-from in a call (R77, R112);
and settle makes every lane VACANT (R60). That settle clears the view's gone-green mark is log 36, and which of two stamps
exactly 2^39 apart is the later is log 31. -/
def Obligations.RaceChangesMoveTheLanes : Prop :=
  ∀ (s : State) (o : Orders) (x : Stamp) (rest : List Change) (kind : ChangeKind),
    s.laps.changes = { kind := kind, stamp := x } :: rest → s.gates.queue = [] → atOrAfter (x + 2) (now s) = true →
    let v := s.laps.view
    ∃ t, exec (.raceChangeTake o) s = .next t ∧
      (∀ label gridOn minLap racers, kind = .staging label gridOn minLap racers →
        t = { s with laps := { s.laps with
          changes := rest, label := label, gridOn := gridOn, minLap := minLap, racers := racers,
          view := { state := .staged, calledFrom := .none, goneGreen := false }, freezeStamp := none,
          lanes := t.laps.lanes } } ∧
        ∀ k, let l := s.lap k
          t.lap k = { LapLane.reset with
            state := if pick racers k = 0 then .vacant else .grid
            lapStart := x, lastCrossing := x, pageCursor := l.pageCursor, bookQueue := l.bookQueue,
            bookLost := l.bookLost }) ∧
      (kind = .countdown →
        t = { s with laps := { s.laps with
          changes := rest, view := { v with state := .countdown }, lanes := t.laps.lanes } } ∧
        ∀ k, t.lap k = { s.lap k with jumpMark := false }) ∧
      (kind = .restaged →
        t = { s with laps := { s.laps with changes := rest, view := { v with state := .staged } } }) ∧
      (kind = .green →
        t = { s with laps := { s.laps with
          changes := rest, view := { v with state := .green, goneGreen := true }, lanes := t.laps.lanes } } ∧
        ∀ k, let l := s.lap k
          (l.state = .grid → s.laps.gridOn = true → t.lap k = { l with
            state := .lapping, lapStart := x, lastCrossing := x, last := 0,
            expected := if 2 ≤ (s.geom k).gateCount then 1 else 0, stallRef := 0,
            haltService := servingHalt s k, capService := servingCap s k }) ∧
          ((l.state = .grid ∧ s.laps.gridOn = false) ∨ l.state = .lapping → t.lap k = { l with stallRef := 0 }) ∧
          (l.state ≠ .grid → l.state ≠ .lapping → t.lap k = l)) ∧
      (kind = .runout →
        (v.state = .called ∨ v.state = .resuming →
          t = { s with laps := { s.laps with changes := rest, view := { v with calledFrom := .runout } } }) ∧
        (v.state ≠ .called → v.state ≠ .resuming →
          t = { s with laps := { s.laps with changes := rest, view := { v with state := .runout } } })) ∧
      (kind = .settle →
        t = { s with laps := { s.laps with
          changes := rest, view := { state := .idle, calledFrom := .none, goneGreen := false }, freezeStamp := none,
          lanes := t.laps.lanes } } ∧
        ∀ k, t.lap k = { s.lap k with state := .vacant, freezeOpen := false })

/-- A RETIRE cuts its lane and a cut at the run-out's expiry cuts every unfinished lane, one after the other, in an order
the manual leaves open (log 4); a lane that is FINISHED or VACANT is left alone (R78, R87, R178, R180). An ABORT HEAT
finishes every unfinished lane, with its services dropped and its penalties forgotten, and hands on no finish to standings
or race control; then every lane is VACANT and the view IDLE (R60, R79, R85, R157; the gone-green mark is log 36). Which of
two stamps exactly 2^39 apart is the later is log 31, the duty a finished lane keeps is log 43, and what the registers of a
dropped service hold log 46. -/
def Obligations.CutsRetiresAndAbortsFinishLanes : Prop :=
  ∀ (s : State) (o : Orders) (x : Stamp) (rest : List Change) (kind : ChangeKind),
    s.laps.changes = { kind := kind, stamp := x } :: rest → s.gates.queue = [] → atOrAfter (x + 2) (now s) = true →
    let taken := fun w : State => { w with laps := { w.laps with changes := w.laps.changes.tail } }
    ∃ t, exec (.raceChangeTake o) s = .next t ∧
      (∀ k, kind = .retire k →
        (Unfinished (s.lap k) → ∃ w, LaneCut true x k s w ∧ t = taken w) ∧ (¬ Unfinished (s.lap k) → t = taken s)) ∧
      (kind = .cutUnfinished → ∃ (order : List Lane) (f : Nat → State),
        order.Perm allLanes ∧ o.cuts.eraseDups <+: order ∧ f 0 = s ∧ t = taken (f 8) ∧
        ∀ i k, order[i]? = some k →
          (Unfinished ((f i).lap k) → LaneCut false x k (f i) (f (i + 1))) ∧
          (¬ Unfinished ((f i).lap k) → f (i + 1) = f i)) ∧
      (kind = .abort →
        t = { s with
          laps := { s.laps with
            changes := rest, view := { state := .idle, calledFrom := .none, goneGreen := false }, freezeStamp := none,
            lanes := t.laps.lanes }
          pen := { s.pen with lanes := t.pen.lanes }
          power := { s.power with lanes := t.power.lanes } } ∧
        ∀ k, let l := s.lap k
          (Unfinished l →
            t.lap k = { l with
              state := .vacant, huntFlag := false, freezeOpen := false,
              stallRef := if servingHalt s k then heatClock s else l.stallRef } ∧
            t.penLane k = { s.penLane k with finished := true, serving := none, queue := [] } ∧
            t.powerLane k = { s.powerLane k with
              finished := true, cond := false, rampStart := none, mode := .off, nextPin := none,
              serving := if (s.penLane k).serving = none then (s.powerLane k).serving else none }) ∧
          (¬ Unfinished l → t.lap k = { l with state := .vacant, freezeOpen := false } ∧
            t.penLane k = s.penLane k ∧ t.powerLane k = s.powerLane k))

/-- When a race change is taken, the crossings stamped before it, at the head of the queue, are handled one after the
other in the view in force before it, and the others wait in their order; then the change acts and leaves the list. For
ABORT HEAT every crossing stamped before it leaves the queue unhandled (R54, R79). -/
def Obligations.CrossingsBeforeAChangeComeFirst : Prop :=
  ∀ (s : State) (o : Orders) (x : Stamp) (rest : List Change) (kind : ChangeKind),
    s.laps.changes = { kind := kind, stamp := x } :: rest → atOrAfter (x + 2) (now s) = true →
    let earlier := s.gates.queue.takeWhile (fun c => isLater c.stamp x)
    let left := if kind = .abort then s.gates.queue.filter (fun c => !isLater c.stamp x)
      else s.gates.queue.dropWhile (fun c => isLater c.stamp x)
    let handled := earlier.foldl (fun v c =>
      takeCrossing o c { v with gates := { v.gates with queue := v.gates.queue.tail } }) s
    let u := if kind = .abort then { s with gates := { s.gates with queue := left } } else handled
    let w := applyChange o { kind := kind, stamp := x } u
    u.gates = { s.gates with queue := left } ∧ u.laps.view = s.laps.view ∧
    ∃ t, exec (.raceChangeTake o) s = .next t ∧ t.gates = { s.gates with queue := left } ∧
      t = { w with laps := { w.laps with changes := w.laps.changes.tail } }

/-! ### The service tick -/

/-- A service tick does each of its works once, one after the other, the chosen ones first: the slip scan, the retries of
the notices and of every lane's lap book, the examination of the card, the refresh of the status, and the crossing work,
which alone is done before SUM.STARTED (R11, R13, R19, R33, R46, R100, R103). With nothing waiting in any queue it refreshes
the nine status blocks and does nothing else, in whatever order (R10). The orders are log 4; that the reserved bytes of the
status blocks are left as they are is log 16, and that an entry is left unexamined at the tick of the return to IDLE is
log 33. -/
def Obligations.QuietServiceTickRefreshesStatus : Prop :=
  (∀ (s : State) (jobs : List ServiceJob) (o : Orders), s.time.serviceDue = true →
    ∃ (order : List ServiceJob) (f : Nat → State),
      order.Perm [.slipScan, .noticeRetry, .lapBookRetry, .statusRefresh, .heatExamine, .crossingTake] ∧
      jobs.eraseDups <+: order ∧ f 0 = s ∧
      exec (.serviceTick jobs o) s = .next { f 6 with
        time := { (f 6).time with serviceDue := false, scanLeft := 0 } } ∧
      ∀ i job, order[i]? = some job →
        let v := f i
        let w := f (i + 1)
        (job = .crossingTake → w = runJob o v .crossingTake) ∧
        (s.phase ≠ .running → job ≠ .crossingTake → w = v) ∧
        (s.phase = .running →
          (job = .slipScan → w = scanSlips v.time.scanLeft v) ∧ (job = .noticeRetry → w = retryNotices v) ∧
          (job = .lapBookRetry → w = allLanes.foldl (fun r k => retryBook k r) v) ∧
          (job = .heatExamine → w = examineCard v) ∧
          (job = .statusRefresh → v.port.turns = [] → w = { v with mem := w.mem } ∧ StatusRefreshed v w))) ∧
  ∀ (s : State) (jobs : List ServiceJob) (o : Orders),
    s.phase = .running → s.time.serviceDue = true → s.port.turns = [] →
    readByte s (slipAddr s.port.slipCursor) ≠ 1 → s.port.noticeQueue = [] → (∀ k, (s.lap k).bookQueue = []) →
    s.gates.queue = [] → s.laps.changes = [] →
    s.race.state ≠ .idle ∨ s.time.idleNow = true ∨ readByte s (entryAddr s.race.cardCursor) ≠ 1 →
    ∃ t, exec (.serviceTick jobs o) s = .next t ∧
      t = { s with mem := t.mem, time := { s.time with serviceDue := false, scanLeft := 0 } } ∧ StatusRefreshed s t

/-- The crossing work of a service tick: the changes that are due come first, then at most 8 crossings, oldest first, and
after each the changes it has made due; no change that is due is left, and a crossing is left only where 8 were taken.
Before SUM.STARTED it is all the service tick does (R11, R13, R19, R33, R46, R54, R100, R103). That a change handed with a
stamp in the past is taken after the crossing in hand, at once, is log 15. -/
def Obligations.CrossingWorkTakesChangesThenCrossings : Prop :=
  ∀ (s : State) (o : Orders),
    let t := runJob o s .crossingTake
    (∃ (n : Nat) (f : Nat → State), n ≤ 8 ∧ DueTaken o s (f 0) ∧ t = f n ∧ (n = 8 ∨ t.gates.queue = []) ∧
      ∀ i, i < n → ∃ c rest, (f i).gates.queue = c :: rest ∧
        DueTaken o (takeCrossing o c { f i with gates := { (f i).gates with queue := rest } }) (f (i + 1))) ∧
    ∀ jobs, s.time.serviceDue = true → s.phase ≠ .running → exec (.serviceTick jobs o) s =
      .next { t with time := { t.time with serviceDue := false, scanLeft := 0 } }

/-! ### Heats -/

/-- Race control reads the entry at the card cursor with the readings and clamps of R12 and R105, and the penalty table of a
heat that is staged is read and clamped by R12 and R143. A READY entry is refused by the first check of R104 that fails, with its reason, REFUSED and a notice, and nothing else
changes: no setup, a limit of 0, no racer, a racer named twice, a racer on a lane with no gate, or no room in the tally. An
entry that passes is staged, with a tally entry for each new racer, and an AUTO heat with a gap of 0 enters COUNTDOWN at
once (R104, R106 to R108, R142, R160, R172). That bytes 27 to 31 of a new tally entry are left as they were is log 16,
the duties kept while every lane is off log 43, and the run-out backup and the serve stamps kept log 46. At
the tick at which the race returned to IDLE no entry is examined (R118, R120; log 33). -/
def Obligations.ReadyEntryIsStagedOrRefused : Prop :=
  ∀ s : State, s.port.turns = [] → s.race.state = .idle →
    let a := entryAddr s.race.cardCursor
    let h := readEntry s s.race.cardCursor
    let t := examineCard s
    let refused := fun r : Nat => ∃ u, u = { s with mem := u.mem } ∧ readByte u a = 5 ∧ readField u (a + 7) 1 = r ∧
      (∀ j, j ≠ a → j ≠ a + 7 → readByte u j = readByte s j) ∧
      t = deliver (plainNotice .heat 2 (readByte s (a + 1)) (now s) s.race.cardCursor.val r) u
    let badLimit := (h.endMode ≠ .laps ∧ h.timeLimit = 0) ∨ (h.endMode ≠ .time ∧ h.lapLimit = 0)
    let twice := ∃ j k, j < k ∧ pick h.racers j ≠ 0 ∧ pick h.racers j = pick h.racers k
    let notFitted := ∃ k, pick h.racers k ≠ 0 ∧ (s.geom k).gateCount = 0
    let full := (tallyRoom s).length < (heatNewRacers s h).length
    HeatEntryRead s s.race.cardCursor h ∧ (∀ r, PenaltyRowRead s r (readRow s r)) ∧
    (s.time.idleNow = true ∨ readByte s a ≠ 1 → t = s) ∧
    (s.time.idleNow = false → readByte s a = 1 →
      (s.port.setupLoaded = false → refused 1) ∧
      (s.port.setupLoaded = true →
        (badLimit → refused 2) ∧
        (¬ badLimit → (∀ k, pick h.racers k = 0) → refused 6) ∧
        (¬ badLimit → twice → refused 3) ∧
        (¬ badLimit → ¬ twice → notFitted → refused 4) ∧
        (¬ badLimit → (∃ k, pick h.racers k ≠ 0) → ¬ twice → ¬ notFitted →
          (full → refused 5) ∧
          (¬ full → ∃ u, HeatStaged h s u ∧
            (h.startHeld = true ∨ 0 < h.gap → t = u) ∧
            (h.startHeld = false → h.gap = 0 → CountdownEntered (now s) u t)))))

/-- The finish of the last lane settles the heat at its stamp: the final order (RunningOrderAndPartialDistance says which),
with 0 after the last lane, and the settle stamp in the entry, ENDED,
the cursor on, and every block told that the race is IDLE; the heat clock holds the value it had at the settle stamp,
and the tick is marked as the one of the return to IDLE; an earlier finish only joins the finished set (R35, R36, R117,
R118, R157, R169). That the racing tick count is taken back to a settle stamp in the past is log 11; the mark, which keeps
this tick from examining the card, is log 33. Before that the heat is folded into the tally, lane 1 first; where the host
has rewritten the entry's state byte, that byte stays and the rest goes on (R9, R118, R182). What the hold register, the
finished set, the duties and the run-out backup hold in IDLE are logs 39, 42, 43 and 46. -/
def Obligations.LastFinishSettlesTheHeat : Prop :=
  ∀ (s : State) (k : Lane) (x : Stamp) (h : HeatSnapshot),
    s.port.turns = [] → s.race.state ≠ .idle → s.race.snapshot = some h → pick h.racers k ≠ 0 →
    pick s.race.finishedSet k = false →
    let a := entryAddr s.race.cardCursor
    let t := raceFinish k x s
    ((∃ j, j ≠ k ∧ pick h.racers j ≠ 0 ∧ pick s.race.finishedSet j = false) →
      t = { s with race := { s.race with finishedSet := put s.race.finishedSet k true } }) ∧
    ((∀ j, j ≠ k → pick h.racers j ≠ 0 → pick s.race.finishedSet j = true) →
      ∃ (f : Nat → State) (u : State),
        f 0 = { s with race := { s.race with finishedSet := put s.race.finishedSet k true } } ∧
        (∀ j : Lane, f (j.val + 1) = foldLane s.stand.label (f j.val) j) ∧
        u = { f 8 with mem := u.mem } ∧ readByte u a = (if readByte s a = 2 then 3 else readByte s a) ∧
        (∀ i, i < 8 → (readByte u (a + 36 + i)).toNat = (match (finalOrder s)[i]? with
          | some j => laneNo j
          | none => 0)) ∧ readField u (a + 44) 5 = x.toNat ∧
        (∀ j, j ≠ a → ¬ Within (a + 36) 13 j → readByte u j = readByte (f 8) j) ∧
        t = { deliver (plainNotice .heat 6 h.label x s.race.cardCursor.val
            (match finalOrder s with
              | j :: _ => laneNo j
              | [] => 0)) u with
          race := { s.race with
            state := .idle, calledFrom := .none, snapshot := none, cardCursor := s.race.cardCursor + 1,
            finishedSet := put s.race.finishedSet k true, runoutDeadline := none, runoutWait := false,
            timeLimitWatch := false, countdownStep := 0, drawRuns := Vector.replicate 8 .idle, resumeStart := none,
            lamps := 0, flashStart := none }
          laps := { s.laps with changes := s.laps.changes ++ [{ kind := .settle, stamp := x }] }
          time := { s.time with racingTicks := racingTicksAt x s, idleNow := true }
          pen := { s.pen with heatStaged := false }
          power := { s.power with state := .idle, liveGrid := false, lanes := t.power.lanes } } ∧
        ∀ j, t.powerLane j = { s.powerLane j with
            occupied := false, finished := false, cardCap := 0, serving := none, cond := false, rampStart := none,
            mode := .off, nextPin := none } ∧
          ∀ v, pinHigh t j v = false)

/-! ### Slips -/

/-- A SETUP slip is taken in IDLE only; a block that passes the checks of R16 is loaded whole, and one that fails them is
refused with the field number of the first that fails and leaves everything as it was (R14 to R17, R38, R47, R63; what
becomes of the lanes' gates is log 28). -/
def Obligations.SetupLoadsOnlyValidBlocks : Prop :=
  ∀ s : State, SlipWaits 1 s → ∃ t, exec .setup s = .next t ∧
    (s.race.state ≠ .idle → SlipFinished 2 0 s t) ∧
    (s.race.state = .idle →
      (SetupTrackValid s → readField s 130 1 ≤ 1 → readField s 133 1 ≤ 1 →
        ∃ u, SetupLoaded s u ∧ SlipFinished 0 0 u t) ∧
      (¬ SetupTrackValid s → ∃ f, SetupTrackFault s f ∧ 1 ≤ f ∧ f ≤ 40 ∧ SlipFinished 7 f s t) ∧
      (SetupTrackValid s → 1 < readField s 130 1 → SlipFinished 7 41 s t) ∧
      (SetupTrackValid s → readField s 130 1 ≤ 1 → 1 < readField s 133 1 → SlipFinished 7 42 s t))

/-- A scan of the slip list takes POSTED slips in ring order from the cursor, each as its own command does, no more than
it may, and stops at the first slip that is not POSTED; with no host access among them every slip it takes read POSTED and
is finished, DONE or REFUSED (R13, R14). -/
def Obligations.SlipScanStopsAtFirstNotPosted : Prop :=
  ∀ s : State, s.phase = .running → s.time.serviceDue = true →
    let t := scanSlips s.time.scanLeft s
    s.port.turns = [] →
    (readByte s (slipAddr s.port.slipCursor) ≠ 1 → t = s) ∧
    ∃ n, n ≤ s.time.scanLeft ∧ t = Nat.iterate (takeSlip fun _ => true) n s ∧
      t.port.slipCursor = s.port.slipCursor + Fin.ofNat 32 n ∧
      t.time.scanLeft = s.time.scanLeft - n ∧
      (n = s.time.scanLeft ∨ readByte t (slipAddr t.port.slipCursor) ≠ 1) ∧
      ∀ i, i < n →
        let a := slipAddr (s.port.slipCursor + Fin.ofNat 32 i)
        readByte s a = 1 ∧ (readByte t a = 2 ∨ readByte t a = 3)

/-- A START slip is refused with NO_SETUP while no setup is loaded (R15), and then outside STAGED and in an AUTO heat, and
starts the countdown of a HELD heat with the stamp of the service tick (R110). That a lane that is off keeps its last duty
is log 43. -/
def Obligations.StartSlipBeginsHeldHeat : Prop :=
  ∀ s : State, SlipWaits 2 s → RaceSound s → PowerSound s →
    let loaded := s.port.setupLoaded = true
    ∃ t, exec .start s = .next t ∧
      (¬ loaded → SlipFinished 5 0 s t) ∧
      (loaded → s.race.state ≠ .staged → SlipFinished 2 0 s t) ∧
      (∀ h, loaded → s.race.state = .staged → s.race.snapshot = some h → h.startHeld = false →
        SlipFinished 2 0 s t) ∧
      (∀ h, loaded → s.race.state = .staged → s.race.snapshot = some h → h.startHeld = true →
        ∃ u, CountdownEntered (now s) s u ∧ SlipFinished 0 0 u t)

/-- An END HEAT slip is refused with NO_SETUP while no setup is loaded (R15), and then outside GREEN, and in GREEN moves the
race to RUNOUT with the stamp of the service tick and cause END (R113). When a deadline already reached, as with a run-out
limit of 0, cuts the unfinished lanes is log 13. -/
def Obligations.EndHeatSlipMovesToRunout : Prop :=
  ∀ s : State, SlipWaits 5 s → RaceSound s → PowerSound s →
    ∃ t, exec .endHeat s = .next t ∧
      (s.port.setupLoaded = false → SlipFinished 5 0 s t) ∧
      (s.port.setupLoaded = true → s.race.state ≠ .green → SlipFinished 2 0 s t) ∧
      (s.port.setupLoaded = true → s.race.state = .green → ∃ u, RunoutEntered (now s) 3 none s u ∧ SlipFinished 0 0 u t)

/-- A CALL slip is refused in IDLE and STAGED, and in a RUNOUT that has expired, which a call meets as IDLE (R131;
log 32); in the other states it is a call of source RACE DESK with the stamp of the service tick, finished with OK, with
no setup check (R136). A RESUME slip is taken in CALLED only. An ABORT HEAT slip is refused without a setup and in IDLE;
else it returns the race to IDLE and voids the heat: waiting RETIREs and cuts are dropped, the abort is handed on, the
power is off, the entry is ABORTED and VOID if it read RUNNING, the notice is produced, and the cursor moves on (R79, R120,
R137, R169). A call at the very tick of a HALT's end is log 14 (R35, R152); what the hold register, the finished set, the
duties of lanes turned off and the run-out backup hold then are logs 39, 42, 43 and 46. -/
def Obligations.CallResumeAndAbortSlips : Prop :=
  (∀ s : State, SlipWaits 3 s → ∃ t, exec .call s = .next t ∧
    (s.race.state = .idle ∨ s.race.state = .staged ∨ (s.race.state = .runout ∧ s.race.runoutWait = false) →
      SlipFinished 2 0 s t) ∧
    (s.race.state ≠ .idle → s.race.state ≠ .staged → (s.race.state = .runout → s.race.runoutWait = true) →
      ∃ u, CallTaken { source := .raceDesk, lane := none, post := 0 } s u ∧ SlipFinished 0 0 u t)) ∧
  (∀ s : State, SlipWaits 4 s → RaceSound s → PowerSound s → ∃ t, exec .resume s = .next t ∧
    (s.race.state ≠ .called → SlipFinished 2 0 s t) ∧
    (s.race.state = .called → ∃ u, ResumeBegun (now s) s u ∧ SlipFinished 0 0 u t)) ∧
  (∀ s : State, SlipWaits 6 s → ∃ t, exec .abortHeat s = .next t ∧
    (s.port.setupLoaded = false → SlipFinished 5 0 s t) ∧
    (s.port.setupLoaded = true → s.race.state = .idle → SlipFinished 2 0 s t) ∧
    (s.port.setupLoaded = true → s.race.state ≠ .idle →
      let a := entryAddr s.race.cardCursor
      ∃ u v : State,
        u = { s with
          mem := u.mem
          race := { s.race with
            state := .idle, calledFrom := .none, timeLimitWatch := false, runoutDeadline := none,
            runoutWait := false, countdownStep := 0, drawRuns := Vector.replicate 8 .idle, resumeStart := none,
            lamps := 0, flashStart := none }
          laps := { s.laps with changes := u.laps.changes }
          pen := { s.pen with heatStaged := false }
          time := { s.time with idleNow := true }
          power := { s.power with state := .idle, liveGrid := false, lanes := u.power.lanes } } ∧
        u.laps.changes = s.laps.changes.filter (fun c => match c.kind with
          | .retire _ => false
          | .cutUnfinished => false
          | _ => true) ++ [{ kind := .abort, stamp := now s }] ∧
        (∀ k, u.powerLane k = { s.powerLane k with
          occupied := false, finished := false, cardCap := 0, serving := none, cond := false, rampStart := none,
          mode := .off, nextPin := none }) ∧
        readByte u (a + 7) = 8 ∧ readByte u a = (if readByte s a = 2 then 4 else readByte s a) ∧
        (∀ j, j ≠ a → j ≠ a + 7 → readByte u j = readByte s j) ∧
        v = { deliver (plainNotice .heat 7 (currentLabel s) (now s) s.race.cardCursor.val 8) u with
          race := { u.race with cardCursor := s.race.cardCursor + 1, snapshot := none } } ∧
        SlipFinished 0 0 v t))

/-- The checks of PENALISE and PARDON in their order; a PENALISE raises the manual trigger on its lane; a PARDON ends the
service that holds the serial, or takes the pending entry that does out of the queue, with a SERVED notice, and else is
refused with NOT_FOUND (R15, R158, R159). What the lane's duty and CAP duty hold out of use is log 43, what the registers of
an ended service hold log 46. -/
def Obligations.PenaliseAndPardonSlips : Prop :=
  ∀ (s : State) (t : State),
    let a := slipAddr s.port.slipCursor
    let arg := readField s (a + 7) 1
    (SlipWaits 7 s ∧ exec .penalise s = .next t ∨ SlipWaits 8 s ∧ exec .pardon s = .next t →
      (s.port.setupLoaded = false → SlipFinished 5 0 s t) ∧
      (s.port.setupLoaded = true → s.race.state = .idle → SlipFinished 2 0 s t) ∧
      (s.port.setupLoaded = true → s.race.state ≠ .idle →
        (∀ k, readField s (a + 4) 1 = laneNo k → currentRacer s k = 0) → SlipFinished 3 0 s t)) ∧
    (∀ k, s.port.setupLoaded = true → s.race.state ≠ .idle → readField s (a + 4) 1 = laneNo k →
      currentRacer s k ≠ 0 →
      let l := s.penLane k
      (SlipWaits 7 s → ∃ t, exec .penalise s = .next t ∧ (3 < arg → SlipFinished 4 0 s t) ∧
        (arg ≤ 3 → SlipFinished 0 0 (trigger (Fin.ofNat 8 (4 + arg)) k (now s) s) t)) ∧
      (SlipWaits 8 s → ∃ t, exec .pardon s = .next t ∧
        ∀ serial : Half, serial.toNat = readField s (a + 7) 2 →
          (∀ e, l.serving = some e → e.serial = serial →
            (∃ u, ServiceEnded k (now s) 2 (servingRemaining s k) s u ∧ SlipFinished 0 0 u t)) ∧
          ((∀ e, l.serving = some e → e.serial ≠ serial) →
            (∀ e q r, l.queue = q ++ e :: r → e.serial = serial → (∀ d ∈ q, d.serial ≠ serial) →
              SlipFinished 0 0 (deliver (laneNotice .served 2 k l.racer s.pen.label (now s) serial.toNat e.amount)
                { s with pen := { s.pen with lanes := put s.pen.lanes k { l with queue := q ++ r } } }) t) ∧
            ((∀ e ∈ l.queue, e.serial ≠ serial) → SlipFinished 6 0 s t))))

/-- The checks of ADJUST and RETIRE in their order; an ADJUST changes the lane's laps by the delta, clamped, and the
running order is re-sorted; a RETIRE marks its lane and hands the lap engine the cut of it (R15, R83, R179). -/
def Obligations.AdjustAndRetireSlips : Prop :=
  ∀ (s : State) (t : State),
    let a := slipAddr s.port.slipCursor
    (SlipWaits 9 s ∧ exec .adjust s = .next t ∨ SlipWaits 10 s ∧ exec .retire s = .next t →
      (s.port.setupLoaded = false → SlipFinished 5 0 s t) ∧
      (s.port.setupLoaded = true → s.race.state.afterGreen = false → SlipFinished 2 0 s t) ∧
      (s.port.setupLoaded = true → s.race.state.afterGreen = true →
        (∀ k, readField s (a + 4) 1 ≠ laneNo k) → SlipFinished 3 0 s t)) ∧
    (∀ k, s.port.setupLoaded = true → s.race.state.afterGreen = true → readField s (a + 4) 1 = laneNo k →
      let l := s.lap k
      let delta := (readByte s (a + 7)).toInt
      (SlipWaits 9 s → ∃ t, exec .adjust s = .next t ∧ (l.state = .vacant → SlipFinished 3 0 s t) ∧
        (l.state ≠ .vacant → delta < -5 ∨ 5 < delta → SlipFinished 4 0 s t) ∧
        (l.state ≠ .vacant → -5 ≤ delta → delta ≤ 5 →
          SlipFinished 0 0 (resort { s with laps := { s.laps with lanes := put s.laps.lanes k { l with
            laps := (min 65535 (max 0 ((l.laps : Int) + delta))).toNat } } }) t)) ∧
      (SlipWaits 10 s → ∃ t, exec .retire s = .next t ∧
        (currentRacer s k = 0 ∨ (s.standLane k).retireMark = true ∨ l.state = .finished → SlipFinished 3 0 s t) ∧
        (currentRacer s k ≠ 0 → (s.standLane k).retireMark = false → l.state ≠ .finished →
          SlipFinished 0 0 { s with
            stand := { s.stand with lanes := put s.stand.lanes k { s.standLane k with retireMark := true } }
            laps := { s.laps with changes := s.laps.changes ++ [{ kind := .retire k, stamp := now s }] } } t)))

/-- A CLEAR TALLY slip is refused outside IDLE and else frees the 64 tally entries, each as one update; a slip of a kind
outside 1 to 11 is refused with BAD_KIND (R10, R15, R183). That bytes 27 to 31 of an entry are left as they are is
log 16. -/
def Obligations.ClearTallyAndBadKindSlips : Prop :=
  (∀ s : State, SlipWaits 11 s → ∃ t, exec .clearTally s = .next t ∧
    (s.race.state ≠ .idle → SlipFinished 2 0 s t) ∧
    (s.race.state = .idle → ∃ u, u = { s with mem := u.mem } ∧ SlipFinished 0 0 u t ∧
      (∀ i, let a := tallyAddr i
        readByte u (a + 3) = readByte s (a + 3) + 2 ∧
        (∀ j, Within a 27 j → j ≠ a + 3 → readByte u j = 0) ∧
        ∀ j, Within (a + 27) 5 j → readByte u j = readByte s j) ∧
      ∀ j, ¬ Within 0x1600 0x800 j → readByte u j = readByte s j)) ∧
  (∀ (s : State) (kind : Nat), SlipWaits kind s → kind = 0 ∨ 11 < kind →
    ∃ t, exec .slipBadKind s = .next t ∧ SlipFinished 1 0 s t)

/-! ### Events in time -/

/-- The heat by the clock. The gap's end enters COUNTDOWN, each countdown step lights the next red lamp, and the end of the
hold enters GREEN, with the stamps at which those durations end, and nothing happens before (R34, R108, R124 to R126). The
heat clock reaching the time limit in GREEN moves the race to RUNOUT with cause TIME; its reaching the run-out deadline
hands the lap engine the cut of the unfinished lanes, once (R36, R111, R114, R116). The racing tick count from a stamp in
the past is log 11, a deadline already reached log 13, the hold register after the hold log 39, and the duty of a lane that
is off log 43. -/
def Obligations.HeatRunsByTheClock : Prop :=
  ∀ (s : State) (h : HeatSnapshot), s.race.snapshot = some h → RaceSound s → PowerSound s →
    (s.race.state = .staged → h.startHeld = false →
      (interval s.race.stagedStamp (now s) < 100 * h.gap → exec .gapEnd s = .next s) ∧
      (100 * h.gap ≤ interval s.race.stagedStamp (now s) → ∃ t, exec .gapEnd s = .next t ∧
        CountdownEntered (s.race.stagedStamp + BitVec.ofNat 40 (100 * h.gap)) s t)) ∧
    (∀ e, s.race.state = .countdown → s.race.countdownStamp = some e →
      let step := (raceTimes s).countdownStep
      let k := s.race.countdownStep + 1
      let lit := { s with race := { s.race with countdownStep := k, lamps := BitVec.ofNat 7 (2 ^ k - 1) } }
      let g := e + BitVec.ofNat 40 (100 * (5 * step + s.race.hold))
      (k ≤ 5 → interval e (now s) < 100 * (k * step) → exec .countdownStep s = .next s) ∧
      (k ≤ 5 → 100 * (k * step) ≤ interval e (now s) →
        (k < 5 ∨ 0 < s.race.hold → exec .countdownStep s = .next lit) ∧
        (k = 5 → s.race.hold = 0 → ∃ t, exec .countdownStep s = .next t ∧ GreenEntered g lit t)) ∧
      (s.race.countdownStep = 5 →
        (interval e (now s) < 100 * (5 * step + s.race.hold) → exec .greenEntry s = .next s) ∧
        (100 * (5 * step + s.race.hold) ≤ interval e (now s) → ∃ t, exec .greenEntry s = .next t ∧
          GreenEntered g s t))) ∧
    (s.race.state = .green → s.race.timeLimitWatch = true →
      (heatClock s < h.timeLimit → exec .timeLimit s = .next s) ∧
      (h.timeLimit ≤ heatClock s → ∃ t, exec .timeLimit s = .next t ∧ RunoutEntered (now s) 1 none s t)) ∧
    (∀ d, s.race.state = .runout → s.race.runoutDeadline = some d →
      (heatClock s < d ∨ s.race.runoutWait = false → exec .runoutExpiry s = .next s) ∧
      (d ≤ heatClock s → s.race.runoutWait = true → exec .runoutExpiry s = .next { s with
        race := { s.race with runoutWait := false }
        laps := { s.laps with changes := s.laps.changes ++ [{ kind := .cutUnfinished, stamp := now s }] } }))

/-- The end of the resume delay returns the race to the state the call interrupted, the lamps, the heat clock, the
freeze and the power with it; and a HALT ends when the heat clock reaches its end, racing only (R35, R115, R138, R140,
R152). The racing tick count from a stamp in the past is log 11, a HALT whose end the clock reached at the tick of a call
taken first log 14, the duty of a lane that is off log 43, and what the run-out backup and the HALT end hold out of use
log 46. -/
def Obligations.ResumeDoneAndHaltExpiry : Prop :=
  ∀ s : State, RaceSound s → PowerSound s →
    (∀ r back, s.race.state = .resuming → s.race.resumeStart = some r →
      (s.race.calledFrom = .green ∧ back = .green) ∨ (s.race.calledFrom = .runout ∧ back = .runout) →
      let c1 := r + BitVec.ofNat 40 (100 * (raceTimes s).resumeDelay)
      (interval r (now s) < 100 * (raceTimes s).resumeDelay → exec .resumeDone s = .next s) ∧
      (100 * (raceTimes s).resumeDelay ≤ interval r (now s) → ∃ t u, exec .resumeDone s = .next t ∧
        u = { s with
          race := { s.race with
            state := back, calledFrom := .none, resumeStart := none, flashStart := none,
            lamps := if back = .runout then 0x41 else 0x40,
            runoutDeadline := if back = .runout then
                some (heatClock s + s.race.runoutBackup)
              else s.race.runoutDeadline }
          laps := { s.laps with changes := s.laps.changes ++ [{ kind := .resumed back, stamp := c1 }] }
          time := { s.time with racingSince := c1 }
          power := u.power } ∧
        PowerRestored back c1 s u ∧
        t = deliver (plainNotice .resume 2 (currentLabel s) c1 s.race.callCount back.code) u)) ∧
    (∀ k e, (s.penLane k).serving = some e → e.kind = .halt →
      (s.race.state.racing = false ∨ heatClock s < (s.penLane k).haltEnd → exec (.haltExpiry k) s = .next s) ∧
      (s.race.state.racing = true → (s.penLane k).haltEnd ≤ heatClock s → ∃ t, exec (.haltExpiry k) s = .next t ∧
        ServiceEnded k (now s) 1 0 s t))

/-- A watched lane stalls when the heat clock reaches its stall reference plus the stall time: the flag, the notice, and
with auto-call the call; a lane already stalled, serving HALT, or outside GREEN does not (R36, R80, R81). A lane
whose heat clock came to the value at this very tick stalls even where a call has been taken first at the tick (log 14). Of the call: an expired run-out ignores it (log 32), the hold register keeps its number
(log 39), and a lane turned off its duty (log 43). -/
def Obligations.StallIsReportedOnce : Prop :=
  ∀ (s : State) (k : Lane) (u : LapSetup), s.laps.setup = some u →
    let l := s.lap k
    let stalled := deliver (laneNotice .stall 0 k (pick s.laps.racers k) s.laps.label (now s) l.last l.laps)
      { s with laps := { s.laps with lanes := put s.laps.lanes k { l with stalled := true } } }
    let watched := (s.race.state.racing = true ∨ s.time.raced = true) ∧ s.laps.view.state = .green ∧
      (l.state = .lapping ∨ l.state = .hunt ∨ (l.state = .grid ∧ s.laps.view.goneGreen = true)) ∧
      servingHalt s k = false ∧ l.stalled = false
    (¬ watched ∨ heatClock s < l.stallRef + u.stallTime → exec (.stall k) s = .next s) ∧
    (watched → l.stallRef + u.stallTime ≤ heatClock s →
      (u.autoCall = false → exec (.stall k) s = .next stalled) ∧
      (u.autoCall = true → ∃ t, exec (.stall k) s = .next t ∧
        CallTaken { source := .stall, lane := some k, post := 0 } stalled t))

/-- LA toggles at the end of each 250 ms of a call; a ramp's duty is its share of the target by the whole milliseconds
elapsed, and the target at its end; and from the start of a chop period each lane's pin is high for its duty's share of
the period's 5,000 units, by the duty that the tick of the start caught (R140, R164, R165, R166; what catches it is
log 8). -/
def Obligations.LampRampAndChopSteps : Prop :=
  ∀ (s : State) (k : Lane),
    (∀ f, s.race.state = .called → s.race.flashStart = some f →
      (interval f (now s) < 25000 → exec .lampFlash s = .next s) ∧
      (25000 ≤ interval f (now s) → exec .lampFlash s = .next { s with race := { s.race with
        lamps := s.race.lamps ^^^ 0x20, flashStart := some (f + 25000) } })) ∧
    (∀ r, let l := s.powerLane k
      let ramp := s.power.rampTime.getD 0
      let e := interval r (now s) / 100
      l.cond = true → l.rampStart = some r →
      (e < ramp → exec (.rampStep k) s = .next { s with power := { s.power with
        lanes := put s.power.lanes k { l with duty := targetDuty l * e / ramp } } }) ∧
      (ramp ≤ e → exec (.rampStep k) s = .next { s with power := { s.power with
        lanes := put s.power.lanes k { l with duty := targetDuty l, rampStart := none } } })) ∧
    (s.power.chopDue = true → ∃ t, exec .chopPeriodStart s = .next t ∧
      t = { s with power := { s.power with chopDue := false, lanes := t.power.lanes } } ∧
      ((s.powerLane k).nextPin = none → t.powerLane k = { s.powerLane k with mode := .off }) ∧
      (∀ d, (s.powerLane k).nextPin = some d → d ≤ 100 →
        t.powerLane k = { s.powerLane k with mode := (t.powerLane k).mode, pinDuty := d } ∧
        ∀ (c : Fin 50) (u : Fin 100),
          pinHigh { t with power := { t.power with chopCounter := c } } k u =
            decide (100 * c.val + u.val < 50 * d)))

/-! ### Penalties and standings -/

/-- A trigger draws its row's response. NONE does nothing; WARN raises its counter and issues WARN below the warn limit, and
at the limit returns the counter to 0 and draws the escalation response. A response is issued with the next serial and its
PENALTY notice, and then acts: LAPS deducts laps and re-sorts the running order, TIME adds penalty time, HALT and CAP join
the lane's queue or, on a finished lane or a full queue, convert. The next serial is the first, counting on from the last
and from 65535 to 1, that no pending or serving entry holds. With no heat staged or no racer a trigger is ignored (R144 to
R148). A re-sort before the lap engine has taken the staging is log 47. -/
def Obligations.TriggersDrawTheirRowsResponse : Prop :=
  ∀ (s : State) (t : Fin 8) (k : Lane) (x : Stamp) (rows : Vector PenaltyRow 8),
    let l := s.penLane k
    let row := pick rows t
    let n := pick l.warnings t + 1
    let serial := nextSerial s.pen
    let issued := fun (code detail : Nat) (m : PenLane) => deliver
      (laneNotice .penalty t.val k l.racer s.pen.label x serial.toNat (code * 256 + detail))
      { s with pen := { s.pen with serial := serial, lanes := put s.pen.lanes k m } }
    let onLane := fun (v : State) (m : PenLane) => { v with pen := { v.pen with lanes := put v.pen.lanes k m } }
    let responds := fun (r : Response) (amount duty : Nat) (m : PenLane) (u : State) =>
      let e := fun kind : ServiceKind => ({
        serial := serial, trigger := t, kind := kind, amount := amount
        duty := if kind = .cap then duty else 0
        callStamp := x } : PenEntry)
      let room := l.finished = false ∧ l.queue.length < 8
      (r = .time → u = onLane (issued 5 (amount / 1000) m) { m with
        timePenalty := min 0xFFFFFFFF (l.timePenalty + amount) }) ∧
      (r = .laps → ∃ v, v = onLane (issued 4 amount m) { m with deducted := min 65535 (l.deducted + amount) } ∧
        u = resort v) ∧
      (r = .halt → (room → u = onLane (issued 2 (amount / 1000) m) { m with queue := l.queue ++ [e .halt] }) ∧
        (¬ room → u = convert k (e .halt) x (issued 2 (amount / 1000) m))) ∧
      (r = .cap → (room → u = onLane (issued 3 amount m) { m with queue := l.queue ++ [e .cap] }) ∧
        (¬ room → u = convert k (e .cap) x (issued 3 amount m)))
    let held := fun w : Half => ∃ j e, ((s.penLane j).serving = some e ∨ e ∈ (s.penLane j).queue) ∧ e.serial = w
    let on := fun w : Half => if w = 0xFFFF then 1 else w + 1
    (s.pen.heatStaged = false ∨ l.racer = 0 → trigger t k x s = s) ∧
    (QueuesSound s → ¬ held serial ∧
      ∃ i, serial = Nat.iterate on (i + 1) s.pen.serial ∧ ∀ j, j < i → held (Nat.iterate on (j + 1) s.pen.serial)) ∧
    (s.pen.heatStaged = true → l.racer ≠ 0 → s.pen.table = some rows →
      (row.response = .none → trigger t k x s = s) ∧
      (row.response ≠ .none → row.response ≠ .warn →
        responds row.response row.amount row.duty l (trigger t k x s)) ∧
      (row.response = .warn →
        (n < row.warnLimit → trigger t k x s = issued 1 n { l with warnings := put l.warnings t n }) ∧
        (row.warnLimit ≤ n → responds row.escResponse row.escAmount row.escDuty
          { l with warnings := put l.warnings t 0 } (trigger t k x s))))

/-- What an accepted line crossing does at the penalty unit (R150). On a lane that serves nothing, and has not finished,
the first eligible HALT of the queue begins, else the first eligible CAP, else nothing; a finishing crossing begins
nothing; an entry is eligible when its call came before the crossing. A HALT ends at the heat clock plus its amount and
cuts the lane's power, a CAP sets its laps and its duty, and SERVE is noticed (R151, R168). A serving CAP counts lap
completions and ends at 0, and no other service begins there (R153). A crossing on a lane that serves HALT is checked for
PUSH: once in a service, not in a call, and beyond the coast grace after the serve stamp (R155). At a CAP the lane follows
the lesser of its card cap and the CAP duty, through a running ramp with the milliseconds elapsed kept (R163, R166, R168).
What the duty and the CAP duty hold out of use is log 43, what the registers of a service that is not in force hold
log 46. -/
def Obligations.ServiceAtTheLine : Prop :=
  ∀ (s : State) (k : Lane) (x : Stamp) (completion finishing : Bool) (view : RaceView),
    let l := s.penLane k
    let taken := penAcceptedLine k x completion finishing view s
    let eligible := fun (kind : ServiceKind) (d : PenEntry) => d.kind = kind ∧ isLater d.callStamp x = true
    let notice := fun (kind a b : Nat) => laneNotice .serve kind k l.racer s.pen.label x a b
    (l.serving = none → finishing = true ∨ (∀ d ∈ l.queue, isLater d.callStamp x = false) → taken = s) ∧
    (∀ e q r, l.serving = none → l.finished = false → s.pen.heatStaged = true → finishing = false →
      l.queue = q ++ e :: r →
      (eligible .halt e → (∀ d ∈ q, ¬ eligible .halt d) →
        taken = deliver (notice 2 e.serial.toNat e.amount) { s with
          pen := { s.pen with lanes := put s.pen.lanes k { l with
            queue := q ++ r, serving := some e, serveStamp := x, pushMark := false,
            haltEnd := heatClock s + e.amount } }
          laps := { s.laps with lanes := put s.laps.lanes k { s.lap k with
            haltInSector := true, haltService := true } }
          power := { s.power with lanes := put s.power.lanes k { s.powerLane k with
            serving := some .halt, cond := false, rampStart := none, mode := .off, nextPin := none } } }) ∧
      (eligible .cap e → (∀ d ∈ q, ¬ eligible .cap d) → (∀ d ∈ l.queue, ¬ eligible .halt d) →
        ∃ v : State,
          v = { s with
            pen := { s.pen with lanes := put s.pen.lanes k { l with
              queue := q ++ r, serving := some e, serveStamp := x, pushMark := false, capRemaining := e.amount } }
            power := { s.power with lanes := put s.power.lanes k (v.powerLane k) } } ∧
          LaneEvaluated s.power.state x (min (s.powerLane k).cardCap e.duty) s
            { s.powerLane k with serving := some .cap, capDuty := e.duty } (v.powerLane k) ∧
          taken = deliver (notice 3 e.serial.toNat (e.duty * 256 + e.amount)) v)) ∧
    (∀ e, l.serving = some e → e.kind = .cap →
      let counted := { s with pen := { s.pen with lanes := put s.pen.lanes k { l with
        capRemaining := l.capRemaining - 1 } } }
      (completion = false → taken = s) ∧
      (completion = true → 1 < l.capRemaining → taken = counted) ∧
      (completion = true → l.capRemaining ≤ 1 → ServiceEnded k x 1 0 counted taken)) ∧
    (∀ e, l.serving = some e → e.kind = .halt →
      let due := l.pushMark = false ∧ view.state.frozen = false ∧ isLater l.serveStamp x = true ∧
        100 * s.pen.coastGrace.getD 0 < interval l.serveStamp x
      taken = pushCheck k x view s ∧ (¬ due → taken = s) ∧
      (due → taken = trigger trigPush k x { s with pen := { s.pen with lanes := put s.pen.lanes k { l with
        pushMark := true } } }))

/-- A lane's finish at the penalty unit ends the serving entry as served, with what remained, and then converts every
pending entry, oldest first, to the fallback of its trigger row: a CONVERT notice each, laps deducted and time added; a
finish named again changes nothing (R149, R156). A HALT or CAP issued to a finished lane, or to one whose queue is full,
converts at once (R148). A finish due to ABORT HEAT empties the lane without a notice (R157). What the lane's duty and CAP
duty hold out of use is log 43, what the registers of an ended service hold log 46. -/
def Obligations.FinishEndsServiceAndConverts : Prop :=
  ∀ (s : State) (k : Lane) (x : Stamp) (rows : Vector PenaltyRow 8), s.pen.table = some rows → QueuesSound s →
    let l := s.penLane k
    let onLane := fun m : PenLane => { s with pen := { s.pen with lanes := put s.pen.lanes k m } }
    let out := onLane { l with finished := true }
    let fallback := fun e : PenEntry => pick rows e.trigger
    let notice := fun (y : Stamp) (e : PenEntry) => laneNotice .convert e.kind.code k l.racer s.pen.label y
      e.serial.toNat (fallback e).fbAmount
    let total := fun r : Response =>
      ((l.queue.filter fun e => decide ((fallback e).fbResponse = r)).map fun e => (fallback e).fbAmount).sum
    let t := penFinish k x s
    (l.finished = true → t = s) ∧
    (∀ e, l.finished = false → l.serving = some e →
      ∃ v, ServiceEnded k x 1 (servingRemaining s k) out v ∧ t = convertAll k x l.queue v) ∧
    (l.finished = false → l.serving = none →
      let told := l.queue.foldl (fun v e => deliver (notice x e) v) s
      t = { s with mem := told.mem, port := told.port, pen := t.pen, stand := t.stand } ∧
      t.pen = { s.pen with lanes := put s.pen.lanes k { l with
        finished := true, queue := [], deducted := min 65535 (l.deducted + total .laps)
        timePenalty := min 0xFFFFFFFF (l.timePenalty + total .time) } } ∧
      ((∀ e ∈ l.queue, (fallback e).fbResponse = .time) → t.stand = s.stand) ∧
      (∀ e, l.queue = [e] → (fallback e).fbResponse = .laps → t.stand = (resort { t with stand := s.stand }).stand)) ∧
    (∀ e, l.finished = true ∨ 8 ≤ l.queue.length → (fallback e).fbResponse = .time →
      let v := deliver (notice e.callStamp e) s
      enqueuePenalty k e s = { v with pen := { s.pen with lanes := put s.pen.lanes k { l with
        timePenalty := min 0xFFFFFFFF (l.timePenalty + (fallback e).fbAmount) } } }) ∧
    (let a := penAbortFinish k x s;
      a.mem = s.mem ∧ a.port = s.port ∧ a.stand = s.stand ∧
      a.pen = { s.pen with lanes := put s.pen.lanes k { l with finished := true, serving := none, queue := [] } })

/-- A re-sort orders the lanes of the running order by scored laps, then by last line stamp with the lanes that have none
last, then by number, and gives each its place; no lane is added or removed and nothing else changes. The final order has
the same lanes, by heat distance, which is 1,000 for each scored lap and the partial, then by last crossing stamp, then by
number. The stamps are taken within half the stamp circle from some stamp on, where R31's order is one (R31, R72, R173,
R178, R181). The partial of a cut lane is the position of its last gate and the credited part of the next sector, which
never reaches the next gate; a lane cut in GRID or HUNT, after a HALT in the sector, or with no reference time is credited
with the last gate alone (R175 to R177). A re-sort before the lap engine has taken the staging, by the laps and stamps it
then holds, is log 47. -/
def Obligations.RunningOrderAndPartialDistance : Prop :=
  (∀ (s : State) (from_ : Stamp), s.stand.order.Nodup →
    (∀ k y, (s.lap k).lastLine = some y → interval from_ y < 2 ^ 39) →
    let scored := fun k => (s.lap k).laps - (s.penLane k).deducted
    let t := resort s
    t = { s with stand := { s.stand with order := t.stand.order, lanes := t.stand.lanes } } ∧
    t.stand.order.Perm s.stand.order ∧
    t.stand.order.Pairwise (fun a b => scored b < scored a ∨ scored a = scored b ∧
      (match (s.lap a).lastLine, (s.lap b).lastLine with
        | some x, some y => interval from_ x < interval from_ y ∨ x = y ∧ a < b
        | some _, none => True
        | none, some _ => False
        | none, none => a < b)) ∧
    ∀ k, t.standLane k = { s.standLane k with
      position := if k ∈ t.stand.order then t.stand.order.idxOf k + 1 else 0 }) ∧
  (∀ (s : State) (from_ : Stamp), s.stand.order.Nodup → (∀ k, interval from_ (s.lap k).lastCrossing < 2 ^ 39) →
    let distance := fun k => ((s.lap k).laps - (s.penLane k).deducted) * 1000 + (s.standLane k).partialDist
    let since := fun k => interval from_ (s.lap k).lastCrossing
    (finalOrder s).Perm s.stand.order ∧
    (finalOrder s).Pairwise fun a b => distance b < distance a ∨
      distance a = distance b ∧ (since a < since b ∨ since a = since b ∧ a < b)) ∧
  ∀ (g : Geometry) (c : CutData), geometryGood g = true → c.last < g.gateCount →
    let here := g.position c.last
    let next := if c.last + 1 < g.gateCount then g.position (c.last + 1) else 1000
    let ref := match c.bestSplit with
      | some b => b
      | none => c.bestLap * (next - here) / 1000
    let run := min (interval c.lastCrossing c.instant - c.sectorFrozen) 0xFFFFFFFF
    here ≤ partialOf g c ∧ partialOf g c < next ∧ next ≤ 1000 ∧
    (c.before = .grid ∨ c.before = .hunt ∨ c.haltInSector = true ∨ ref = 0 → partialOf g c = here) ∧
    (c.before = .lapping → c.haltInSector = false → ref ≠ 0 →
      partialOf g c = here + min (next - here - 1) ((next - here) * run / ref))

/-- At settle one lane's heat is folded into the tally: into the lowest USED entry that holds its racer, as one update,
each total raised and saturated, the best lap and its heat label where the lane's is better; else into the lowest FREE
entry, written first with every total 0; else not at all. Nothing else changes (R10, R107, R182; that bytes 27 to 31 of
an entry are left as they are is log 16). -/
def Obligations.TallyFoldAddsTheHeat : Prop :=
  ∀ (s : State) (label : Byte) (k : Lane) (i : Fin 64),
    let racer := pick s.stand.racers k
    let holds := fun j : Fin 64 => readByte s (tallyAddr j) = 1 ∧ readByte s (tallyAddr j + 1) = racer
    let t := foldLane label s k
    let a := tallyAddr i
    let l := s.lap k
    let p := s.penLane k
    s.port.turns = [] →
    (racer = 0 → t = s) ∧
    (racer ≠ 0 → (∀ j, ¬ holds j) → (∀ j, readByte s (tallyAddr j) ≠ 0) → t = s) ∧
    (racer ≠ 0 → (∀ j, ¬ holds j) → readByte s a = 0 → (∀ j, j < i → readByte s (tallyAddr j) ≠ 0) →
      ∃ u, u = { s with mem := u.mem } ∧ readByte u a = 1 ∧ readByte u (a + 1) = racer ∧ readByte u (a + 2) = 0 ∧
        readByte u (a + 3) = readByte s (a + 3) + 2 ∧ (∀ j, Within (a + 4) 23 j → readByte u j = 0) ∧
        (∀ j, ¬ Within a 27 j → readByte u j = readByte s j) ∧ t = foldLane label u k) ∧
    (racer ≠ 0 → holds i → (∀ j, j < i → ¬ holds j) →
      let old := fun (offset len : Nat) => readField s (a + offset) len
      let new := fun (offset len : Nat) => readField t (a + offset) len
      t = { s with mem := t.mem } ∧ readByte t a = 1 ∧ readByte t (a + 1) = racer ∧
      readByte t (a + 3) = readByte s (a + 3) + 2 ∧
      new 2 1 = min 255 (old 2 1 + 1) ∧
      new 4 4 = min 0xFFFFFFFF (old 4 4 + (scoredLaps s k * 1000 + (s.standLane k).partialDist)) ∧
      new 8 4 = min 0xFFFFFFFF (old 8 4 + l.laps) ∧
      (l.bestLap ≠ 0 ∧ (old 12 4 = 0 ∨ l.bestLap < old 12 4) →
        new 12 4 = l.bestLap % 2 ^ 32 ∧ readByte t (a + 16) = label) ∧
      (¬ (l.bestLap ≠ 0 ∧ (old 12 4 = 0 ∨ l.bestLap < old 12 4)) →
        new 12 4 = old 12 4 ∧ readByte t (a + 16) = readByte s (a + 16)) ∧
      new 17 2 = min 65535 (old 17 2 + p.deducted) ∧
      new 19 4 = min 0xFFFFFFFF (old 19 4 + p.timePenalty) ∧
      new 23 2 = min 65535 (old 23 2 + p.warnings.toList.sum) ∧
      new 25 2 = min 65535 (old 25 2 + pick s.race.callsUsed k) ∧
      ∀ j, ¬ Within (a + 2) 25 j → readByte t j = readByte s j)
end

