-- ==== Sys2Proof/Laws/State.lean ====
section
/-! SUPPORT. One lemma for each field of State and each updater of a block, true by rfl, and what a lane's or an
input's updater does to that lane or input and to the others. No later proof unfolds a record update of State. -/

namespace Sys2Proof.Machine

section
variable (f : HostPort → HostPort) (s : State)
@[simp] theorem State.onPort_pending : (s.onPort f).pending = s.pending := rfl
@[simp] theorem State.onPort_phase : (s.onPort f).phase = s.phase := rfl
@[simp] theorem State.onPort_mem : (s.onPort f).mem = s.mem := rfl
@[simp] theorem State.onPort_port : (s.onPort f).port = f s.port := rfl
@[simp] theorem State.onPort_time : (s.onPort f).time = s.time := rfl
@[simp] theorem State.onPort_gates : (s.onPort f).gates = s.gates := rfl
@[simp] theorem State.onPort_race : (s.onPort f).race = s.race := rfl
@[simp] theorem State.onPort_laps : (s.onPort f).laps = s.laps := rfl
@[simp] theorem State.onPort_pen : (s.onPort f).pen = s.pen := rfl
@[simp] theorem State.onPort_power : (s.onPort f).power = s.power := rfl
@[simp] theorem State.onPort_stand : (s.onPort f).stand = s.stand := rfl
@[simp] theorem State.onPort_pins : (s.onPort f).pins = s.pins := rfl
end

section
variable (f : Timebase → Timebase) (s : State)
@[simp] theorem State.onTime_pending : (s.onTime f).pending = s.pending := rfl
@[simp] theorem State.onTime_phase : (s.onTime f).phase = s.phase := rfl
@[simp] theorem State.onTime_mem : (s.onTime f).mem = s.mem := rfl
@[simp] theorem State.onTime_port : (s.onTime f).port = s.port := rfl
@[simp] theorem State.onTime_time : (s.onTime f).time = f s.time := rfl
@[simp] theorem State.onTime_gates : (s.onTime f).gates = s.gates := rfl
@[simp] theorem State.onTime_race : (s.onTime f).race = s.race := rfl
@[simp] theorem State.onTime_laps : (s.onTime f).laps = s.laps := rfl
@[simp] theorem State.onTime_pen : (s.onTime f).pen = s.pen := rfl
@[simp] theorem State.onTime_power : (s.onTime f).power = s.power := rfl
@[simp] theorem State.onTime_stand : (s.onTime f).stand = s.stand := rfl
@[simp] theorem State.onTime_pins : (s.onTime f).pins = s.pins := rfl
end

section
variable (f : GateFront → GateFront) (s : State)
@[simp] theorem State.onGates_pending : (s.onGates f).pending = s.pending := rfl
@[simp] theorem State.onGates_phase : (s.onGates f).phase = s.phase := rfl
@[simp] theorem State.onGates_mem : (s.onGates f).mem = s.mem := rfl
@[simp] theorem State.onGates_port : (s.onGates f).port = s.port := rfl
@[simp] theorem State.onGates_time : (s.onGates f).time = s.time := rfl
@[simp] theorem State.onGates_gates : (s.onGates f).gates = f s.gates := rfl
@[simp] theorem State.onGates_race : (s.onGates f).race = s.race := rfl
@[simp] theorem State.onGates_laps : (s.onGates f).laps = s.laps := rfl
@[simp] theorem State.onGates_pen : (s.onGates f).pen = s.pen := rfl
@[simp] theorem State.onGates_power : (s.onGates f).power = s.power := rfl
@[simp] theorem State.onGates_stand : (s.onGates f).stand = s.stand := rfl
@[simp] theorem State.onGates_pins : (s.onGates f).pins = s.pins := rfl
end

section
variable (f : RaceControl → RaceControl) (s : State)
@[simp] theorem State.onRace_pending : (s.onRace f).pending = s.pending := rfl
@[simp] theorem State.onRace_phase : (s.onRace f).phase = s.phase := rfl
@[simp] theorem State.onRace_mem : (s.onRace f).mem = s.mem := rfl
@[simp] theorem State.onRace_port : (s.onRace f).port = s.port := rfl
@[simp] theorem State.onRace_time : (s.onRace f).time = s.time := rfl
@[simp] theorem State.onRace_gates : (s.onRace f).gates = s.gates := rfl
@[simp] theorem State.onRace_race : (s.onRace f).race = f s.race := rfl
@[simp] theorem State.onRace_laps : (s.onRace f).laps = s.laps := rfl
@[simp] theorem State.onRace_pen : (s.onRace f).pen = s.pen := rfl
@[simp] theorem State.onRace_power : (s.onRace f).power = s.power := rfl
@[simp] theorem State.onRace_stand : (s.onRace f).stand = s.stand := rfl
@[simp] theorem State.onRace_pins : (s.onRace f).pins = s.pins := rfl
end

section
variable (f : LapEngine → LapEngine) (s : State)
@[simp] theorem State.onLaps_pending : (s.onLaps f).pending = s.pending := rfl
@[simp] theorem State.onLaps_phase : (s.onLaps f).phase = s.phase := rfl
@[simp] theorem State.onLaps_mem : (s.onLaps f).mem = s.mem := rfl
@[simp] theorem State.onLaps_port : (s.onLaps f).port = s.port := rfl
@[simp] theorem State.onLaps_time : (s.onLaps f).time = s.time := rfl
@[simp] theorem State.onLaps_gates : (s.onLaps f).gates = s.gates := rfl
@[simp] theorem State.onLaps_race : (s.onLaps f).race = s.race := rfl
@[simp] theorem State.onLaps_laps : (s.onLaps f).laps = f s.laps := rfl
@[simp] theorem State.onLaps_pen : (s.onLaps f).pen = s.pen := rfl
@[simp] theorem State.onLaps_power : (s.onLaps f).power = s.power := rfl
@[simp] theorem State.onLaps_stand : (s.onLaps f).stand = s.stand := rfl
@[simp] theorem State.onLaps_pins : (s.onLaps f).pins = s.pins := rfl
end

section
variable (f : PenaltyUnit → PenaltyUnit) (s : State)
@[simp] theorem State.onPen_pending : (s.onPen f).pending = s.pending := rfl
@[simp] theorem State.onPen_phase : (s.onPen f).phase = s.phase := rfl
@[simp] theorem State.onPen_mem : (s.onPen f).mem = s.mem := rfl
@[simp] theorem State.onPen_port : (s.onPen f).port = s.port := rfl
@[simp] theorem State.onPen_time : (s.onPen f).time = s.time := rfl
@[simp] theorem State.onPen_gates : (s.onPen f).gates = s.gates := rfl
@[simp] theorem State.onPen_race : (s.onPen f).race = s.race := rfl
@[simp] theorem State.onPen_laps : (s.onPen f).laps = s.laps := rfl
@[simp] theorem State.onPen_pen : (s.onPen f).pen = f s.pen := rfl
@[simp] theorem State.onPen_power : (s.onPen f).power = s.power := rfl
@[simp] theorem State.onPen_stand : (s.onPen f).stand = s.stand := rfl
@[simp] theorem State.onPen_pins : (s.onPen f).pins = s.pins := rfl
end

section
variable (f : LanePower → LanePower) (s : State)
@[simp] theorem State.onPower_pending : (s.onPower f).pending = s.pending := rfl
@[simp] theorem State.onPower_phase : (s.onPower f).phase = s.phase := rfl
@[simp] theorem State.onPower_mem : (s.onPower f).mem = s.mem := rfl
@[simp] theorem State.onPower_port : (s.onPower f).port = s.port := rfl
@[simp] theorem State.onPower_time : (s.onPower f).time = s.time := rfl
@[simp] theorem State.onPower_gates : (s.onPower f).gates = s.gates := rfl
@[simp] theorem State.onPower_race : (s.onPower f).race = s.race := rfl
@[simp] theorem State.onPower_laps : (s.onPower f).laps = s.laps := rfl
@[simp] theorem State.onPower_pen : (s.onPower f).pen = s.pen := rfl
@[simp] theorem State.onPower_power : (s.onPower f).power = f s.power := rfl
@[simp] theorem State.onPower_stand : (s.onPower f).stand = s.stand := rfl
@[simp] theorem State.onPower_pins : (s.onPower f).pins = s.pins := rfl
end

section
variable (f : Standings → Standings) (s : State)
@[simp] theorem State.onStand_pending : (s.onStand f).pending = s.pending := rfl
@[simp] theorem State.onStand_phase : (s.onStand f).phase = s.phase := rfl
@[simp] theorem State.onStand_mem : (s.onStand f).mem = s.mem := rfl
@[simp] theorem State.onStand_port : (s.onStand f).port = s.port := rfl
@[simp] theorem State.onStand_time : (s.onStand f).time = s.time := rfl
@[simp] theorem State.onStand_gates : (s.onStand f).gates = s.gates := rfl
@[simp] theorem State.onStand_race : (s.onStand f).race = s.race := rfl
@[simp] theorem State.onStand_laps : (s.onStand f).laps = s.laps := rfl
@[simp] theorem State.onStand_pen : (s.onStand f).pen = s.pen := rfl
@[simp] theorem State.onStand_power : (s.onStand f).power = s.power := rfl
@[simp] theorem State.onStand_stand : (s.onStand f).stand = f s.stand := rfl
@[simp] theorem State.onStand_pins : (s.onStand f).pins = s.pins := rfl
end

section
variable (f : Memory → Memory) (s : State)
@[simp] theorem State.onMem_pending : (s.onMem f).pending = s.pending := rfl
@[simp] theorem State.onMem_phase : (s.onMem f).phase = s.phase := rfl
@[simp] theorem State.onMem_mem : (s.onMem f).mem = f s.mem := rfl
@[simp] theorem State.onMem_port : (s.onMem f).port = s.port := rfl
@[simp] theorem State.onMem_time : (s.onMem f).time = s.time := rfl
@[simp] theorem State.onMem_gates : (s.onMem f).gates = s.gates := rfl
@[simp] theorem State.onMem_race : (s.onMem f).race = s.race := rfl
@[simp] theorem State.onMem_laps : (s.onMem f).laps = s.laps := rfl
@[simp] theorem State.onMem_pen : (s.onMem f).pen = s.pen := rfl
@[simp] theorem State.onMem_power : (s.onMem f).power = s.power := rfl
@[simp] theorem State.onMem_stand : (s.onMem f).stand = s.stand := rfl
@[simp] theorem State.onMem_pins : (s.onMem f).pins = s.pins := rfl
end

section
variable (k : GateIn) (f : InputRec → InputRec) (s : State)
@[simp] theorem State.onInput_pending : (s.onInput k f).pending = s.pending := rfl
@[simp] theorem State.onInput_phase : (s.onInput k f).phase = s.phase := rfl
@[simp] theorem State.onInput_mem : (s.onInput k f).mem = s.mem := rfl
@[simp] theorem State.onInput_port : (s.onInput k f).port = s.port := rfl
@[simp] theorem State.onInput_time : (s.onInput k f).time = s.time := rfl
@[simp] theorem State.onInput_race : (s.onInput k f).race = s.race := rfl
@[simp] theorem State.onInput_laps : (s.onInput k f).laps = s.laps := rfl
@[simp] theorem State.onInput_pen : (s.onInput k f).pen = s.pen := rfl
@[simp] theorem State.onInput_power : (s.onInput k f).power = s.power := rfl
@[simp] theorem State.onInput_stand : (s.onInput k f).stand = s.stand := rfl
@[simp] theorem State.onInput_pins : (s.onInput k f).pins = s.pins := rfl
theorem State.onInput_input (j : GateIn) : (s.onInput k f).input j = if j = k then f (s.input j) else s.input j := by
  by_cases h : j = k <;> simp [State.onInput, State.input, pick_amend, h]
@[simp] theorem State.onInput_input_same : (s.onInput k f).input k = f (s.input k) := by simp [State.onInput_input]
theorem State.onInput_input_ne {j : GateIn} (h : j ≠ k) : (s.onInput k f).input j = s.input j := by simp [State.onInput_input, h]
end

section
variable (k : Lane) (f : LapLane → LapLane) (s : State)
@[simp] theorem State.onLapLane_pending : (s.onLapLane k f).pending = s.pending := rfl
@[simp] theorem State.onLapLane_phase : (s.onLapLane k f).phase = s.phase := rfl
@[simp] theorem State.onLapLane_mem : (s.onLapLane k f).mem = s.mem := rfl
@[simp] theorem State.onLapLane_port : (s.onLapLane k f).port = s.port := rfl
@[simp] theorem State.onLapLane_time : (s.onLapLane k f).time = s.time := rfl
@[simp] theorem State.onLapLane_gates : (s.onLapLane k f).gates = s.gates := rfl
@[simp] theorem State.onLapLane_race : (s.onLapLane k f).race = s.race := rfl
@[simp] theorem State.onLapLane_pen : (s.onLapLane k f).pen = s.pen := rfl
@[simp] theorem State.onLapLane_power : (s.onLapLane k f).power = s.power := rfl
@[simp] theorem State.onLapLane_stand : (s.onLapLane k f).stand = s.stand := rfl
@[simp] theorem State.onLapLane_pins : (s.onLapLane k f).pins = s.pins := rfl
theorem State.onLapLane_lap (j : Lane) : (s.onLapLane k f).lap j = if j = k then f (s.lap j) else s.lap j := by
  by_cases h : j = k <;> simp [State.onLapLane, State.lap, pick_amend, h]
@[simp] theorem State.onLapLane_lap_same : (s.onLapLane k f).lap k = f (s.lap k) := by simp [State.onLapLane_lap]
theorem State.onLapLane_lap_ne {j : Lane} (h : j ≠ k) : (s.onLapLane k f).lap j = s.lap j := by simp [State.onLapLane_lap, h]
end

section
variable (k : Lane) (f : PenLane → PenLane) (s : State)
@[simp] theorem State.onPenLane_pending : (s.onPenLane k f).pending = s.pending := rfl
@[simp] theorem State.onPenLane_phase : (s.onPenLane k f).phase = s.phase := rfl
@[simp] theorem State.onPenLane_mem : (s.onPenLane k f).mem = s.mem := rfl
@[simp] theorem State.onPenLane_port : (s.onPenLane k f).port = s.port := rfl
@[simp] theorem State.onPenLane_time : (s.onPenLane k f).time = s.time := rfl
@[simp] theorem State.onPenLane_gates : (s.onPenLane k f).gates = s.gates := rfl
@[simp] theorem State.onPenLane_race : (s.onPenLane k f).race = s.race := rfl
@[simp] theorem State.onPenLane_laps : (s.onPenLane k f).laps = s.laps := rfl
@[simp] theorem State.onPenLane_power : (s.onPenLane k f).power = s.power := rfl
@[simp] theorem State.onPenLane_stand : (s.onPenLane k f).stand = s.stand := rfl
@[simp] theorem State.onPenLane_pins : (s.onPenLane k f).pins = s.pins := rfl
theorem State.onPenLane_penLane (j : Lane) : (s.onPenLane k f).penLane j = if j = k then f (s.penLane j) else s.penLane j := by
  by_cases h : j = k <;> simp [State.onPenLane, State.penLane, pick_amend, h]
@[simp] theorem State.onPenLane_penLane_same : (s.onPenLane k f).penLane k = f (s.penLane k) := by simp [State.onPenLane_penLane]
theorem State.onPenLane_penLane_ne {j : Lane} (h : j ≠ k) : (s.onPenLane k f).penLane j = s.penLane j := by simp [State.onPenLane_penLane, h]
end

section
variable (k : Lane) (f : PowerLane → PowerLane) (s : State)
@[simp] theorem State.onPowerLane_pending : (s.onPowerLane k f).pending = s.pending := rfl
@[simp] theorem State.onPowerLane_phase : (s.onPowerLane k f).phase = s.phase := rfl
@[simp] theorem State.onPowerLane_mem : (s.onPowerLane k f).mem = s.mem := rfl
@[simp] theorem State.onPowerLane_port : (s.onPowerLane k f).port = s.port := rfl
@[simp] theorem State.onPowerLane_time : (s.onPowerLane k f).time = s.time := rfl
@[simp] theorem State.onPowerLane_gates : (s.onPowerLane k f).gates = s.gates := rfl
@[simp] theorem State.onPowerLane_race : (s.onPowerLane k f).race = s.race := rfl
@[simp] theorem State.onPowerLane_laps : (s.onPowerLane k f).laps = s.laps := rfl
@[simp] theorem State.onPowerLane_pen : (s.onPowerLane k f).pen = s.pen := rfl
@[simp] theorem State.onPowerLane_stand : (s.onPowerLane k f).stand = s.stand := rfl
@[simp] theorem State.onPowerLane_pins : (s.onPowerLane k f).pins = s.pins := rfl
theorem State.onPowerLane_powerLane (j : Lane) : (s.onPowerLane k f).powerLane j = if j = k then f (s.powerLane j) else s.powerLane j := by
  by_cases h : j = k <;> simp [State.onPowerLane, State.powerLane, pick_amend, h]
@[simp] theorem State.onPowerLane_powerLane_same : (s.onPowerLane k f).powerLane k = f (s.powerLane k) := by simp [State.onPowerLane_powerLane]
theorem State.onPowerLane_powerLane_ne {j : Lane} (h : j ≠ k) : (s.onPowerLane k f).powerLane j = s.powerLane j := by simp [State.onPowerLane_powerLane, h]
end

section
variable (k : Lane) (f : StandLane → StandLane) (s : State)
@[simp] theorem State.onStandLane_pending : (s.onStandLane k f).pending = s.pending := rfl
@[simp] theorem State.onStandLane_phase : (s.onStandLane k f).phase = s.phase := rfl
@[simp] theorem State.onStandLane_mem : (s.onStandLane k f).mem = s.mem := rfl
@[simp] theorem State.onStandLane_port : (s.onStandLane k f).port = s.port := rfl
@[simp] theorem State.onStandLane_time : (s.onStandLane k f).time = s.time := rfl
@[simp] theorem State.onStandLane_gates : (s.onStandLane k f).gates = s.gates := rfl
@[simp] theorem State.onStandLane_race : (s.onStandLane k f).race = s.race := rfl
@[simp] theorem State.onStandLane_laps : (s.onStandLane k f).laps = s.laps := rfl
@[simp] theorem State.onStandLane_pen : (s.onStandLane k f).pen = s.pen := rfl
@[simp] theorem State.onStandLane_power : (s.onStandLane k f).power = s.power := rfl
@[simp] theorem State.onStandLane_pins : (s.onStandLane k f).pins = s.pins := rfl
theorem State.onStandLane_standLane (j : Lane) : (s.onStandLane k f).standLane j = if j = k then f (s.standLane j) else s.standLane j := by
  by_cases h : j = k <;> simp [State.onStandLane, State.standLane, pick_amend, h]
@[simp] theorem State.onStandLane_standLane_same : (s.onStandLane k f).standLane k = f (s.standLane k) := by simp [State.onStandLane_standLane]
theorem State.onStandLane_standLane_ne {j : Lane} (h : j ≠ k) : (s.onStandLane k f).standLane j = s.standLane j := by simp [State.onStandLane_standLane, h]
end

@[simp] theorem State.onPort_input (f : HostPort → HostPort) (s : State) (j : GateIn) : (s.onPort f).input j = s.input j := rfl
@[simp] theorem State.onTime_input (f : Timebase → Timebase) (s : State) (j : GateIn) : (s.onTime f).input j = s.input j := rfl
@[simp] theorem State.onRace_input (f : RaceControl → RaceControl) (s : State) (j : GateIn) : (s.onRace f).input j = s.input j := rfl
@[simp] theorem State.onLaps_input (f : LapEngine → LapEngine) (s : State) (j : GateIn) : (s.onLaps f).input j = s.input j := rfl
@[simp] theorem State.onPen_input (f : PenaltyUnit → PenaltyUnit) (s : State) (j : GateIn) : (s.onPen f).input j = s.input j := rfl
@[simp] theorem State.onPower_input (f : LanePower → LanePower) (s : State) (j : GateIn) : (s.onPower f).input j = s.input j := rfl
@[simp] theorem State.onStand_input (f : Standings → Standings) (s : State) (j : GateIn) : (s.onStand f).input j = s.input j := rfl
@[simp] theorem State.onMem_input (f : Memory → Memory) (s : State) (j : GateIn) : (s.onMem f).input j = s.input j := rfl
@[simp] theorem State.onLapLane_input (k : Lane) (f : LapLane → LapLane) (s : State) (j : GateIn) : (s.onLapLane k f).input j = s.input j := rfl
@[simp] theorem State.onPenLane_input (k : Lane) (f : PenLane → PenLane) (s : State) (j : GateIn) : (s.onPenLane k f).input j = s.input j := rfl
@[simp] theorem State.onPowerLane_input (k : Lane) (f : PowerLane → PowerLane) (s : State) (j : GateIn) : (s.onPowerLane k f).input j = s.input j := rfl
@[simp] theorem State.onStandLane_input (k : Lane) (f : StandLane → StandLane) (s : State) (j : GateIn) : (s.onStandLane k f).input j = s.input j := rfl

@[simp] theorem State.onPort_lap (f : HostPort → HostPort) (s : State) (j : Lane) : (s.onPort f).lap j = s.lap j := rfl
@[simp] theorem State.onTime_lap (f : Timebase → Timebase) (s : State) (j : Lane) : (s.onTime f).lap j = s.lap j := rfl
@[simp] theorem State.onGates_lap (f : GateFront → GateFront) (s : State) (j : Lane) : (s.onGates f).lap j = s.lap j := rfl
@[simp] theorem State.onRace_lap (f : RaceControl → RaceControl) (s : State) (j : Lane) : (s.onRace f).lap j = s.lap j := rfl
@[simp] theorem State.onPen_lap (f : PenaltyUnit → PenaltyUnit) (s : State) (j : Lane) : (s.onPen f).lap j = s.lap j := rfl
@[simp] theorem State.onPower_lap (f : LanePower → LanePower) (s : State) (j : Lane) : (s.onPower f).lap j = s.lap j := rfl
@[simp] theorem State.onStand_lap (f : Standings → Standings) (s : State) (j : Lane) : (s.onStand f).lap j = s.lap j := rfl
@[simp] theorem State.onMem_lap (f : Memory → Memory) (s : State) (j : Lane) : (s.onMem f).lap j = s.lap j := rfl
@[simp] theorem State.onInput_lap (k : GateIn) (f : InputRec → InputRec) (s : State) (j : Lane) : (s.onInput k f).lap j = s.lap j := rfl
@[simp] theorem State.onPenLane_lap (k : Lane) (f : PenLane → PenLane) (s : State) (j : Lane) : (s.onPenLane k f).lap j = s.lap j := rfl
@[simp] theorem State.onPowerLane_lap (k : Lane) (f : PowerLane → PowerLane) (s : State) (j : Lane) : (s.onPowerLane k f).lap j = s.lap j := rfl
@[simp] theorem State.onStandLane_lap (k : Lane) (f : StandLane → StandLane) (s : State) (j : Lane) : (s.onStandLane k f).lap j = s.lap j := rfl

@[simp] theorem State.onPort_penLane (f : HostPort → HostPort) (s : State) (j : Lane) : (s.onPort f).penLane j = s.penLane j := rfl
@[simp] theorem State.onTime_penLane (f : Timebase → Timebase) (s : State) (j : Lane) : (s.onTime f).penLane j = s.penLane j := rfl
@[simp] theorem State.onGates_penLane (f : GateFront → GateFront) (s : State) (j : Lane) : (s.onGates f).penLane j = s.penLane j := rfl
@[simp] theorem State.onRace_penLane (f : RaceControl → RaceControl) (s : State) (j : Lane) : (s.onRace f).penLane j = s.penLane j := rfl
@[simp] theorem State.onLaps_penLane (f : LapEngine → LapEngine) (s : State) (j : Lane) : (s.onLaps f).penLane j = s.penLane j := rfl
@[simp] theorem State.onPower_penLane (f : LanePower → LanePower) (s : State) (j : Lane) : (s.onPower f).penLane j = s.penLane j := rfl
@[simp] theorem State.onStand_penLane (f : Standings → Standings) (s : State) (j : Lane) : (s.onStand f).penLane j = s.penLane j := rfl
@[simp] theorem State.onMem_penLane (f : Memory → Memory) (s : State) (j : Lane) : (s.onMem f).penLane j = s.penLane j := rfl
@[simp] theorem State.onInput_penLane (k : GateIn) (f : InputRec → InputRec) (s : State) (j : Lane) : (s.onInput k f).penLane j = s.penLane j := rfl
@[simp] theorem State.onLapLane_penLane (k : Lane) (f : LapLane → LapLane) (s : State) (j : Lane) : (s.onLapLane k f).penLane j = s.penLane j := rfl
@[simp] theorem State.onPowerLane_penLane (k : Lane) (f : PowerLane → PowerLane) (s : State) (j : Lane) : (s.onPowerLane k f).penLane j = s.penLane j := rfl
@[simp] theorem State.onStandLane_penLane (k : Lane) (f : StandLane → StandLane) (s : State) (j : Lane) : (s.onStandLane k f).penLane j = s.penLane j := rfl

@[simp] theorem State.onPort_powerLane (f : HostPort → HostPort) (s : State) (j : Lane) : (s.onPort f).powerLane j = s.powerLane j := rfl
@[simp] theorem State.onTime_powerLane (f : Timebase → Timebase) (s : State) (j : Lane) : (s.onTime f).powerLane j = s.powerLane j := rfl
@[simp] theorem State.onGates_powerLane (f : GateFront → GateFront) (s : State) (j : Lane) : (s.onGates f).powerLane j = s.powerLane j := rfl
@[simp] theorem State.onRace_powerLane (f : RaceControl → RaceControl) (s : State) (j : Lane) : (s.onRace f).powerLane j = s.powerLane j := rfl
@[simp] theorem State.onLaps_powerLane (f : LapEngine → LapEngine) (s : State) (j : Lane) : (s.onLaps f).powerLane j = s.powerLane j := rfl
@[simp] theorem State.onPen_powerLane (f : PenaltyUnit → PenaltyUnit) (s : State) (j : Lane) : (s.onPen f).powerLane j = s.powerLane j := rfl
@[simp] theorem State.onStand_powerLane (f : Standings → Standings) (s : State) (j : Lane) : (s.onStand f).powerLane j = s.powerLane j := rfl
@[simp] theorem State.onMem_powerLane (f : Memory → Memory) (s : State) (j : Lane) : (s.onMem f).powerLane j = s.powerLane j := rfl
@[simp] theorem State.onInput_powerLane (k : GateIn) (f : InputRec → InputRec) (s : State) (j : Lane) : (s.onInput k f).powerLane j = s.powerLane j := rfl
@[simp] theorem State.onLapLane_powerLane (k : Lane) (f : LapLane → LapLane) (s : State) (j : Lane) : (s.onLapLane k f).powerLane j = s.powerLane j := rfl
@[simp] theorem State.onPenLane_powerLane (k : Lane) (f : PenLane → PenLane) (s : State) (j : Lane) : (s.onPenLane k f).powerLane j = s.powerLane j := rfl
@[simp] theorem State.onStandLane_powerLane (k : Lane) (f : StandLane → StandLane) (s : State) (j : Lane) : (s.onStandLane k f).powerLane j = s.powerLane j := rfl

@[simp] theorem State.onPort_standLane (f : HostPort → HostPort) (s : State) (j : Lane) : (s.onPort f).standLane j = s.standLane j := rfl
@[simp] theorem State.onTime_standLane (f : Timebase → Timebase) (s : State) (j : Lane) : (s.onTime f).standLane j = s.standLane j := rfl
@[simp] theorem State.onGates_standLane (f : GateFront → GateFront) (s : State) (j : Lane) : (s.onGates f).standLane j = s.standLane j := rfl
@[simp] theorem State.onRace_standLane (f : RaceControl → RaceControl) (s : State) (j : Lane) : (s.onRace f).standLane j = s.standLane j := rfl
@[simp] theorem State.onLaps_standLane (f : LapEngine → LapEngine) (s : State) (j : Lane) : (s.onLaps f).standLane j = s.standLane j := rfl
@[simp] theorem State.onPen_standLane (f : PenaltyUnit → PenaltyUnit) (s : State) (j : Lane) : (s.onPen f).standLane j = s.standLane j := rfl
@[simp] theorem State.onPower_standLane (f : LanePower → LanePower) (s : State) (j : Lane) : (s.onPower f).standLane j = s.standLane j := rfl
@[simp] theorem State.onMem_standLane (f : Memory → Memory) (s : State) (j : Lane) : (s.onMem f).standLane j = s.standLane j := rfl
@[simp] theorem State.onInput_standLane (k : GateIn) (f : InputRec → InputRec) (s : State) (j : Lane) : (s.onInput k f).standLane j = s.standLane j := rfl
@[simp] theorem State.onLapLane_standLane (k : Lane) (f : LapLane → LapLane) (s : State) (j : Lane) : (s.onLapLane k f).standLane j = s.standLane j := rfl
@[simp] theorem State.onPenLane_standLane (k : Lane) (f : PenLane → PenLane) (s : State) (j : Lane) : (s.onPenLane k f).standLane j = s.standLane j := rfl
@[simp] theorem State.onPowerLane_standLane (k : Lane) (f : PowerLane → PowerLane) (s : State) (j : Lane) : (s.onPowerLane k f).standLane j = s.standLane j := rfl

@[simp] theorem State.onPort_geom (f : HostPort → HostPort) (s : State) (j : Lane) : (s.onPort f).geom j = s.geom j := rfl
@[simp] theorem State.onTime_geom (f : Timebase → Timebase) (s : State) (j : Lane) : (s.onTime f).geom j = s.geom j := rfl
@[simp] theorem State.onGates_geom (f : GateFront → GateFront) (s : State) (j : Lane) : (s.onGates f).geom j = s.geom j := rfl
@[simp] theorem State.onRace_geom (f : RaceControl → RaceControl) (s : State) (j : Lane) : (s.onRace f).geom j = s.geom j := rfl
@[simp] theorem State.onPen_geom (f : PenaltyUnit → PenaltyUnit) (s : State) (j : Lane) : (s.onPen f).geom j = s.geom j := rfl
@[simp] theorem State.onPower_geom (f : LanePower → LanePower) (s : State) (j : Lane) : (s.onPower f).geom j = s.geom j := rfl
@[simp] theorem State.onStand_geom (f : Standings → Standings) (s : State) (j : Lane) : (s.onStand f).geom j = s.geom j := rfl
@[simp] theorem State.onMem_geom (f : Memory → Memory) (s : State) (j : Lane) : (s.onMem f).geom j = s.geom j := rfl
@[simp] theorem State.onInput_geom (k : GateIn) (f : InputRec → InputRec) (s : State) (j : Lane) : (s.onInput k f).geom j = s.geom j := rfl
@[simp] theorem State.onPenLane_geom (k : Lane) (f : PenLane → PenLane) (s : State) (j : Lane) : (s.onPenLane k f).geom j = s.geom j := rfl
@[simp] theorem State.onPowerLane_geom (k : Lane) (f : PowerLane → PowerLane) (s : State) (j : Lane) : (s.onPowerLane k f).geom j = s.geom j := rfl
@[simp] theorem State.onStandLane_geom (k : Lane) (f : StandLane → StandLane) (s : State) (j : Lane) : (s.onStandLane k f).geom j = s.geom j := rfl

@[simp] theorem State.onLapLane_geom (k : Lane) (f : LapLane → LapLane) (s : State) (j : Lane) : (s.onLapLane k f).geom j = s.geom j := rfl

end Sys2Proof.Machine
end

