-- ==== Sys2Proof/Laws/Frames.lean ====
section
/-! SUPPORT. What the shared operations over record memory, notices, lane power, standings and the penalty unit leave alone:
for each, one conjunct for each block it does not touch. Tagged @[simp], so that no later proof
unfolds an operation to see what it keeps. -/

namespace Sys2Proof.Machine

@[simp] theorem writeBytes_keeps (a : Nat) (bs : List Byte) (s : State) :
    (writeBytes a bs s).pending = s.pending ∧ (writeBytes a bs s).phase = s.phase ∧
    (writeBytes a bs s).port = s.port ∧ (writeBytes a bs s).time = s.time ∧ (writeBytes a bs s).gates = s.gates ∧
    (writeBytes a bs s).race = s.race ∧ (writeBytes a bs s).laps = s.laps ∧ (writeBytes a bs s).pen = s.pen ∧
    (writeBytes a bs s).power = s.power ∧ (writeBytes a bs s).stand = s.stand ∧ (writeBytes a bs s).pins = s.pins := by
  exact ⟨rfl, rfl, rfl, rfl, rfl, rfl, rfl, rfl, rfl, rfl, rfl⟩

@[simp] theorem driveData_keeps (b : Option Byte) (s : State) :
    (driveData b s).pending = s.pending ∧ (driveData b s).phase = s.phase ∧ (driveData b s).mem = s.mem ∧
    (driveData b s).time = s.time ∧ (driveData b s).gates = s.gates ∧ (driveData b s).race = s.race ∧
    (driveData b s).laps = s.laps ∧ (driveData b s).pen = s.pen ∧ (driveData b s).power = s.power ∧
    (driveData b s).stand = s.stand ∧ (driveData b s).pins = s.pins := by
  simp [driveData]

@[simp] theorem transfer_keeps (a : BitVec 15) (d : Option Byte) (s : State) :
    (transfer a d s).pending = s.pending ∧ (transfer a d s).phase = s.phase ∧ (transfer a d s).time = s.time ∧
    (transfer a d s).gates = s.gates ∧ (transfer a d s).race = s.race ∧ (transfer a d s).laps = s.laps ∧
    (transfer a d s).pen = s.pen ∧ (transfer a d s).power = s.power ∧ (transfer a d s).stand = s.stand ∧
    (transfer a d s).pins = s.pins := by
  generalize e : transfer a d s = t
  simp only [transfer] at e
  (repeat' split at e) <;> subst e <;> simp

@[simp] theorem landTurn_keeps (s : State) (h : HostTurn) :
    (landTurn s h).pending = s.pending ∧ (landTurn s h).phase = s.phase ∧ (landTurn s h).time = s.time ∧
    (landTurn s h).gates = s.gates ∧ (landTurn s h).race = s.race ∧ (landTurn s h).laps = s.laps ∧
    (landTurn s h).pen = s.pen ∧ (landTurn s h).power = s.power ∧ (landTurn s h).stand = s.stand ∧
    (landTurn s h).pins = s.pins := by
  generalize e : landTurn s h = t
  simp only [landTurn] at e
  (repeat' split at e) <;> subst e <;> simp

@[simp] theorem landReady_keeps (ts : List HostTurn) (s : State) :
    (landReady ts s).pending = s.pending ∧ (landReady ts s).phase = s.phase ∧ (landReady ts s).time = s.time ∧
    (landReady ts s).gates = s.gates ∧ (landReady ts s).race = s.race ∧ (landReady ts s).laps = s.laps ∧
    (landReady ts s).pen = s.pen ∧ (landReady ts s).power = s.power ∧ (landReady ts s).stand = s.stand ∧
    (landReady ts s).pins = s.pins := by
  induction ts generalizing s with
  | nil => simp [landReady]
  | cons h ts ih => simp only [landReady]; split <;> simp [ih]

@[simp] theorem giveWay_keeps (s : State) :
    (giveWay s).pending = s.pending ∧ (giveWay s).phase = s.phase ∧ (giveWay s).time = s.time ∧
    (giveWay s).gates = s.gates ∧ (giveWay s).race = s.race ∧ (giveWay s).laps = s.laps ∧ (giveWay s).pen = s.pen ∧
    (giveWay s).power = s.power ∧ (giveWay s).stand = s.stand ∧ (giveWay s).pins = s.pins := by
  generalize e : giveWay s = t
  simp only [giveWay] at e
  (repeat' split at e) <;> subst e <;> simp

@[simp] theorem landTurns_keeps (ts : List HostTurn) (s : State) :
    ((ts.foldl landTurn s)).pending = s.pending ∧ ((ts.foldl landTurn s)).phase = s.phase ∧
    ((ts.foldl landTurn s)).time = s.time ∧ ((ts.foldl landTurn s)).gates = s.gates ∧
    ((ts.foldl landTurn s)).race = s.race ∧ ((ts.foldl landTurn s)).laps = s.laps ∧
    ((ts.foldl landTurn s)).pen = s.pen ∧ ((ts.foldl landTurn s)).power = s.power ∧
    ((ts.foldl landTurn s)).stand = s.stand ∧ ((ts.foldl landTurn s)).pins = s.pins := by
  induction ts generalizing s with
  | nil => simp
  | cons h ts ih => simp [ih]

@[simp] theorem landAll_keeps (s : State) :
    (landAll s).pending = s.pending ∧ (landAll s).phase = s.phase ∧ (landAll s).time = s.time ∧
    (landAll s).gates = s.gates ∧ (landAll s).race = s.race ∧ (landAll s).laps = s.laps ∧ (landAll s).pen = s.pen ∧
    (landAll s).power = s.power ∧ (landAll s).stand = s.stand ∧ (landAll s).pins = s.pins := by
  generalize e : landAll s = t
  simp only [landAll] at e
  (repeat' split at e) <;> subst e <;> simp

@[simp] theorem deviceRead_keeps (a : Nat) (s : State) :
    ((deviceRead a s).1).pending = s.pending ∧ ((deviceRead a s).1).phase = s.phase ∧
    ((deviceRead a s).1).time = s.time ∧ ((deviceRead a s).1).gates = s.gates ∧ ((deviceRead a s).1).race = s.race ∧
    ((deviceRead a s).1).laps = s.laps ∧ ((deviceRead a s).1).pen = s.pen ∧ ((deviceRead a s).1).power = s.power ∧
    ((deviceRead a s).1).stand = s.stand ∧ ((deviceRead a s).1).pins = s.pins := by
  simp [deviceRead]

@[simp] theorem writeEach_keeps (a : Nat) (bs : List Byte) (s : State) :
    (writeEach a bs s).pending = s.pending ∧ (writeEach a bs s).phase = s.phase ∧ (writeEach a bs s).time = s.time ∧
    (writeEach a bs s).gates = s.gates ∧ (writeEach a bs s).race = s.race ∧ (writeEach a bs s).laps = s.laps ∧
    (writeEach a bs s).pen = s.pen ∧ (writeEach a bs s).power = s.power ∧ (writeEach a bs s).stand = s.stand ∧
    (writeEach a bs s).pins = s.pins := by
  induction bs generalizing a s with
  | nil => simp [writeEach]
  | cons b bs ih => simp [writeEach, ih]

@[simp] theorem deviceWrite_keeps (a : Nat) (bs : List Byte) (s : State) :
    (deviceWrite a bs s).pending = s.pending ∧ (deviceWrite a bs s).phase = s.phase ∧
    (deviceWrite a bs s).time = s.time ∧ (deviceWrite a bs s).gates = s.gates ∧ (deviceWrite a bs s).race = s.race ∧
    (deviceWrite a bs s).laps = s.laps ∧ (deviceWrite a bs s).pen = s.pen ∧ (deviceWrite a bs s).power = s.power ∧
    (deviceWrite a bs s).stand = s.stand ∧ (deviceWrite a bs s).pins = s.pins := by
  generalize e : deviceWrite a bs s = t
  simp only [deviceWrite] at e
  (repeat' split at e) <;> subst e <;> simp

@[simp] theorem readEach_keeps (addrs : List Nat) (s : State) :
    ((readEach addrs s).1).pending = s.pending ∧ ((readEach addrs s).1).phase = s.phase ∧
    ((readEach addrs s).1).time = s.time ∧ ((readEach addrs s).1).gates = s.gates ∧
    ((readEach addrs s).1).race = s.race ∧ ((readEach addrs s).1).laps = s.laps ∧ ((readEach addrs s).1).pen = s.pen ∧
    ((readEach addrs s).1).power = s.power ∧ ((readEach addrs s).1).stand = s.stand ∧
    ((readEach addrs s).1).pins = s.pins := by
  induction addrs generalizing s with
  | nil => simp [readEach]
  | cons a addrs ih => simp [readEach, ih]

@[simp] theorem overlay_keeps (cs : List (Nat × Byte)) (s : State) :
    ((cs.foldl (fun v c => writeBytes c.1 [c.2] v) s)).pending = s.pending ∧
    ((cs.foldl (fun v c => writeBytes c.1 [c.2] v) s)).phase = s.phase ∧
    ((cs.foldl (fun v c => writeBytes c.1 [c.2] v) s)).port = s.port ∧
    ((cs.foldl (fun v c => writeBytes c.1 [c.2] v) s)).time = s.time ∧
    ((cs.foldl (fun v c => writeBytes c.1 [c.2] v) s)).gates = s.gates ∧
    ((cs.foldl (fun v c => writeBytes c.1 [c.2] v) s)).race = s.race ∧
    ((cs.foldl (fun v c => writeBytes c.1 [c.2] v) s)).laps = s.laps ∧
    ((cs.foldl (fun v c => writeBytes c.1 [c.2] v) s)).pen = s.pen ∧
    ((cs.foldl (fun v c => writeBytes c.1 [c.2] v) s)).power = s.power ∧
    ((cs.foldl (fun v c => writeBytes c.1 [c.2] v) s)).stand = s.stand ∧
    ((cs.foldl (fun v c => writeBytes c.1 [c.2] v) s)).pins = s.pins := by
  induction cs generalizing s with
  | nil => simp
  | cons c cs ih => simp [ih]

@[simp] theorem gather_keeps (addrs : List Nat) (s : State) :
    ((gather addrs s).state).pending = s.pending ∧ ((gather addrs s).state).phase = s.phase ∧
    ((gather addrs s).state).time = s.time ∧ ((gather addrs s).state).gates = s.gates ∧
    ((gather addrs s).state).race = s.race ∧ ((gather addrs s).state).laps = s.laps ∧
    ((gather addrs s).state).pen = s.pen ∧ ((gather addrs s).state).power = s.power ∧
    ((gather addrs s).state).stand = s.stand ∧ ((gather addrs s).state).pins = s.pins := by
  generalize e : (gather addrs s).state = t
  simp only [gather] at e
  (repeat' split at e) <;> subst e <;> simp

@[simp] theorem gatherView_keeps (addrs : List Nat) (s : State) :
    ((gather addrs s).view).pending = s.pending ∧ ((gather addrs s).view).phase = s.phase ∧
    ((gather addrs s).view).time = s.time ∧ ((gather addrs s).view).gates = s.gates ∧
    ((gather addrs s).view).race = s.race ∧ ((gather addrs s).view).laps = s.laps ∧
    ((gather addrs s).view).pen = s.pen ∧ ((gather addrs s).view).power = s.power ∧
    ((gather addrs s).view).stand = s.stand ∧ ((gather addrs s).view).pins = s.pins := by
  generalize e : (gather addrs s).view = t
  simp only [gather] at e
  (repeat' split at e) <;> subst e <;> simp

@[simp] theorem recheck_keeps (a : Nat) (mask expect : Byte) (s : State) :
    ((recheck a mask expect s).1).pending = s.pending ∧ ((recheck a mask expect s).1).phase = s.phase ∧
    ((recheck a mask expect s).1).time = s.time ∧ ((recheck a mask expect s).1).gates = s.gates ∧
    ((recheck a mask expect s).1).race = s.race ∧ ((recheck a mask expect s).1).laps = s.laps ∧
    ((recheck a mask expect s).1).pen = s.pen ∧ ((recheck a mask expect s).1).power = s.power ∧
    ((recheck a mask expect s).1).stand = s.stand ∧ ((recheck a mask expect s).1).pins = s.pins := by
  simp [recheck]

@[simp] theorem foldWrites_keeps (fields : List (Nat × List Byte)) (s : State) :
    ((fields.foldl (fun t f => deviceWrite f.1 f.2 t) s)).pending = s.pending ∧
    ((fields.foldl (fun t f => deviceWrite f.1 f.2 t) s)).phase = s.phase ∧
    ((fields.foldl (fun t f => deviceWrite f.1 f.2 t) s)).time = s.time ∧
    ((fields.foldl (fun t f => deviceWrite f.1 f.2 t) s)).gates = s.gates ∧
    ((fields.foldl (fun t f => deviceWrite f.1 f.2 t) s)).race = s.race ∧
    ((fields.foldl (fun t f => deviceWrite f.1 f.2 t) s)).laps = s.laps ∧
    ((fields.foldl (fun t f => deviceWrite f.1 f.2 t) s)).pen = s.pen ∧
    ((fields.foldl (fun t f => deviceWrite f.1 f.2 t) s)).power = s.power ∧
    ((fields.foldl (fun t f => deviceWrite f.1 f.2 t) s)).stand = s.stand ∧
    ((fields.foldl (fun t f => deviceWrite f.1 f.2 t) s)).pins = s.pins := by
  induction fields generalizing s with
  | nil => simp
  | cons f fs ih => simp [ih]

@[simp] theorem updateBlock_keeps (c : Nat) (fields : List (Nat × List Byte)) (s : State) :
    (updateBlock c fields s).pending = s.pending ∧ (updateBlock c fields s).phase = s.phase ∧
    (updateBlock c fields s).time = s.time ∧ (updateBlock c fields s).gates = s.gates ∧
    (updateBlock c fields s).race = s.race ∧ (updateBlock c fields s).laps = s.laps ∧
    (updateBlock c fields s).pen = s.pen ∧ (updateBlock c fields s).power = s.power ∧
    (updateBlock c fields s).stand = s.stand ∧ (updateBlock c fields s).pins = s.pins := by
  simp [updateBlock]

@[simp] theorem noticeEntryEmpty_keeps (s : State) :
    ((noticeEntryEmpty s).1).pending = s.pending ∧ ((noticeEntryEmpty s).1).phase = s.phase ∧
    ((noticeEntryEmpty s).1).time = s.time ∧ ((noticeEntryEmpty s).1).gates = s.gates ∧
    ((noticeEntryEmpty s).1).race = s.race ∧ ((noticeEntryEmpty s).1).laps = s.laps ∧
    ((noticeEntryEmpty s).1).pen = s.pen ∧ ((noticeEntryEmpty s).1).power = s.power ∧
    ((noticeEntryEmpty s).1).stand = s.stand ∧ ((noticeEntryEmpty s).1).pins = s.pins := by
  simp [noticeEntryEmpty]

@[simp] theorem stopRacing_keeps (x : Stamp) (s : State) :
    (stopRacing x s).pending = s.pending ∧ (stopRacing x s).phase = s.phase ∧ (stopRacing x s).mem = s.mem ∧
    (stopRacing x s).port = s.port ∧ (stopRacing x s).gates = s.gates ∧ (stopRacing x s).race = s.race ∧
    (stopRacing x s).laps = s.laps ∧ (stopRacing x s).pen = s.pen ∧ (stopRacing x s).power = s.power ∧
    (stopRacing x s).stand = s.stand ∧ (stopRacing x s).pins = s.pins := by
  simp [stopRacing]

@[simp] theorem startRacing_keeps (x : Stamp) (s : State) :
    (startRacing x s).pending = s.pending ∧ (startRacing x s).phase = s.phase ∧ (startRacing x s).mem = s.mem ∧
    (startRacing x s).port = s.port ∧ (startRacing x s).gates = s.gates ∧ (startRacing x s).race = s.race ∧
    (startRacing x s).laps = s.laps ∧ (startRacing x s).pen = s.pen ∧ (startRacing x s).power = s.power ∧
    (startRacing x s).stand = s.stand ∧ (startRacing x s).pins = s.pins := by
  simp [startRacing]

@[simp] theorem writeNotice_keeps (h : HeldNotice) (s : State) :
    ((writeNotice h s).1).pending = s.pending ∧ ((writeNotice h s).1).phase = s.phase ∧
    ((writeNotice h s).1).time = s.time ∧ ((writeNotice h s).1).gates = s.gates ∧
    ((writeNotice h s).1).race = s.race ∧ ((writeNotice h s).1).laps = s.laps ∧ ((writeNotice h s).1).pen = s.pen ∧
    ((writeNotice h s).1).power = s.power ∧ ((writeNotice h s).1).stand = s.stand ∧
    ((writeNotice h s).1).pins = s.pins := by
  generalize e : (writeNotice h s).1 = t
  simp only [writeNotice] at e
  (repeat' split at e) <;> subst e <;> simp

@[simp] theorem retryHeld_keeps (q : List HeldNotice) (s : State) :
    (retryHeld q s).pending = s.pending ∧ (retryHeld q s).phase = s.phase ∧ (retryHeld q s).time = s.time ∧
    (retryHeld q s).gates = s.gates ∧ (retryHeld q s).race = s.race ∧ (retryHeld q s).laps = s.laps ∧
    (retryHeld q s).pen = s.pen ∧ (retryHeld q s).power = s.power ∧ (retryHeld q s).stand = s.stand ∧
    (retryHeld q s).pins = s.pins := by
  induction q generalizing s with
  | nil => simp [retryHeld]
  | cons h rest ih =>
    generalize e : retryHeld (h :: rest) s = t
    simp only [retryHeld] at e
    (repeat' split at e) <;> subst e <;> simp [ih]

@[simp] theorem retryNotices_keeps (s : State) :
    (retryNotices s).pending = s.pending ∧ (retryNotices s).phase = s.phase ∧ (retryNotices s).time = s.time ∧
    (retryNotices s).gates = s.gates ∧ (retryNotices s).race = s.race ∧ (retryNotices s).laps = s.laps ∧
    (retryNotices s).pen = s.pen ∧ (retryNotices s).power = s.power ∧ (retryNotices s).stand = s.stand ∧
    (retryNotices s).pins = s.pins := by
  simp [retryNotices]

@[simp] theorem acceptNotice_keeps (n : Notice) (s : State) :
    ((acceptNotice n s).1).pending = s.pending ∧ ((acceptNotice n s).1).phase = s.phase ∧
    ((acceptNotice n s).1).mem = s.mem ∧ ((acceptNotice n s).1).time = s.time ∧
    ((acceptNotice n s).1).gates = s.gates ∧ ((acceptNotice n s).1).race = s.race ∧
    ((acceptNotice n s).1).laps = s.laps ∧ ((acceptNotice n s).1).pen = s.pen ∧
    ((acceptNotice n s).1).power = s.power ∧ ((acceptNotice n s).1).stand = s.stand ∧
    ((acceptNotice n s).1).pins = s.pins := by
  simp [acceptNotice]

@[simp] theorem holdNotice_keeps (h : HeldNotice) (s : State) :
    (holdNotice h s).pending = s.pending ∧ (holdNotice h s).phase = s.phase ∧ (holdNotice h s).mem = s.mem ∧
    (holdNotice h s).time = s.time ∧ (holdNotice h s).gates = s.gates ∧ (holdNotice h s).race = s.race ∧
    (holdNotice h s).laps = s.laps ∧ (holdNotice h s).pen = s.pen ∧ (holdNotice h s).power = s.power ∧
    (holdNotice h s).stand = s.stand ∧ (holdNotice h s).pins = s.pins := by
  simp [holdNotice]

@[simp] theorem deliver_keeps (n : Notice) (s : State) :
    (deliver n s).pending = s.pending ∧ (deliver n s).phase = s.phase ∧ (deliver n s).time = s.time ∧
    (deliver n s).gates = s.gates ∧ (deliver n s).race = s.race ∧ (deliver n s).laps = s.laps ∧
    (deliver n s).pen = s.pen ∧ (deliver n s).power = s.power ∧ (deliver n s).stand = s.stand ∧
    (deliver n s).pins = s.pins := by
  generalize e : deliver n s = t
  simp only [deliver] at e
  (repeat' split at e) <;> subst e <;> simp

@[simp] theorem handChange_keeps (c : ChangeKind) (x : Stamp) (s : State) :
    (handChange c x s).pending = s.pending ∧ (handChange c x s).phase = s.phase ∧ (handChange c x s).mem = s.mem ∧
    (handChange c x s).port = s.port ∧ (handChange c x s).time = s.time ∧ (handChange c x s).gates = s.gates ∧
    (handChange c x s).race = s.race ∧ (handChange c x s).pen = s.pen ∧ (handChange c x s).power = s.power ∧
    (handChange c x s).stand = s.stand ∧ (handChange c x s).pins = s.pins := by
  simp [handChange]

@[simp] theorem evalLane_keeps (x : Stamp) (k : Lane) (s : State) :
    (evalLane x k s).pending = s.pending ∧ (evalLane x k s).phase = s.phase ∧ (evalLane x k s).mem = s.mem ∧
    (evalLane x k s).port = s.port ∧ (evalLane x k s).time = s.time ∧ (evalLane x k s).gates = s.gates ∧
    (evalLane x k s).race = s.race ∧ (evalLane x k s).laps = s.laps ∧ (evalLane x k s).pen = s.pen ∧
    (evalLane x k s).stand = s.stand ∧ (evalLane x k s).pins = s.pins := by
  generalize e : evalLane x k s = t
  simp only [evalLane] at e
  (repeat' split at e) <;> subst e <;> simp

@[simp] theorem evalEach_keeps (x : Stamp) (ks : List Lane) (s : State) :
    ((ks.foldl (fun s k => evalLane x k s) s)).pending = s.pending ∧
    ((ks.foldl (fun s k => evalLane x k s) s)).phase = s.phase ∧
    ((ks.foldl (fun s k => evalLane x k s) s)).mem = s.mem ∧
    ((ks.foldl (fun s k => evalLane x k s) s)).port = s.port ∧
    ((ks.foldl (fun s k => evalLane x k s) s)).time = s.time ∧
    ((ks.foldl (fun s k => evalLane x k s) s)).gates = s.gates ∧
    ((ks.foldl (fun s k => evalLane x k s) s)).race = s.race ∧
    ((ks.foldl (fun s k => evalLane x k s) s)).laps = s.laps ∧
    ((ks.foldl (fun s k => evalLane x k s) s)).pen = s.pen ∧
    ((ks.foldl (fun s k => evalLane x k s) s)).stand = s.stand ∧
    ((ks.foldl (fun s k => evalLane x k s) s)).pins = s.pins := by
  induction ks generalizing s with
  | nil => simp
  | cons k ks ih => simp [ih]

@[simp] theorem evalAll_keeps (x : Stamp) (s : State) :
    (evalAll x s).pending = s.pending ∧ (evalAll x s).phase = s.phase ∧ (evalAll x s).mem = s.mem ∧
    (evalAll x s).port = s.port ∧ (evalAll x s).time = s.time ∧ (evalAll x s).gates = s.gates ∧
    (evalAll x s).race = s.race ∧ (evalAll x s).laps = s.laps ∧ (evalAll x s).pen = s.pen ∧
    (evalAll x s).stand = s.stand ∧ (evalAll x s).pins = s.pins := by
  simp [evalAll]

@[simp] theorem powerRace_keeps (r : RaceState) (x : Stamp) (s : State) :
    (powerRace r x s).pending = s.pending ∧ (powerRace r x s).phase = s.phase ∧ (powerRace r x s).mem = s.mem ∧
    (powerRace r x s).port = s.port ∧ (powerRace r x s).time = s.time ∧ (powerRace r x s).gates = s.gates ∧
    (powerRace r x s).race = s.race ∧ (powerRace r x s).laps = s.laps ∧ (powerRace r x s).pen = s.pen ∧
    (powerRace r x s).stand = s.stand ∧ (powerRace r x s).pins = s.pins := by
  simp [powerRace]

@[simp] theorem powerStaging_keeps (h : HeatSnapshot) (x : Stamp) (s : State) :
    (powerStaging h x s).pending = s.pending ∧ (powerStaging h x s).phase = s.phase ∧
    (powerStaging h x s).mem = s.mem ∧ (powerStaging h x s).port = s.port ∧ (powerStaging h x s).time = s.time ∧
    (powerStaging h x s).gates = s.gates ∧ (powerStaging h x s).race = s.race ∧ (powerStaging h x s).laps = s.laps ∧
    (powerStaging h x s).pen = s.pen ∧ (powerStaging h x s).stand = s.stand ∧ (powerStaging h x s).pins = s.pins := by
  simp [powerStaging]

@[simp] theorem powerIdle_keeps (x : Stamp) (s : State) :
    (powerIdle x s).pending = s.pending ∧ (powerIdle x s).phase = s.phase ∧ (powerIdle x s).mem = s.mem ∧
    (powerIdle x s).port = s.port ∧ (powerIdle x s).time = s.time ∧ (powerIdle x s).gates = s.gates ∧
    (powerIdle x s).race = s.race ∧ (powerIdle x s).laps = s.laps ∧ (powerIdle x s).pen = s.pen ∧
    (powerIdle x s).stand = s.stand ∧ (powerIdle x s).pins = s.pins := by
  simp [powerIdle]

@[simp] theorem powerServing_keeps (k : Lane) (kind : Option ServiceKind) (duty : Nat) (x : Stamp) (s : State) :
    (powerServing k kind duty x s).pending = s.pending ∧ (powerServing k kind duty x s).phase = s.phase ∧
    (powerServing k kind duty x s).mem = s.mem ∧ (powerServing k kind duty x s).port = s.port ∧
    (powerServing k kind duty x s).time = s.time ∧ (powerServing k kind duty x s).gates = s.gates ∧
    (powerServing k kind duty x s).race = s.race ∧ (powerServing k kind duty x s).laps = s.laps ∧
    (powerServing k kind duty x s).pen = s.pen ∧ (powerServing k kind duty x s).stand = s.stand ∧
    (powerServing k kind duty x s).pins = s.pins := by
  generalize e : powerServing k kind duty x s = t
  simp only [powerServing] at e
  (repeat' split at e) <;> subst e <;> simp

@[simp] theorem powerFinished_keeps (k : Lane) (x : Stamp) (s : State) :
    (powerFinished k x s).pending = s.pending ∧ (powerFinished k x s).phase = s.phase ∧
    (powerFinished k x s).mem = s.mem ∧ (powerFinished k x s).port = s.port ∧ (powerFinished k x s).time = s.time ∧
    (powerFinished k x s).gates = s.gates ∧ (powerFinished k x s).race = s.race ∧
    (powerFinished k x s).laps = s.laps ∧ (powerFinished k x s).pen = s.pen ∧ (powerFinished k x s).stand = s.stand ∧
    (powerFinished k x s).pins = s.pins := by
  simp [powerFinished]

@[simp] theorem setOrder_keeps (order : List Lane) (s : State) :
    (setOrder order s).pending = s.pending ∧ (setOrder order s).phase = s.phase ∧ (setOrder order s).mem = s.mem ∧
    (setOrder order s).port = s.port ∧ (setOrder order s).time = s.time ∧ (setOrder order s).gates = s.gates ∧
    (setOrder order s).race = s.race ∧ (setOrder order s).laps = s.laps ∧ (setOrder order s).pen = s.pen ∧
    (setOrder order s).power = s.power ∧ (setOrder order s).pins = s.pins := by
  simp [setOrder]

@[simp] theorem resort_keeps (s : State) :
    (resort s).pending = s.pending ∧ (resort s).phase = s.phase ∧ (resort s).mem = s.mem ∧ (resort s).port = s.port ∧
    (resort s).time = s.time ∧ (resort s).gates = s.gates ∧ (resort s).race = s.race ∧ (resort s).laps = s.laps ∧
    (resort s).pen = s.pen ∧ (resort s).power = s.power ∧ (resort s).pins = s.pins := by
  simp [resort]

@[simp] theorem standStaging_keeps (h : HeatSnapshot) (s : State) :
    (standStaging h s).pending = s.pending ∧ (standStaging h s).phase = s.phase ∧ (standStaging h s).mem = s.mem ∧
    (standStaging h s).port = s.port ∧ (standStaging h s).time = s.time ∧ (standStaging h s).gates = s.gates ∧
    (standStaging h s).race = s.race ∧ (standStaging h s).laps = s.laps ∧ (standStaging h s).pen = s.pen ∧
    (standStaging h s).power = s.power ∧ (standStaging h s).pins = s.pins := by
  simp [standStaging]

@[simp] theorem standCut_keeps (k : Lane) (b : Bool) (c : CutData) (s : State) :
    (standCut k b c s).pending = s.pending ∧ (standCut k b c s).phase = s.phase ∧ (standCut k b c s).mem = s.mem ∧
    (standCut k b c s).port = s.port ∧ (standCut k b c s).time = s.time ∧ (standCut k b c s).gates = s.gates ∧
    (standCut k b c s).race = s.race ∧ (standCut k b c s).laps = s.laps ∧ (standCut k b c s).pen = s.pen ∧
    (standCut k b c s).power = s.power ∧ (standCut k b c s).pins = s.pins := by
  generalize e : standCut k b c s = t
  simp only [standCut] at e
  (repeat' split at e) <;> subst e <;> simp

@[simp] theorem standFinish_keeps (k : Lane) (b : Bool) (s : State) :
    (standFinish k b s).pending = s.pending ∧ (standFinish k b s).phase = s.phase ∧ (standFinish k b s).mem = s.mem ∧
    (standFinish k b s).port = s.port ∧ (standFinish k b s).time = s.time ∧ (standFinish k b s).gates = s.gates ∧
    (standFinish k b s).race = s.race ∧ (standFinish k b s).laps = s.laps ∧ (standFinish k b s).pen = s.pen ∧
    (standFinish k b s).power = s.power ∧ (standFinish k b s).pins = s.pins := by
  generalize e : standFinish k b s = t
  simp only [standFinish] at e
  (repeat' split at e) <;> subst e <;> simp

@[simp] theorem writeTallyZero_keeps (state racer : Byte) (i : Fin 64) (s : State) :
    (writeTallyZero state racer i s).pending = s.pending ∧ (writeTallyZero state racer i s).phase = s.phase ∧
    (writeTallyZero state racer i s).time = s.time ∧ (writeTallyZero state racer i s).gates = s.gates ∧
    (writeTallyZero state racer i s).race = s.race ∧ (writeTallyZero state racer i s).laps = s.laps ∧
    (writeTallyZero state racer i s).pen = s.pen ∧ (writeTallyZero state racer i s).power = s.power ∧
    (writeTallyZero state racer i s).stand = s.stand ∧ (writeTallyZero state racer i s).pins = s.pins := by
  simp [writeTallyZero]

@[simp] theorem foldTarget_keeps (racer : Byte) (s : State) :
    ((foldTarget racer s).2).pending = s.pending ∧ ((foldTarget racer s).2).phase = s.phase ∧
    ((foldTarget racer s).2).time = s.time ∧ ((foldTarget racer s).2).gates = s.gates ∧
    ((foldTarget racer s).2).race = s.race ∧ ((foldTarget racer s).2).laps = s.laps ∧
    ((foldTarget racer s).2).pen = s.pen ∧ ((foldTarget racer s).2).power = s.power ∧
    ((foldTarget racer s).2).stand = s.stand ∧ ((foldTarget racer s).2).pins = s.pins := by
  generalize e : (foldTarget racer s).2 = t
  simp only [foldTarget] at e
  (repeat' split at e) <;> subst e <;> simp

@[simp] theorem foldLane_keeps (label : Byte) (s : State) (k : Lane) :
    (foldLane label s k).pending = s.pending ∧ (foldLane label s k).phase = s.phase ∧
    (foldLane label s k).time = s.time ∧ (foldLane label s k).gates = s.gates ∧ (foldLane label s k).race = s.race ∧
    (foldLane label s k).laps = s.laps ∧ (foldLane label s k).pen = s.pen ∧ (foldLane label s k).power = s.power ∧
    (foldLane label s k).stand = s.stand ∧ (foldLane label s k).pins = s.pins := by
  have h := foldTarget_keeps (pick s.stand.racers k) s
  generalize e : foldLane label s k = t; simp only [foldLane] at e
  split at e
  · subst e; simp
  · split at e <;> rename_i heq <;> rw [heq] at h <;> subst e <;> simpa using h

@[simp] theorem foldLanes_keeps (label : Byte) (ks : List Lane) (s : State) :
    ((ks.foldl (foldLane label) s)).pending = s.pending ∧ ((ks.foldl (foldLane label) s)).phase = s.phase ∧
    ((ks.foldl (foldLane label) s)).time = s.time ∧ ((ks.foldl (foldLane label) s)).gates = s.gates ∧
    ((ks.foldl (foldLane label) s)).race = s.race ∧ ((ks.foldl (foldLane label) s)).laps = s.laps ∧
    ((ks.foldl (foldLane label) s)).pen = s.pen ∧ ((ks.foldl (foldLane label) s)).power = s.power ∧
    ((ks.foldl (foldLane label) s)).stand = s.stand ∧ ((ks.foldl (foldLane label) s)).pins = s.pins := by
  induction ks generalizing s with
  | nil => simp
  | cons k ks ih => simp [ih]

@[simp] theorem foldTally_keeps (label : Byte) (s : State) :
    (foldTally label s).pending = s.pending ∧ (foldTally label s).phase = s.phase ∧
    (foldTally label s).time = s.time ∧ (foldTally label s).gates = s.gates ∧ (foldTally label s).race = s.race ∧
    (foldTally label s).laps = s.laps ∧ (foldTally label s).pen = s.pen ∧ (foldTally label s).power = s.power ∧
    (foldTally label s).stand = s.stand ∧ (foldTally label s).pins = s.pins := by
  simp [foldTally]

@[simp] theorem penStaging_keeps (h : HeatSnapshot) (s : State) :
    (penStaging h s).pending = s.pending ∧ (penStaging h s).phase = s.phase ∧ (penStaging h s).time = s.time ∧
    (penStaging h s).gates = s.gates ∧ (penStaging h s).race = s.race ∧ (penStaging h s).laps = s.laps ∧
    (penStaging h s).power = s.power ∧ (penStaging h s).stand = s.stand ∧ (penStaging h s).pins = s.pins := by
  simp [penStaging]

@[simp] theorem penIdle_keeps (s : State) :
    (penIdle s).pending = s.pending ∧ (penIdle s).phase = s.phase ∧ (penIdle s).mem = s.mem ∧
    (penIdle s).port = s.port ∧ (penIdle s).time = s.time ∧ (penIdle s).gates = s.gates ∧ (penIdle s).race = s.race ∧
    (penIdle s).laps = s.laps ∧ (penIdle s).power = s.power ∧ (penIdle s).stand = s.stand ∧ (penIdle s).pins = s.pins := by
  simp [penIdle]

@[simp] theorem penNotice_keeps (kind : NoticeKind) (sub : Nat) (k : Lane) (x : Stamp) (a b : Nat) (s : State) :
    (penNotice kind sub k x a b s).pending = s.pending ∧ (penNotice kind sub k x a b s).phase = s.phase ∧
    (penNotice kind sub k x a b s).time = s.time ∧ (penNotice kind sub k x a b s).gates = s.gates ∧
    (penNotice kind sub k x a b s).race = s.race ∧ (penNotice kind sub k x a b s).laps = s.laps ∧
    (penNotice kind sub k x a b s).pen = s.pen ∧ (penNotice kind sub k x a b s).power = s.power ∧
    (penNotice kind sub k x a b s).stand = s.stand ∧ (penNotice kind sub k x a b s).pins = s.pins := by
  simp [penNotice]

@[simp] theorem actAtOnce_keeps (r : Response) (k : Lane) (n : Nat) (s : State) :
    (actAtOnce r k n s).pending = s.pending ∧ (actAtOnce r k n s).phase = s.phase ∧ (actAtOnce r k n s).mem = s.mem ∧
    (actAtOnce r k n s).port = s.port ∧ (actAtOnce r k n s).time = s.time ∧ (actAtOnce r k n s).gates = s.gates ∧
    (actAtOnce r k n s).race = s.race ∧ (actAtOnce r k n s).laps = s.laps ∧ (actAtOnce r k n s).power = s.power ∧
    (actAtOnce r k n s).pins = s.pins := by
  generalize e : actAtOnce r k n s = t
  simp only [actAtOnce] at e
  (repeat' split at e) <;> subst e <;> simp

@[simp] theorem convert_keeps (k : Lane) (e : PenEntry) (x : Stamp) (s : State) :
    (convert k e x s).pending = s.pending ∧ (convert k e x s).phase = s.phase ∧ (convert k e x s).time = s.time ∧
    (convert k e x s).gates = s.gates ∧ (convert k e x s).race = s.race ∧ (convert k e x s).laps = s.laps ∧
    (convert k e x s).power = s.power ∧ (convert k e x s).pins = s.pins := by
  simp [convert]

@[simp] theorem enqueuePenalty_keeps (k : Lane) (e : PenEntry) (s : State) :
    (enqueuePenalty k e s).pending = s.pending ∧ (enqueuePenalty k e s).phase = s.phase ∧
    (enqueuePenalty k e s).time = s.time ∧ (enqueuePenalty k e s).gates = s.gates ∧
    (enqueuePenalty k e s).race = s.race ∧ (enqueuePenalty k e s).laps = s.laps ∧
    (enqueuePenalty k e s).power = s.power ∧ (enqueuePenalty k e s).pins = s.pins := by
  generalize e : enqueuePenalty k e s = t
  simp only [enqueuePenalty] at e
  (repeat' split at e) <;> subst e <;> simp

@[simp] theorem issue_keeps (t : Fin 8) (k : Lane) (x : Stamp) (r : Response) (a d w : Nat) (s : State) :
    (issue t k x r a d w s).pending = s.pending ∧ (issue t k x r a d w s).phase = s.phase ∧
    (issue t k x r a d w s).time = s.time ∧ (issue t k x r a d w s).gates = s.gates ∧
    (issue t k x r a d w s).race = s.race ∧ (issue t k x r a d w s).laps = s.laps ∧
    (issue t k x r a d w s).power = s.power ∧ (issue t k x r a d w s).pins = s.pins := by
  cases r <;> simp [issue]

@[simp] theorem trigger_keeps (t : Fin 8) (k : Lane) (x : Stamp) (s : State) :
    (trigger t k x s).pending = s.pending ∧ (trigger t k x s).phase = s.phase ∧ (trigger t k x s).time = s.time ∧
    (trigger t k x s).gates = s.gates ∧ (trigger t k x s).race = s.race ∧ (trigger t k x s).laps = s.laps ∧
    (trigger t k x s).power = s.power ∧ (trigger t k x s).pins = s.pins := by
  generalize e : trigger t k x s = t
  simp only [trigger] at e
  (repeat' split at e) <;> subst e <;> simp

@[simp] theorem lapHaltBegins_keeps (k : Lane) (s : State) :
    (lapHaltBegins k s).pending = s.pending ∧ (lapHaltBegins k s).phase = s.phase ∧ (lapHaltBegins k s).mem = s.mem ∧
    (lapHaltBegins k s).port = s.port ∧ (lapHaltBegins k s).time = s.time ∧ (lapHaltBegins k s).gates = s.gates ∧
    (lapHaltBegins k s).race = s.race ∧ (lapHaltBegins k s).pen = s.pen ∧ (lapHaltBegins k s).power = s.power ∧
    (lapHaltBegins k s).stand = s.stand ∧ (lapHaltBegins k s).pins = s.pins := by
  simp [lapHaltBegins]

@[simp] theorem lapHaltEnds_keeps (k : Lane) (s : State) :
    (lapHaltEnds k s).pending = s.pending ∧ (lapHaltEnds k s).phase = s.phase ∧ (lapHaltEnds k s).mem = s.mem ∧
    (lapHaltEnds k s).port = s.port ∧ (lapHaltEnds k s).time = s.time ∧ (lapHaltEnds k s).gates = s.gates ∧
    (lapHaltEnds k s).race = s.race ∧ (lapHaltEnds k s).pen = s.pen ∧ (lapHaltEnds k s).power = s.power ∧
    (lapHaltEnds k s).stand = s.stand ∧ (lapHaltEnds k s).pins = s.pins := by
  simp [lapHaltEnds]

@[simp] theorem dropServing_keeps (k : Lane) (x : Stamp) (s : State) :
    (dropServing k x s).pending = s.pending ∧ (dropServing k x s).phase = s.phase ∧ (dropServing k x s).mem = s.mem ∧
    (dropServing k x s).port = s.port ∧ (dropServing k x s).time = s.time ∧ (dropServing k x s).gates = s.gates ∧
    (dropServing k x s).race = s.race ∧ (dropServing k x s).stand = s.stand ∧ (dropServing k x s).pins = s.pins := by
  generalize e : dropServing k x s = t
  simp only [dropServing] at e
  (repeat' split at e) <;> subst e <;> simp

@[simp] theorem endService_keeps (k : Lane) (x : Stamp) (sub n : Nat) (s : State) :
    (endService k x sub n s).pending = s.pending ∧ (endService k x sub n s).phase = s.phase ∧
    (endService k x sub n s).time = s.time ∧ (endService k x sub n s).gates = s.gates ∧
    (endService k x sub n s).race = s.race ∧ (endService k x sub n s).stand = s.stand ∧
    (endService k x sub n s).pins = s.pins := by
  generalize e : endService k x sub n s = t
  simp only [endService] at e
  (repeat' split at e) <;> subst e <;> simp

@[simp] theorem beginService_keeps (k : Lane) (x : Stamp) (s : State) :
    (beginService k x s).pending = s.pending ∧ (beginService k x s).phase = s.phase ∧
    (beginService k x s).time = s.time ∧ (beginService k x s).gates = s.gates ∧ (beginService k x s).race = s.race ∧
    (beginService k x s).stand = s.stand ∧ (beginService k x s).pins = s.pins := by
  generalize e : beginService k x s = t
  simp only [beginService] at e
  (repeat' split at e) <;> subst e <;> simp

@[simp] theorem pushCheck_keeps (k : Lane) (x : Stamp) (v : RaceView) (s : State) :
    (pushCheck k x v s).pending = s.pending ∧ (pushCheck k x v s).phase = s.phase ∧
    (pushCheck k x v s).time = s.time ∧ (pushCheck k x v s).gates = s.gates ∧ (pushCheck k x v s).race = s.race ∧
    (pushCheck k x v s).laps = s.laps ∧ (pushCheck k x v s).power = s.power ∧ (pushCheck k x v s).pins = s.pins := by
  generalize e : pushCheck k x v s = t
  simp only [pushCheck] at e
  (repeat' split at e) <;> subst e <;> simp

@[simp] theorem advanceCap_keeps (k : Lane) (x : Stamp) (s : State) :
    (advanceCap k x s).pending = s.pending ∧ (advanceCap k x s).phase = s.phase ∧ (advanceCap k x s).time = s.time ∧
    (advanceCap k x s).gates = s.gates ∧ (advanceCap k x s).race = s.race ∧ (advanceCap k x s).stand = s.stand ∧
    (advanceCap k x s).pins = s.pins := by
  generalize e : advanceCap k x s = t
  simp only [advanceCap] at e
  (repeat' split at e) <;> subst e <;> simp

@[simp] theorem penAcceptedLine_keeps (k : Lane) (x : Stamp) (c d : Bool) (v : RaceView) (s : State) :
    (penAcceptedLine k x c d v s).pending = s.pending ∧ (penAcceptedLine k x c d v s).phase = s.phase ∧
    (penAcceptedLine k x c d v s).time = s.time ∧ (penAcceptedLine k x c d v s).gates = s.gates ∧
    (penAcceptedLine k x c d v s).race = s.race ∧ (penAcceptedLine k x c d v s).pins = s.pins := by
  generalize e : penAcceptedLine k x c d v s = t
  simp only [penAcceptedLine] at e
  (repeat' split at e) <;> subst e <;> simp

@[simp] theorem convertAll_keeps (k : Lane) (x : Stamp) (q : List PenEntry) (s : State) :
    (convertAll k x q s).pending = s.pending ∧ (convertAll k x q s).phase = s.phase ∧
    (convertAll k x q s).time = s.time ∧ (convertAll k x q s).gates = s.gates ∧ (convertAll k x q s).race = s.race ∧
    (convertAll k x q s).laps = s.laps ∧ (convertAll k x q s).power = s.power ∧ (convertAll k x q s).pins = s.pins := by
  induction q generalizing s with
  | nil => simp [convertAll]
  | cons e rest ih => simp [convertAll, ih]

@[simp] theorem penFinish_keeps (k : Lane) (x : Stamp) (s : State) :
    (penFinish k x s).pending = s.pending ∧ (penFinish k x s).phase = s.phase ∧ (penFinish k x s).time = s.time ∧
    (penFinish k x s).gates = s.gates ∧ (penFinish k x s).race = s.race ∧ (penFinish k x s).pins = s.pins := by
  generalize e : penFinish k x s = t
  simp only [penFinish] at e
  (repeat' split at e) <;> subst e <;> simp

@[simp] theorem penAbortFinish_keeps (k : Lane) (x : Stamp) (s : State) :
    (penAbortFinish k x s).pending = s.pending ∧ (penAbortFinish k x s).phase = s.phase ∧
    (penAbortFinish k x s).mem = s.mem ∧ (penAbortFinish k x s).port = s.port ∧ (penAbortFinish k x s).time = s.time ∧
    (penAbortFinish k x s).gates = s.gates ∧ (penAbortFinish k x s).race = s.race ∧
    (penAbortFinish k x s).stand = s.stand ∧ (penAbortFinish k x s).pins = s.pins := by
  simp [penAbortFinish]

end Sys2Proof.Machine
end

