-- ==== Sys2Proof/Laws/Memory.lean ====
section
/-! SUPPORT. Record memory: a read after a write gives the byte written, a write leaves every other byte alone, and
every memory operation keeps the canonical form, which State.reset has. -/

namespace Sys2Proof.Machine

open Config

/-! ### Lists of cells -/

theorem lookup_filter_of_keeps (m : Memory) (j : Nat) (p : Nat → Bool) (h : p j = true) :
    (m.filter fun c => p c.1).lookup j = m.lookup j := by
  induction m with
  | nil => rfl
  | cons c m ih =>
    obtain ⟨k, b⟩ := c
    by_cases hk : j = k
    · subst hk; simp [h, List.lookup]
    · by_cases hp : p k = true <;> simp [hp, List.lookup, beq_eq_false_iff_ne.mpr hk, ih]

theorem lookup_filter_of_drops (m : Memory) (j : Nat) (p : Nat → Bool) (h : p j = false) :
    (m.filter fun c => p c.1).lookup j = none := by
  induction m with
  | nil => rfl
  | cons c m ih =>
    obtain ⟨k, b⟩ := c
    by_cases hk : j = k
    · subst hk; simp [h, ih]
    · by_cases hp : p k = true <;> simp [hp, List.lookup, beq_eq_false_iff_ne.mpr hk, ih]

theorem lookup_append (m n : Memory) (j : Nat) : (m ++ n).lookup j = (m.lookup j).or (n.lookup j) := by
  induction m with
  | nil => rfl
  | cons c m ih =>
    obtain ⟨k, b⟩ := c
    by_cases hk : j = k
    · subst hk; simp [List.lookup]
    · simp [List.lookup, beq_eq_false_iff_ne.mpr hk, ih]

theorem cellsFrom_bounds (a : Nat) (bs : List Byte) :
    ∀ c ∈ cellsFrom a bs, a ≤ c.1 ∧ c.1 < a + bs.length ∧ c.2 ≠ 0 ∧ c.1 < memSize := by
  induction bs generalizing a with
  | nil => simp [cellsFrom]
  | cons b bs ih =>
    intro c hc
    have tail : c ∈ cellsFrom (a + 1) bs → a ≤ c.1 ∧ c.1 < a + (b :: bs).length ∧ c.2 ≠ 0 ∧ c.1 < memSize := by
      intro h
      have := ih (a + 1) c h
      simp only [List.length_cons]
      exact ⟨by omega, by omega, this.2.2⟩
    simp only [cellsFrom] at hc
    split at hc
    · exact tail hc
    · next hn =>
      rcases List.mem_cons.mp hc with rfl | h
      · simp only [List.length_cons]
        rw [not_or] at hn
        refine ⟨le_refl _, by omega, hn.1, by omega⟩
      · exact tail h

theorem lookup_cellsFrom_outside (a j : Nat) (bs : List Byte) (h : j < a ∨ a + bs.length ≤ j) :
    (cellsFrom a bs).lookup j = none := by
  rw [List.lookup_eq_none_iff]
  intro c hc
  have := cellsFrom_bounds a bs c hc
  simp only [ne_eq, bne_iff_ne]
  omega

theorem lookup_cellsFrom_inside (a i : Nat) (bs : List Byte) (h : i < bs.length) (hm : a + i < memSize) :
    ((cellsFrom a bs).lookup (a + i)).getD 0 = bs[i] := by
  induction bs generalizing a i with
  | nil => simp at h
  | cons b bs ih =>
    cases i with
    | zero =>
      have none_later : (cellsFrom (a + 1) bs).lookup a = none := lookup_cellsFrom_outside _ _ _ (by omega)
      by_cases hb : b = 0
      · simp [cellsFrom, hb, none_later]
      · have here : ¬ (b = 0 ∨ memSize ≤ a) := by simp only [hb, false_or]; omega
        simp only [cellsFrom, if_neg here]
        simp
    | succ i =>
      have step := ih (a + 1) i (by simpa using h) (by omega)
      have e : a + (i + 1) = a + 1 + i := by omega
      simp only [cellsFrom]
      split
      · simpa [e] using step
      · have ne : ((a + (i + 1) : Nat) == a) = false := by simp
        simp only [List.lookup, ne]
        simpa [e] using step

/-! ### Reads after writes -/

theorem Memory.read_write_outside (m : Memory) (a j : Nat) (bs : List Byte) (h : j < a ∨ a + bs.length ≤ j) :
    (Memory.write m a bs).read j = m.read j := by
  simp only [Memory.read, Memory.write, lookup_append, lookup_cellsFrom_outside a j bs h]
  rcases h with h | h
  · rw [lookup_filter_of_keeps m j (fun k => decide (k < a)) (by simpa using h),
      lookup_filter_of_drops m j (fun k => decide (a + bs.length ≤ k)) (by simp; omega)]
    simp
  · rw [lookup_filter_of_drops m j (fun k => decide (k < a)) (by simp; omega),
      lookup_filter_of_keeps m j (fun k => decide (a + bs.length ≤ k)) (by simpa using h)]
    simp

theorem Memory.read_write_inside (m : Memory) (a i : Nat) (bs : List Byte) (h : i < bs.length)
    (hm : a + i < memSize) : (Memory.write m a bs).read (a + i) = bs[i] := by
  have below := lookup_filter_of_drops m (a + i) (fun k => decide (k < a)) (by simp)
  have above := lookup_filter_of_drops m (a + i) (fun k => decide (a + bs.length ≤ k)) (by simp; omega)
  simp only [Memory.read, Memory.write, lookup_append, below, above]
  simpa using lookup_cellsFrom_inside a i bs h hm

@[simp] theorem readByte_writeBytes_outside (s : State) (a j : Nat) (bs : List Byte)
    (h : j < a ∨ a + bs.length ≤ j) : readByte (writeBytes a bs s) j = readByte s j :=
  Memory.read_write_outside s.mem a j bs h

theorem readByte_writeBytes_inside (s : State) (a i : Nat) (bs : List Byte) (h : i < bs.length)
    (hm : a + i < memSize) : readByte (writeBytes a bs s) (a + i) = bs[i] :=
  Memory.read_write_inside s.mem a i bs h hm

@[simp] theorem readByte_writeByte_same (s : State) (a : Nat) (b : Byte) (hm : a < memSize) :
    readByte (writeBytes a [b] s) a = b := by
  simpa using readByte_writeBytes_inside s a 0 [b] (by simp) (by simpa using hm)

/-! ### The canonical form -/

theorem cellsFrom_pairwise (a : Nat) (bs : List Byte) : (cellsFrom a bs).Pairwise fun c d => c.1 < d.1 := by
  induction bs generalizing a with
  | nil => simp [cellsFrom]
  | cons b bs ih =>
    simp only [cellsFrom]
    split
    · exact ih (a + 1)
    · refine List.pairwise_cons.mpr ⟨fun c hc => ?_, ih (a + 1)⟩
      have := cellsFrom_bounds (a + 1) bs c hc
      simp only
      omega

theorem Memory.write_wf (m : Memory) (a : Nat) (bs : List Byte) (h : m.wf) : (Memory.write m a bs).wf := by
  obtain ⟨sorted, listed⟩ := h
  refine ⟨?_, ?_⟩
  · simp only [Memory.write, List.pairwise_append]
    refine ⟨⟨sorted.filter _, cellsFrom_pairwise a bs, ?_⟩, sorted.filter _, ?_⟩
    · intro c hc d hd
      have := cellsFrom_bounds a bs d hd
      simp only [List.mem_filter, decide_eq_true_eq] at hc
      omega
    · intro c hc d hd
      simp only [List.mem_filter, decide_eq_true_eq] at hd
      rcases List.mem_append.mp hc with hc | hc
      · simp only [List.mem_filter, decide_eq_true_eq] at hc
        omega
      · have := cellsFrom_bounds a bs c hc
        omega
  · intro c hc
    simp only [Memory.write, List.mem_append, List.mem_filter] at hc
    rcases hc with (hc | hc) | hc
    · exact listed c hc.1
    · have := cellsFrom_bounds a bs c hc
      exact ⟨this.2.2.1, this.2.2.2⟩
    · exact listed c hc.1

theorem writeBytes_wf (a : Nat) (bs : List Byte) (s : State) (h : s.mem.wf) : (writeBytes a bs s).mem.wf :=
  Memory.write_wf s.mem a bs h

/-! ### The arbiter (R2) -/

section
variable (s : State) (h : s.port.turns = [])
include h

@[simp] theorem giveWay_idle : giveWay s = s := by simp [giveWay, h]
@[simp] theorem landAll_idle : landAll s = s := by simp [landAll, h]
@[simp] theorem deviceRead_idle (a : Nat) : deviceRead a s = (s, readByte s a) := by simp [deviceRead, h]
@[simp] theorem deviceWrite_idle (a : Nat) (bs : List Byte) : deviceWrite a bs s = writeBytes a bs s := by
  simp [deviceWrite, h]
@[simp] theorem gather_idle (addrs : List Nat) : gather addrs s = { view := s, state := s } := by simp [gather, h]
@[simp] theorem recheck_idle (a : Nat) (m e : Byte) : recheck a m e s = (s, decide (readByte s a &&& m = e)) := by
  simp [recheck, h]
end

/-- Bytes written in two parts are the bytes written at once. -/
theorem Memory.write_write (m : Memory) (a : Nat) (b : Byte) (bs : List Byte) :
    Memory.write (Memory.write m a [b]) (a + 1) bs = Memory.write m a (b :: bs) := by
  have low : (cellsFrom a [b]).filter (fun c => decide (c.1 < a + 1)) = cellsFrom a [b] := by
    apply List.filter_eq_self.mpr
    intro c hc
    have := cellsFrom_bounds a [b] c hc
    simp at this ⊢
    omega
  have high : (cellsFrom a [b]).filter (fun c => decide (a + 1 + bs.length ≤ c.1)) = [] := by
    apply List.filter_eq_nil_iff.mpr
    intro c hc
    have := cellsFrom_bounds a [b] c hc
    simp at this ⊢
    omega
  have join : cellsFrom a (b :: bs) = cellsFrom a [b] ++ cellsFrom (a + 1) bs := by
    simp only [cellsFrom]
    split <;> simp
  have f1 : ∀ c : Host.Cell, (decide (c.1 < a) && decide (c.1 < a + 1)) = decide (c.1 < a) := by
    intro c; rw [Bool.eq_iff_iff]; simp; omega
  have f2 : ∀ c : Host.Cell, (decide (a + 1 ≤ c.1) && decide (c.1 < a + 1)) = false := by
    intro c; simp
  have f3 : ∀ c : Host.Cell, (decide (c.1 < a) && decide (a + 1 + bs.length ≤ c.1)) = false := by
    intro c; simp; omega
  have f4 : ∀ c : Host.Cell, (decide (a + 1 ≤ c.1) && decide (a + 1 + bs.length ≤ c.1)) =
      decide (a + (bs.length + 1) ≤ c.1) := by
    intro c; rw [Bool.eq_iff_iff]; simp; omega
  simp only [Memory.write, List.filter_append, List.filter_filter, low, high, join, List.length_cons, List.length_nil,
    Nat.zero_add, Bool.and_comm (decide (_ < a + 1)), Bool.and_comm (decide (a + 1 + bs.length ≤ _)), f1, f2, f3, f4,
    List.filter_false]
  simp

/-- With no host access waiting, bytes written one after the other are the bytes written at once. -/
theorem writeEach_idle (a : Nat) (bs : List Byte) (s : State) (h : s.port.turns = []) (hb : bs ≠ []) :
    writeEach a bs s = writeBytes a bs s := by
  induction bs generalizing a s with
  | nil => exact absurd rfl hb
  | cons b bs ih =>
    have hw : (writeBytes a [b] s).port.turns = [] := h
    rw [writeEach, giveWay_idle s h]
    rcases bs with _ | ⟨c, cs⟩
    · rfl
    · rw [ih (a + 1) _ hw (by simp)]
      simp only [writeBytes, State.onMem, Memory.write_write]

/-! ### The canonical form is kept by every operation -/

theorem transfer_wf (a : BitVec 15) (d : Option Byte) (s : State) (h : s.mem.wf) : (transfer a d s).mem.wf := by
  unfold transfer
  split
  · exact writeBytes_wf _ _ _ h
  · exact h

theorem landTurn_wf (s : State) (t : HostTurn) (h : s.mem.wf) : (landTurn s t).mem.wf := transfer_wf _ _ _ h

theorem landReady_wf (ts : List HostTurn) (s : State) (h : s.mem.wf) : (landReady ts s).mem.wf := by
  induction ts generalizing s with
  | nil => exact h
  | cons t ts ih =>
    unfold landReady
    split
    · exact ih _ (landTurn_wf s t h)
    · exact h

theorem giveWay_wf (s : State) (h : s.mem.wf) : (giveWay s).mem.wf := by
  unfold giveWay
  split
  · exact h
  · exact landReady_wf _ _ h

theorem landAll_wf (s : State) (h : s.mem.wf) : (landAll s).mem.wf := by
  have turns : ∀ (ts : List HostTurn) (t : State), t.mem.wf → (ts.foldl landTurn t).mem.wf := by
    intro ts
    induction ts with
    | nil => exact fun _ h => h
    | cons u us ih => exact fun t h => ih _ (landTurn_wf t u h)
  unfold landAll
  split
  · exact h
  · exact turns _ _ h

theorem deviceRead_wf (a : Nat) (s : State) (h : s.mem.wf) : (deviceRead a s).1.mem.wf := giveWay_wf s h

theorem writeEach_wf (a : Nat) (bs : List Byte) (s : State) (h : s.mem.wf) : (writeEach a bs s).mem.wf := by
  induction bs generalizing a s with
  | nil => exact h
  | cons b bs ih => exact ih _ _ (writeBytes_wf _ _ _ (giveWay_wf s h))

theorem deviceWrite_wf (a : Nat) (bs : List Byte) (s : State) (h : s.mem.wf) : (deviceWrite a bs s).mem.wf := by
  unfold deviceWrite
  split
  · exact writeBytes_wf _ _ _ h
  · exact writeEach_wf _ _ _ h

theorem gather_wf (addrs : List Nat) (s : State) (h : s.mem.wf) : (gather addrs s).state.mem.wf := by
  have each : ∀ (as : List Nat) (t : State), t.mem.wf → (readEach as t).1.mem.wf := by
    intro as
    induction as with
    | nil => exact fun _ h => h
    | cons a as ih => exact fun t h => ih _ (deviceRead_wf a t h)
  unfold gather
  split
  · exact h
  · exact each _ _ h

theorem recheck_wf (a : Nat) (mask expect : Byte) (s : State) (h : s.mem.wf) :
    (recheck a mask expect s).1.mem.wf := deviceRead_wf a s h

theorem foldl_deviceWrite_wf (fields : List (Nat × List Byte)) (s : State) (h : s.mem.wf) :
    (fields.foldl (fun t f => deviceWrite f.1 f.2 t) s).mem.wf := by
  induction fields generalizing s with
  | nil => exact h
  | cons f fs ih => exact ih _ (deviceWrite_wf _ _ _ h)

theorem updateBlock_wf (countAt : Nat) (fields : List (Nat × List Byte)) (s : State) (h : s.mem.wf) :
    (updateBlock countAt fields s).mem.wf :=
  deviceWrite_wf _ _ _ (foldl_deviceWrite_wf _ _ (deviceWrite_wf _ _ _ (deviceRead_wf _ _ h)))

theorem reset_memory_wf : State.reset.mem.wf := by decide

end Sys2Proof.Machine
end

