-- ==== Sys2Proof/Laws/RaceFrames.lean ====
section
/-! SUPPORT. What the operations of race control, the lap books and lap assembly leave alone: for each, one conjunct for each
block it does not touch. Tagged @[simp], so that no later proof
unfolds an operation to see what it keeps. -/

namespace Sys2Proof.Machine

@[simp] theorem heatNotice_keeps (sub : Nat) (label : Byte) (x : Stamp) (b : Nat) (s : State) :
    (heatNotice sub label x b s).pending = s.pending ∧ (heatNotice sub label x b s).phase = s.phase ∧
    (heatNotice sub label x b s).time = s.time ∧ (heatNotice sub label x b s).gates = s.gates ∧
    (heatNotice sub label x b s).race = s.race ∧ (heatNotice sub label x b s).laps = s.laps ∧
    (heatNotice sub label x b s).pen = s.pen ∧ (heatNotice sub label x b s).power = s.power ∧
    (heatNotice sub label x b s).stand = s.stand ∧ (heatNotice sub label x b s).pins = s.pins := by
  simp [heatNotice]

@[simp] theorem refuseEntry_keeps (r : Nat) (label : Byte) (s : State) :
    (refuseEntry r label s).pending = s.pending ∧ (refuseEntry r label s).phase = s.phase ∧
    (refuseEntry r label s).time = s.time ∧ (refuseEntry r label s).gates = s.gates ∧
    (refuseEntry r label s).race = s.race ∧ (refuseEntry r label s).laps = s.laps ∧
    (refuseEntry r label s).pen = s.pen ∧ (refuseEntry r label s).power = s.power ∧
    (refuseEntry r label s).stand = s.stand ∧ (refuseEntry r label s).pins = s.pins := by
  generalize e : refuseEntry r label s = t
  simp only [refuseEntry] at e
  (repeat' split at e) <;> subst e <;> simp

@[simp] theorem createEntry_keeps (s : State) (e : Byte × Fin 64) :
    (createEntry s e).pending = s.pending ∧ (createEntry s e).phase = s.phase ∧ (createEntry s e).time = s.time ∧
    (createEntry s e).gates = s.gates ∧ (createEntry s e).race = s.race ∧ (createEntry s e).laps = s.laps ∧
    (createEntry s e).pen = s.pen ∧ (createEntry s e).power = s.power ∧ (createEntry s e).stand = s.stand ∧
    (createEntry s e).pins = s.pins := by
  simp [createEntry]

@[simp] theorem createTally_keeps (es : List (Byte × Fin 64)) (s : State) :
    (createTally es s).pending = s.pending ∧ (createTally es s).phase = s.phase ∧ (createTally es s).time = s.time ∧
    (createTally es s).gates = s.gates ∧ (createTally es s).race = s.race ∧ (createTally es s).laps = s.laps ∧
    (createTally es s).pen = s.pen ∧ (createTally es s).power = s.power ∧ (createTally es s).stand = s.stand ∧
    (createTally es s).pins = s.pins := by
  simp only [createTally]
  induction es generalizing s with
  | nil => simp
  | cons e es ih => simp [ih]

@[simp] theorem setLamps_keeps (v : BitVec 7) (s : State) :
    (setLamps v s).pending = s.pending ∧ (setLamps v s).phase = s.phase ∧ (setLamps v s).mem = s.mem ∧
    (setLamps v s).port = s.port ∧ (setLamps v s).time = s.time ∧ (setLamps v s).gates = s.gates ∧
    (setLamps v s).laps = s.laps ∧ (setLamps v s).pen = s.pen ∧ (setLamps v s).power = s.power ∧
    (setLamps v s).stand = s.stand ∧ (setLamps v s).pins = s.pins := by
  simp [setLamps]

@[simp] theorem enterCountdown_keeps (x : Stamp) (s : State) :
    (enterCountdown x s).pending = s.pending ∧ (enterCountdown x s).phase = s.phase ∧
    (enterCountdown x s).time = s.time ∧ (enterCountdown x s).gates = s.gates ∧ (enterCountdown x s).pen = s.pen ∧
    (enterCountdown x s).stand = s.stand ∧ (enterCountdown x s).pins = s.pins := by
  generalize e : enterCountdown x s = t
  simp only [enterCountdown] at e
  (repeat' split at e) <;> subst e <;> simp

@[simp] theorem enterGreen_keeps (x : Stamp) (s : State) :
    (enterGreen x s).pending = s.pending ∧ (enterGreen x s).phase = s.phase ∧ (enterGreen x s).gates = s.gates ∧
    (enterGreen x s).pen = s.pen ∧ (enterGreen x s).stand = s.stand ∧ (enterGreen x s).pins = s.pins := by
  generalize e : enterGreen x s = t
  simp only [enterGreen] at e
  (repeat' split at e) <;> subst e <;> simp

@[simp] theorem jumpOnce_keeps (k : Lane) (x : Stamp) (s : State) :
    (jumpOnce k x s).pending = s.pending ∧ (jumpOnce k x s).phase = s.phase ∧ (jumpOnce k x s).time = s.time ∧
    (jumpOnce k x s).gates = s.gates ∧ (jumpOnce k x s).laps = s.laps ∧ (jumpOnce k x s).power = s.power ∧
    (jumpOnce k x s).pins = s.pins := by
  generalize e : jumpOnce k x s = t
  simp only [jumpOnce] at e
  (repeat' split at e) <;> subst e <;> simp

@[simp] theorem jumpCrossing_keeps (k : Lane) (x : Stamp) (s : State) :
    (jumpCrossing k x s).pending = s.pending ∧ (jumpCrossing k x s).phase = s.phase ∧
    (jumpCrossing k x s).time = s.time ∧ (jumpCrossing k x s).gates = s.gates ∧ (jumpCrossing k x s).laps = s.laps ∧
    (jumpCrossing k x s).power = s.power ∧ (jumpCrossing k x s).pins = s.pins := by
  generalize e : jumpCrossing k x s = t
  simp only [jumpCrossing] at e
  (repeat' split at e) <;> subst e <;> simp

@[simp] theorem stage_keeps (h : HeatSnapshot) (es : List (Byte × Fin 64)) (x : Stamp) (s : State) :
    (stage h es x s).pending = s.pending ∧ (stage h es x s).phase = s.phase ∧ (stage h es x s).gates = s.gates ∧
    (stage h es x s).pins = s.pins := by
  generalize e : stage h es x s = t
  simp only [stage] at e
  (repeat' split at e) <;> subst e <;> simp

@[simp] theorem stageEntry_keeps (h : HeatSnapshot) (es : List (Byte × Fin 64)) (s : State) :
    (stageEntry h es s).pending = s.pending ∧ (stageEntry h es s).phase = s.phase ∧
    (stageEntry h es s).gates = s.gates ∧ (stageEntry h es s).pins = s.pins := by
  generalize e : stageEntry h es s = t
  simp only [stageEntry] at e
  (repeat' split at e) <;> subst e <;> simp

@[simp] theorem examineEntry_keeps (s : State) :
    (examineEntry s).pending = s.pending ∧ (examineEntry s).phase = s.phase ∧ (examineEntry s).gates = s.gates ∧
    (examineEntry s).pins = s.pins := by
  generalize e : examineEntry s = t
  simp only [examineEntry] at e
  (repeat' split at e) <;> subst e <;> simp

@[simp] theorem examineCard_keeps (s : State) :
    (examineCard s).pending = s.pending ∧ (examineCard s).phase = s.phase ∧ (examineCard s).gates = s.gates ∧
    (examineCard s).pins = s.pins := by
  generalize e : examineCard s = t
  simp only [examineCard] at e
  (repeat' split at e) <;> subst e <;> simp

@[simp] theorem expireRunout_keeps (x : Stamp) (s : State) :
    (expireRunout x s).pending = s.pending ∧ (expireRunout x s).phase = s.phase ∧ (expireRunout x s).mem = s.mem ∧
    (expireRunout x s).port = s.port ∧ (expireRunout x s).time = s.time ∧ (expireRunout x s).gates = s.gates ∧
    (expireRunout x s).pen = s.pen ∧ (expireRunout x s).power = s.power ∧ (expireRunout x s).stand = s.stand ∧
    (expireRunout x s).pins = s.pins := by
  simp [expireRunout]

@[simp] theorem runoutNotice_keeps (c : Nat) (b : Option Lane) (x : Stamp) (s : State) :
    (runoutNotice c b x s).pending = s.pending ∧ (runoutNotice c b x s).phase = s.phase ∧
    (runoutNotice c b x s).time = s.time ∧ (runoutNotice c b x s).gates = s.gates ∧
    (runoutNotice c b x s).race = s.race ∧ (runoutNotice c b x s).laps = s.laps ∧ (runoutNotice c b x s).pen = s.pen ∧
    (runoutNotice c b x s).power = s.power ∧ (runoutNotice c b x s).stand = s.stand ∧
    (runoutNotice c b x s).pins = s.pins := by
  generalize e : runoutNotice c b x s = t
  simp only [runoutNotice] at e
  (repeat' split at e) <;> subst e <;> simp

@[simp] theorem enterRunout_keeps (x : Stamp) (c : Nat) (b : Option Lane) (s : State) :
    (enterRunout x c b s).pending = s.pending ∧ (enterRunout x c b s).phase = s.phase ∧
    (enterRunout x c b s).time = s.time ∧ (enterRunout x c b s).gates = s.gates ∧ (enterRunout x c b s).pen = s.pen ∧
    (enterRunout x c b s).stand = s.stand ∧ (enterRunout x c b s).pins = s.pins := by
  generalize e : enterRunout x c b s = t
  simp only [enterRunout] at e
  (repeat' split at e) <;> subst e <;> simp

@[simp] theorem limitInCall_keeps (x : Stamp) (k : Lane) (s : State) :
    (limitInCall x k s).pending = s.pending ∧ (limitInCall x k s).phase = s.phase ∧
    (limitInCall x k s).time = s.time ∧ (limitInCall x k s).gates = s.gates ∧ (limitInCall x k s).pen = s.pen ∧
    (limitInCall x k s).power = s.power ∧ (limitInCall x k s).stand = s.stand ∧ (limitInCall x k s).pins = s.pins := by
  simp [limitInCall]

@[simp] theorem lapCompleted_keeps (k : Lane) (x : Stamp) (v : RaceView) (s : State) :
    ((lapCompleted k x v s).1).pending = s.pending ∧ ((lapCompleted k x v s).1).phase = s.phase ∧
    ((lapCompleted k x v s).1).time = s.time ∧ ((lapCompleted k x v s).1).gates = s.gates ∧
    ((lapCompleted k x v s).1).pen = s.pen ∧ ((lapCompleted k x v s).1).stand = s.stand ∧
    ((lapCompleted k x v s).1).pins = s.pins := by
  generalize e : (lapCompleted k x v s).1 = t
  simp only [lapCompleted] at e
  (repeat' split at e) <;> subst e <;> simp

@[simp] theorem timeIdle_keeps (x : Stamp) (s : State) :
    (timeIdle x s).pending = s.pending ∧ (timeIdle x s).phase = s.phase ∧ (timeIdle x s).mem = s.mem ∧
    (timeIdle x s).port = s.port ∧ (timeIdle x s).gates = s.gates ∧ (timeIdle x s).race = s.race ∧
    (timeIdle x s).laps = s.laps ∧ (timeIdle x s).pen = s.pen ∧ (timeIdle x s).power = s.power ∧
    (timeIdle x s).stand = s.stand ∧ (timeIdle x s).pins = s.pins := by
  simp [timeIdle]

@[simp] theorem settle_keeps (x : Stamp) (s : State) :
    (settle x s).pending = s.pending ∧ (settle x s).phase = s.phase ∧ (settle x s).gates = s.gates ∧
    (settle x s).stand = s.stand ∧ (settle x s).pins = s.pins := by
  generalize e : settle x s = t
  simp only [settle] at e
  (repeat' split at e) <;> subst e <;> simp

@[simp] theorem raceFinish_keeps (k : Lane) (x : Stamp) (s : State) :
    (raceFinish k x s).pending = s.pending ∧ (raceFinish k x s).phase = s.phase ∧ (raceFinish k x s).gates = s.gates ∧
    (raceFinish k x s).stand = s.stand ∧ (raceFinish k x s).pins = s.pins := by
  generalize e : raceFinish k x s = t
  simp only [raceFinish] at e
  (repeat' split at e) <;> subst e <;> simp

@[simp] theorem abortHeat_keeps (x : Stamp) (s : State) :
    (abortHeat x s).pending = s.pending ∧ (abortHeat x s).phase = s.phase ∧ (abortHeat x s).gates = s.gates ∧
    (abortHeat x s).stand = s.stand ∧ (abortHeat x s).pins = s.pins := by
  generalize e : abortHeat x s = t
  simp only [abortHeat] at e
  (repeat' split at e) <;> subst e <;> simp

@[simp] theorem countCall_keeps (o : CallOrigin) (s : State) :
    (countCall o s).pending = s.pending ∧ (countCall o s).phase = s.phase ∧ (countCall o s).mem = s.mem ∧
    (countCall o s).port = s.port ∧ (countCall o s).time = s.time ∧ (countCall o s).gates = s.gates ∧
    (countCall o s).laps = s.laps ∧ (countCall o s).pen = s.pen ∧ (countCall o s).power = s.power ∧
    (countCall o s).stand = s.stand ∧ (countCall o s).pins = s.pins := by
  generalize e : countCall o s = t
  simp only [countCall] at e
  (repeat' split at e) <;> subst e <;> simp

@[simp] theorem callNotice_keeps (o : CallOrigin) (n : Nat) (x : Stamp) (s : State) :
    (callNotice o n x s).pending = s.pending ∧ (callNotice o n x s).phase = s.phase ∧
    (callNotice o n x s).time = s.time ∧ (callNotice o n x s).gates = s.gates ∧ (callNotice o n x s).race = s.race ∧
    (callNotice o n x s).laps = s.laps ∧ (callNotice o n x s).pen = s.pen ∧ (callNotice o n x s).power = s.power ∧
    (callNotice o n x s).stand = s.stand ∧ (callNotice o n x s).pins = s.pins := by
  generalize e : callNotice o n x s = t
  simp only [callNotice] at e
  (repeat' split at e) <;> subst e <;> simp

@[simp] theorem chargeCall_keeps (o : CallOrigin) (n : Nat) (x : Stamp) (s : State) :
    (chargeCall o n x s).pending = s.pending ∧ (chargeCall o n x s).phase = s.phase ∧
    (chargeCall o n x s).time = s.time ∧ (chargeCall o n x s).gates = s.gates ∧ (chargeCall o n x s).laps = s.laps ∧
    (chargeCall o n x s).power = s.power ∧ (chargeCall o n x s).pins = s.pins := by
  generalize e : chargeCall o n x s = t
  simp only [chargeCall] at e
  (repeat' split at e) <;> subst e <;> simp

@[simp] theorem callRestage_keeps (o : CallOrigin) (x : Stamp) (s : State) :
    (callRestage o x s).pending = s.pending ∧ (callRestage o x s).phase = s.phase ∧
    (callRestage o x s).time = s.time ∧ (callRestage o x s).gates = s.gates ∧ (callRestage o x s).pins = s.pins := by
  simp [callRestage]

@[simp] theorem callStart_keeps (o : CallOrigin) (x : Stamp) (s : State) :
    (callStart o x s).pending = s.pending ∧ (callStart o x s).phase = s.phase ∧ (callStart o x s).gates = s.gates ∧
    (callStart o x s).pins = s.pins := by
  generalize e : callStart o x s = t
  simp only [callStart] at e
  (repeat' split at e) <;> subst e <;> simp

@[simp] theorem callMerge_keeps (o : CallOrigin) (x : Stamp) (s : State) :
    (callMerge o x s).pending = s.pending ∧ (callMerge o x s).phase = s.phase ∧ (callMerge o x s).time = s.time ∧
    (callMerge o x s).gates = s.gates ∧ (callMerge o x s).race = s.race ∧ (callMerge o x s).laps = s.laps ∧
    (callMerge o x s).pen = s.pen ∧ (callMerge o x s).power = s.power ∧ (callMerge o x s).stand = s.stand ∧
    (callMerge o x s).pins = s.pins := by
  simp [callMerge]

@[simp] theorem callAgain_keeps (o : CallOrigin) (x : Stamp) (s : State) :
    (callAgain o x s).pending = s.pending ∧ (callAgain o x s).phase = s.phase ∧ (callAgain o x s).time = s.time ∧
    (callAgain o x s).gates = s.gates ∧ (callAgain o x s).pins = s.pins := by
  simp [callAgain]

@[simp] theorem takeCall_keeps (o : CallOrigin) (x : Stamp) (s : State) :
    (takeCall o x s).pending = s.pending ∧ (takeCall o x s).phase = s.phase ∧ (takeCall o x s).gates = s.gates ∧
    (takeCall o x s).pins = s.pins := by
  generalize e : takeCall o x s = t
  simp only [takeCall] at e
  (repeat' split at e) <;> subst e <;> simp

@[simp] theorem resumeNotice_keeps (sub : Nat) (x : Stamp) (b : Nat) (s : State) :
    (resumeNotice sub x b s).pending = s.pending ∧ (resumeNotice sub x b s).phase = s.phase ∧
    (resumeNotice sub x b s).time = s.time ∧ (resumeNotice sub x b s).gates = s.gates ∧
    (resumeNotice sub x b s).race = s.race ∧ (resumeNotice sub x b s).laps = s.laps ∧
    (resumeNotice sub x b s).pen = s.pen ∧ (resumeNotice sub x b s).power = s.power ∧
    (resumeNotice sub x b s).stand = s.stand ∧ (resumeNotice sub x b s).pins = s.pins := by
  simp [resumeNotice]

@[simp] theorem beginResume_keeps (x : Stamp) (s : State) :
    (beginResume x s).pending = s.pending ∧ (beginResume x s).phase = s.phase ∧ (beginResume x s).time = s.time ∧
    (beginResume x s).gates = s.gates ∧ (beginResume x s).pen = s.pen ∧ (beginResume x s).stand = s.stand ∧
    (beginResume x s).pins = s.pins := by
  simp [beginResume]

@[simp] theorem finishResume_keeps (x : Stamp) (s : State) :
    (finishResume x s).pending = s.pending ∧ (finishResume x s).phase = s.phase ∧ (finishResume x s).gates = s.gates ∧
    (finishResume x s).pen = s.pen ∧ (finishResume x s).stand = s.stand ∧ (finishResume x s).pins = s.pins := by
  generalize e : finishResume x s = t
  simp only [finishResume] at e
  (repeat' split at e) <;> subst e <;> simp

@[simp] theorem pageOpen_keeps (k : Lane) (s : State) :
    ((pageOpen k s).1).pending = s.pending ∧ ((pageOpen k s).1).phase = s.phase ∧ ((pageOpen k s).1).time = s.time ∧
    ((pageOpen k s).1).gates = s.gates ∧ ((pageOpen k s).1).race = s.race ∧ ((pageOpen k s).1).laps = s.laps ∧
    ((pageOpen k s).1).pen = s.pen ∧ ((pageOpen k s).1).power = s.power ∧ ((pageOpen k s).1).stand = s.stand ∧
    ((pageOpen k s).1).pins = s.pins := by
  simp [pageOpen]

@[simp] theorem writePage_keeps (k : Lane) (h : HeldLap) (s : State) :
    ((writePage k h s).1).pending = s.pending ∧ ((writePage k h s).1).phase = s.phase ∧
    ((writePage k h s).1).time = s.time ∧ ((writePage k h s).1).gates = s.gates ∧
    ((writePage k h s).1).race = s.race ∧ ((writePage k h s).1).pen = s.pen ∧ ((writePage k h s).1).power = s.power ∧
    ((writePage k h s).1).stand = s.stand ∧ ((writePage k h s).1).pins = s.pins := by
  generalize e : (writePage k h s).1 = t
  simp only [writePage] at e
  (repeat' split at e) <;> subst e <;> simp

@[simp] theorem retryLaps_keeps (k : Lane) (q : List HeldLap) (s : State) :
    (retryLaps k q s).pending = s.pending ∧ (retryLaps k q s).phase = s.phase ∧ (retryLaps k q s).time = s.time ∧
    (retryLaps k q s).gates = s.gates ∧ (retryLaps k q s).race = s.race ∧ (retryLaps k q s).pen = s.pen ∧
    (retryLaps k q s).power = s.power ∧ (retryLaps k q s).stand = s.stand ∧ (retryLaps k q s).pins = s.pins := by
  induction q generalizing s with
  | nil => simp [retryLaps]
  | cons h rest ih =>
    generalize e : retryLaps k (h :: rest) s = t
    simp only [retryLaps] at e
    (repeat' split at e) <;> subst e <;> simp [ih]

@[simp] theorem retryBook_keeps (k : Lane) (s : State) :
    (retryBook k s).pending = s.pending ∧ (retryBook k s).phase = s.phase ∧ (retryBook k s).time = s.time ∧
    (retryBook k s).gates = s.gates ∧ (retryBook k s).race = s.race ∧ (retryBook k s).pen = s.pen ∧
    (retryBook k s).power = s.power ∧ (retryBook k s).stand = s.stand ∧ (retryBook k s).pins = s.pins := by
  simp [retryBook]

@[simp] theorem retryEach_keeps (ks : List Lane) (s : State) :
    ((ks.foldl (fun s k => retryBook k s) s)).pending = s.pending ∧
    ((ks.foldl (fun s k => retryBook k s) s)).phase = s.phase ∧
    ((ks.foldl (fun s k => retryBook k s) s)).time = s.time ∧
    ((ks.foldl (fun s k => retryBook k s) s)).gates = s.gates ∧
    ((ks.foldl (fun s k => retryBook k s) s)).race = s.race ∧ ((ks.foldl (fun s k => retryBook k s) s)).pen = s.pen ∧
    ((ks.foldl (fun s k => retryBook k s) s)).power = s.power ∧
    ((ks.foldl (fun s k => retryBook k s) s)).stand = s.stand ∧
    ((ks.foldl (fun s k => retryBook k s) s)).pins = s.pins := by
  induction ks generalizing s with
  | nil => simp
  | cons k ks ih => simp [ih]

@[simp] theorem retryBooks_keeps (s : State) :
    (retryBooks s).pending = s.pending ∧ (retryBooks s).phase = s.phase ∧ (retryBooks s).time = s.time ∧
    (retryBooks s).gates = s.gates ∧ (retryBooks s).race = s.race ∧ (retryBooks s).pen = s.pen ∧
    (retryBooks s).power = s.power ∧ (retryBooks s).stand = s.stand ∧ (retryBooks s).pins = s.pins := by
  simp [retryBooks]

@[simp] theorem acceptLap_keeps (k : Lane) (r : LapRecord) (s : State) :
    ((acceptLap k r s).1).pending = s.pending ∧ ((acceptLap k r s).1).phase = s.phase ∧
    ((acceptLap k r s).1).mem = s.mem ∧ ((acceptLap k r s).1).port = s.port ∧ ((acceptLap k r s).1).time = s.time ∧
    ((acceptLap k r s).1).gates = s.gates ∧ ((acceptLap k r s).1).race = s.race ∧ ((acceptLap k r s).1).pen = s.pen ∧
    ((acceptLap k r s).1).power = s.power ∧ ((acceptLap k r s).1).stand = s.stand ∧
    ((acceptLap k r s).1).pins = s.pins := by
  simp [acceptLap]

@[simp] theorem holdLap_keeps (k : Lane) (h : HeldLap) (s : State) :
    (holdLap k h s).pending = s.pending ∧ (holdLap k h s).phase = s.phase ∧ (holdLap k h s).mem = s.mem ∧
    (holdLap k h s).port = s.port ∧ (holdLap k h s).time = s.time ∧ (holdLap k h s).gates = s.gates ∧
    (holdLap k h s).race = s.race ∧ (holdLap k h s).pen = s.pen ∧ (holdLap k h s).power = s.power ∧
    (holdLap k h s).stand = s.stand ∧ (holdLap k h s).pins = s.pins := by
  simp [holdLap]

@[simp] theorem arriveLap_keeps (k : Lane) (r : LapRecord) (s : State) :
    (arriveLap k r s).pending = s.pending ∧ (arriveLap k r s).phase = s.phase ∧ (arriveLap k r s).time = s.time ∧
    (arriveLap k r s).gates = s.gates ∧ (arriveLap k r s).race = s.race ∧ (arriveLap k r s).pen = s.pen ∧
    (arriveLap k r s).power = s.power ∧ (arriveLap k r s).stand = s.stand ∧ (arriveLap k r s).pins = s.pins := by
  generalize e : arriveLap k r s = t
  simp only [arriveLap] at e
  (repeat' split at e) <;> subst e <;> simp

@[simp] theorem markServices_keeps (k : Lane) (s : State) :
    (markServices k s).pending = s.pending ∧ (markServices k s).phase = s.phase ∧ (markServices k s).mem = s.mem ∧
    (markServices k s).port = s.port ∧ (markServices k s).time = s.time ∧ (markServices k s).gates = s.gates ∧
    (markServices k s).race = s.race ∧ (markServices k s).pen = s.pen ∧ (markServices k s).power = s.power ∧
    (markServices k s).stand = s.stand ∧ (markServices k s).pins = s.pins := by
  simp [markServices]

@[simp] theorem takeFold_keeps (k : Lane) (s : State) :
    (takeFold k s).pending = s.pending ∧ (takeFold k s).phase = s.phase ∧ (takeFold k s).mem = s.mem ∧
    (takeFold k s).port = s.port ∧ (takeFold k s).time = s.time ∧ (takeFold k s).gates = s.gates ∧
    (takeFold k s).race = s.race ∧ (takeFold k s).pen = s.pen ∧ (takeFold k s).power = s.power ∧
    (takeFold k s).stand = s.stand ∧ (takeFold k s).pins = s.pins := by
  simp [takeFold]

@[simp] theorem anomaly_keeps (sub : Nat) (c : Crossing) (a b : Nat) (s : State) :
    (anomaly sub c a b s).pending = s.pending ∧ (anomaly sub c a b s).phase = s.phase ∧
    (anomaly sub c a b s).time = s.time ∧ (anomaly sub c a b s).gates = s.gates ∧
    (anomaly sub c a b s).race = s.race ∧ (anomaly sub c a b s).laps = s.laps ∧ (anomaly sub c a b s).pen = s.pen ∧
    (anomaly sub c a b s).power = s.power ∧ (anomaly sub c a b s).stand = s.stand ∧
    (anomaly sub c a b s).pins = s.pins := by
  simp [anomaly]

@[simp] theorem finishLane_keeps (k : Lane) (x : Stamp) (b : Bool) (s : State) :
    (finishLane k x b s).pending = s.pending ∧ (finishLane k x b s).phase = s.phase ∧
    (finishLane k x b s).gates = s.gates ∧ (finishLane k x b s).pins = s.pins := by
  simp [finishLane]

@[simp] theorem startLap_keeps (k : Lane) (x : Stamp) (s : State) :
    (startLap k x s).pending = s.pending ∧ (startLap k x s).phase = s.phase ∧ (startLap k x s).mem = s.mem ∧
    (startLap k x s).port = s.port ∧ (startLap k x s).time = s.time ∧ (startLap k x s).gates = s.gates ∧
    (startLap k x s).race = s.race ∧ (startLap k x s).pen = s.pen ∧ (startLap k x s).power = s.power ∧
    (startLap k x s).stand = s.stand ∧ (startLap k x s).pins = s.pins := by
  simp [startLap]

@[simp] theorem completeLap_keeps (c : Crossing) (v : RaceView) (s : State) :
    (completeLap c v s).pending = s.pending ∧ (completeLap c v s).phase = s.phase ∧
    (completeLap c v s).gates = s.gates ∧ (completeLap c v s).pins = s.pins := by
  generalize e : completeLap c v s = t
  simp only [completeLap] at e
  (repeat' split at e) <;> subst e <;> simp

@[simp] theorem acceptCrossing_keeps (c : Crossing) (how : Accepted) (mark : LapLane → LapLane) (s : State) :
    (acceptCrossing c how mark s).pending = s.pending ∧ (acceptCrossing c how mark s).phase = s.phase ∧
    (acceptCrossing c how mark s).gates = s.gates ∧ (acceptCrossing c how mark s).pins = s.pins := by
  generalize e : acceptCrossing c how mark s = t
  simp only [acceptCrossing] at e
  (repeat' split at e) <;> subst e <;> simp

@[simp] theorem startGrid_keeps (c : Crossing) (s : State) :
    (startGrid c s).pending = s.pending ∧ (startGrid c s).phase = s.phase ∧ (startGrid c s).time = s.time ∧
    (startGrid c s).gates = s.gates ∧ (startGrid c s).race = s.race ∧ (startGrid c s).pins = s.pins := by
  simp [startGrid]

@[simp] theorem finishGrid_keeps (c : Crossing) (s : State) :
    (finishGrid c s).pending = s.pending ∧ (finishGrid c s).phase = s.phase ∧ (finishGrid c s).gates = s.gates ∧
    (finishGrid c s).pins = s.pins := by
  simp [finishGrid]

@[simp] theorem takeJump_keeps (c : Crossing) (s : State) :
    (takeJump c s).pending = s.pending ∧ (takeJump c s).phase = s.phase ∧ (takeJump c s).time = s.time ∧
    (takeJump c s).gates = s.gates ∧ (takeJump c s).power = s.power ∧ (takeJump c s).pins = s.pins := by
  generalize e : takeJump c s = t
  simp only [takeJump] at e
  (repeat' split at e) <;> subst e <;> simp

@[simp] theorem applyVerdict_keeps (v : Verdict) (c : Crossing) (s : State) :
    (applyVerdict v c s).pending = s.pending ∧ (applyVerdict v c s).phase = s.phase ∧
    (applyVerdict v c s).gates = s.gates ∧ (applyVerdict v c s).pins = s.pins := by
  cases v <;> simp [applyVerdict]

@[simp] theorem takeCrossing_keeps (o : Orders) (c : Crossing) (s : State) :
    (takeCrossing o c s).pending = s.pending ∧ (takeCrossing o c s).phase = s.phase ∧
    (takeCrossing o c s).gates = s.gates ∧ (takeCrossing o c s).pins = s.pins := by
  generalize e : takeCrossing o c s = t
  simp only [takeCrossing] at e
  (repeat' split at e) <;> subst e <;> simp

@[simp] theorem cutLane_keeps (b : Bool) (x : Stamp) (s : State) (k : Lane) :
    (cutLane b x s k).pending = s.pending ∧ (cutLane b x s k).phase = s.phase ∧ (cutLane b x s k).gates = s.gates ∧
    (cutLane b x s k).pins = s.pins := by
  generalize e : cutLane b x s k = t
  simp only [cutLane] at e
  (repeat' split at e) <;> subst e <;> simp

@[simp] theorem cutLanes_keeps (b : Bool) (x : Stamp) (ks : List Lane) (s : State) :
    ((ks.foldl (cutLane b x) s)).pending = s.pending ∧ ((ks.foldl (cutLane b x) s)).phase = s.phase ∧
    ((ks.foldl (cutLane b x) s)).gates = s.gates ∧ ((ks.foldl (cutLane b x) s)).pins = s.pins := by
  induction ks generalizing s with
  | nil => simp
  | cons k ks ih => simp [ih]

@[simp] theorem abortLane_keeps (x : Stamp) (s : State) (k : Lane) :
    (abortLane x s k).pending = s.pending ∧ (abortLane x s k).phase = s.phase ∧ (abortLane x s k).mem = s.mem ∧
    (abortLane x s k).port = s.port ∧ (abortLane x s k).time = s.time ∧ (abortLane x s k).gates = s.gates ∧
    (abortLane x s k).race = s.race ∧ (abortLane x s k).stand = s.stand ∧ (abortLane x s k).pins = s.pins := by
  generalize e : abortLane x s k = t
  simp only [abortLane] at e
  (repeat' split at e) <;> subst e <;> simp

@[simp] theorem abortLanes_keeps (x : Stamp) (ks : List Lane) (s : State) :
    ((ks.foldl (abortLane x) s)).pending = s.pending ∧ ((ks.foldl (abortLane x) s)).phase = s.phase ∧
    ((ks.foldl (abortLane x) s)).mem = s.mem ∧ ((ks.foldl (abortLane x) s)).port = s.port ∧
    ((ks.foldl (abortLane x) s)).time = s.time ∧ ((ks.foldl (abortLane x) s)).gates = s.gates ∧
    ((ks.foldl (abortLane x) s)).race = s.race ∧ ((ks.foldl (abortLane x) s)).stand = s.stand ∧
    ((ks.foldl (abortLane x) s)).pins = s.pins := by
  induction ks generalizing s with
  | nil => simp
  | cons k ks ih => simp [ih]

@[simp] theorem lapIdle_keeps (s : State) :
    (lapIdle s).pending = s.pending ∧ (lapIdle s).phase = s.phase ∧ (lapIdle s).mem = s.mem ∧
    (lapIdle s).port = s.port ∧ (lapIdle s).time = s.time ∧ (lapIdle s).gates = s.gates ∧ (lapIdle s).race = s.race ∧
    (lapIdle s).pen = s.pen ∧ (lapIdle s).power = s.power ∧ (lapIdle s).stand = s.stand ∧ (lapIdle s).pins = s.pins := by
  simp [lapIdle]

@[simp] theorem lapStaging_keeps (x : Stamp) (label : Byte) (g : Bool) (m : Nat) (rs : PerLane Byte) (s : State) :
    (lapStaging x label g m rs s).pending = s.pending ∧ (lapStaging x label g m rs s).phase = s.phase ∧
    (lapStaging x label g m rs s).mem = s.mem ∧ (lapStaging x label g m rs s).port = s.port ∧
    (lapStaging x label g m rs s).time = s.time ∧ (lapStaging x label g m rs s).gates = s.gates ∧
    (lapStaging x label g m rs s).race = s.race ∧ (lapStaging x label g m rs s).pen = s.pen ∧
    (lapStaging x label g m rs s).power = s.power ∧ (lapStaging x label g m rs s).stand = s.stand ∧
    (lapStaging x label g m rs s).pins = s.pins := by
  simp [lapStaging]

@[simp] theorem lapEnterGreen_keeps (x : Stamp) (s : State) :
    (lapEnterGreen x s).pending = s.pending ∧ (lapEnterGreen x s).phase = s.phase ∧ (lapEnterGreen x s).mem = s.mem ∧
    (lapEnterGreen x s).port = s.port ∧ (lapEnterGreen x s).time = s.time ∧ (lapEnterGreen x s).gates = s.gates ∧
    (lapEnterGreen x s).race = s.race ∧ (lapEnterGreen x s).pen = s.pen ∧ (lapEnterGreen x s).power = s.power ∧
    (lapEnterGreen x s).stand = s.stand ∧ (lapEnterGreen x s).pins = s.pins := by
  simp [lapEnterGreen]

@[simp] theorem lapCalled_keeps (c : CalledFrom) (x : Stamp) (s : State) :
    (lapCalled c x s).pending = s.pending ∧ (lapCalled c x s).phase = s.phase ∧ (lapCalled c x s).mem = s.mem ∧
    (lapCalled c x s).port = s.port ∧ (lapCalled c x s).time = s.time ∧ (lapCalled c x s).gates = s.gates ∧
    (lapCalled c x s).race = s.race ∧ (lapCalled c x s).pen = s.pen ∧ (lapCalled c x s).power = s.power ∧
    (lapCalled c x s).stand = s.stand ∧ (lapCalled c x s).pins = s.pins := by
  simp [lapCalled]

@[simp] theorem applyChange_keeps (o : Orders) (ch : Change) (s : State) :
    (applyChange o ch s).pending = s.pending ∧ (applyChange o ch s).phase = s.phase ∧
    (applyChange o ch s).gates = s.gates ∧ (applyChange o ch s).pins = s.pins := by
  unfold applyChange; split <;> simp

@[simp] theorem drain_keeps (o : Orders) (x : Stamp) (q : List Crossing) (s : State) :
    (drain o x q s).pending = s.pending ∧ (drain o x q s).phase = s.phase ∧ (drain o x q s).pins = s.pins := by
  induction q generalizing s with
  | nil => simp [drain]
  | cons c rest ih => unfold drain; split <;> simp [ih]

@[simp] theorem discardEarlier_keeps (x : Stamp) (s : State) :
    (discardEarlier x s).pending = s.pending ∧ (discardEarlier x s).phase = s.phase ∧
    (discardEarlier x s).mem = s.mem ∧ (discardEarlier x s).port = s.port ∧ (discardEarlier x s).time = s.time ∧
    (discardEarlier x s).race = s.race ∧ (discardEarlier x s).laps = s.laps ∧ (discardEarlier x s).pen = s.pen ∧
    (discardEarlier x s).power = s.power ∧ (discardEarlier x s).stand = s.stand ∧ (discardEarlier x s).pins = s.pins := by
  simp [discardEarlier]

@[simp] theorem takeHeadChange_keeps (o : Orders) (s : State) :
    (takeHeadChange o s).pending = s.pending ∧ (takeHeadChange o s).phase = s.phase ∧
    (takeHeadChange o s).pins = s.pins := by
  unfold takeHeadChange; split
  · simp
  · next ch _ _ => obtain ⟨kind, st⟩ := ch; cases kind <;> simp

@[simp] theorem takeDue_keeps (o : Orders) (n : Nat) (s : State) :
    (takeDue o n s).pending = s.pending ∧ (takeDue o n s).phase = s.phase ∧ (takeDue o n s).pins = s.pins := by
  induction n generalizing s with
  | zero => simp [takeDue]
  | succ n ih => unfold takeDue; split <;> simp [ih]

@[simp] theorem takeAllDue_keeps (o : Orders) (s : State) :
    (takeAllDue o s).pending = s.pending ∧ (takeAllDue o s).phase = s.phase ∧ (takeAllDue o s).pins = s.pins := by
  simp [takeAllDue]

@[simp] theorem takeNext_keeps (o : Orders) (s : State) :
    (takeNext o s).pending = s.pending ∧ (takeNext o s).phase = s.phase ∧ (takeNext o s).pins = s.pins := by
  generalize e : takeNext o s = t
  simp only [takeNext] at e
  (repeat' split at e) <;> subst e <;> simp

@[simp] theorem takeSome_keeps (o : Orders) (n : Nat) (s : State) :
    (takeSome o n s).pending = s.pending ∧ (takeSome o n s).phase = s.phase ∧ (takeSome o n s).pins = s.pins := by
  induction n generalizing s with
  | zero => simp [takeSome]
  | succ n ih => unfold takeSome; split <;> simp [ih]

@[simp] theorem crossingWork_keeps (o : Orders) (s : State) :
    (crossingWork o s).pending = s.pending ∧ (crossingWork o s).phase = s.phase ∧ (crossingWork o s).pins = s.pins := by
  simp [crossingWork]

@[simp] theorem refreshLane_keeps (s : State) (k : Lane) :
    (refreshLane s k).pending = s.pending ∧ (refreshLane s k).phase = s.phase ∧ (refreshLane s k).time = s.time ∧
    (refreshLane s k).gates = s.gates ∧ (refreshLane s k).race = s.race ∧ (refreshLane s k).laps = s.laps ∧
    (refreshLane s k).pen = s.pen ∧ (refreshLane s k).power = s.power ∧ (refreshLane s k).stand = s.stand ∧
    (refreshLane s k).pins = s.pins := by
  simp [refreshLane]

@[simp] theorem refreshLanes_keeps (ks : List Lane) (s : State) :
    ((ks.foldl refreshLane s)).pending = s.pending ∧ ((ks.foldl refreshLane s)).phase = s.phase ∧
    ((ks.foldl refreshLane s)).time = s.time ∧ ((ks.foldl refreshLane s)).gates = s.gates ∧
    ((ks.foldl refreshLane s)).race = s.race ∧ ((ks.foldl refreshLane s)).laps = s.laps ∧
    ((ks.foldl refreshLane s)).pen = s.pen ∧ ((ks.foldl refreshLane s)).power = s.power ∧
    ((ks.foldl refreshLane s)).stand = s.stand ∧ ((ks.foldl refreshLane s)).pins = s.pins := by
  induction ks generalizing s with
  | nil => simp
  | cons k ks ih => simp [ih]

@[simp] theorem refreshStatus_keeps (s : State) :
    (refreshStatus s).pending = s.pending ∧ (refreshStatus s).phase = s.phase ∧ (refreshStatus s).time = s.time ∧
    (refreshStatus s).gates = s.gates ∧ (refreshStatus s).race = s.race ∧ (refreshStatus s).laps = s.laps ∧
    (refreshStatus s).pen = s.pen ∧ (refreshStatus s).power = s.power ∧ (refreshStatus s).stand = s.stand ∧
    (refreshStatus s).pins = s.pins := by
  simp [refreshStatus]

end Sys2Proof.Machine
end

