-- ==== Sys2Proof/Laws/PortFrames.lean ====
section
/-! SUPPORT. What the operations leave alone in the host port: no operation but a host access, a slip taken, a SETUP or a
reset touches SUMEN, FLTEN, CTL, the slip cursor or the setup-loaded flag. -/

namespace Sys2Proof.Machine

section
variable (b : Byte) (p : HostPort)
@[simp] theorem setSum_sum : (HostPort.setSum b p).sum = p.sum ||| b := rfl
@[simp] theorem setSum_sumen : (HostPort.setSum b p).sumen = p.sumen := rfl
@[simp] theorem setSum_flt : (HostPort.setSum b p).flt = p.flt := rfl
@[simp] theorem setSum_flten : (HostPort.setSum b p).flten = p.flten := rfl
@[simp] theorem setSum_ctl : (HostPort.setSum b p).ctl = p.ctl := rfl
@[simp] theorem setSum_slipCursor : (HostPort.setSum b p).slipCursor = p.slipCursor := rfl
@[simp] theorem setSum_noticeCursor : (HostPort.setSum b p).noticeCursor = p.noticeCursor := rfl
@[simp] theorem setSum_noticeQueue : (HostPort.setSum b p).noticeQueue = p.noticeQueue := rfl
@[simp] theorem setSum_noticeLost : (HostPort.setSum b p).noticeLost = p.noticeLost := rfl
@[simp] theorem setSum_noticeSerial : (HostPort.setSum b p).noticeSerial = p.noticeSerial := rfl
@[simp] theorem setSum_setupLoaded : (HostPort.setSum b p).setupLoaded = p.setupLoaded := rfl
@[simp] theorem setSum_turns : (HostPort.setSum b p).turns = p.turns := rfl
@[simp] theorem setSum_dataOut : (HostPort.setSum b p).dataOut = p.dataOut := rfl
@[simp] theorem setSum_turnReads : (HostPort.setSum b p).turnReads = p.turnReads := rfl
@[simp] theorem setFlt_sum : (HostPort.setFlt b p).sum = p.sum := rfl
@[simp] theorem setFlt_sumen : (HostPort.setFlt b p).sumen = p.sumen := rfl
@[simp] theorem setFlt_flt : (HostPort.setFlt b p).flt = p.flt ||| b := rfl
@[simp] theorem setFlt_flten : (HostPort.setFlt b p).flten = p.flten := rfl
@[simp] theorem setFlt_ctl : (HostPort.setFlt b p).ctl = p.ctl := rfl
@[simp] theorem setFlt_slipCursor : (HostPort.setFlt b p).slipCursor = p.slipCursor := rfl
@[simp] theorem setFlt_noticeCursor : (HostPort.setFlt b p).noticeCursor = p.noticeCursor := rfl
@[simp] theorem setFlt_noticeQueue : (HostPort.setFlt b p).noticeQueue = p.noticeQueue := rfl
@[simp] theorem setFlt_noticeLost : (HostPort.setFlt b p).noticeLost = p.noticeLost := rfl
@[simp] theorem setFlt_noticeSerial : (HostPort.setFlt b p).noticeSerial = p.noticeSerial := rfl
@[simp] theorem setFlt_setupLoaded : (HostPort.setFlt b p).setupLoaded = p.setupLoaded := rfl
@[simp] theorem setFlt_turns : (HostPort.setFlt b p).turns = p.turns := rfl
@[simp] theorem setFlt_dataOut : (HostPort.setFlt b p).dataOut = p.dataOut := rfl
@[simp] theorem setFlt_turnReads : (HostPort.setFlt b p).turnReads = p.turnReads := rfl
end

@[simp] theorem driveData_port (b : Option Byte) (s : State) :
    (driveData b s).port.sumen = s.port.sumen ∧ (driveData b s).port.flten = s.port.flten ∧
    (driveData b s).port.ctl = s.port.ctl ∧ (driveData b s).port.slipCursor = s.port.slipCursor ∧
    (driveData b s).port.setupLoaded = s.port.setupLoaded ∧ (driveData b s).port.sum = s.port.sum ∧
    (driveData b s).port.flt = s.port.flt ∧ (driveData b s).port.noticeCursor = s.port.noticeCursor ∧
    (driveData b s).port.noticeQueue = s.port.noticeQueue ∧ (driveData b s).port.noticeLost = s.port.noticeLost ∧
    (driveData b s).port.noticeSerial = s.port.noticeSerial := by
  simp [driveData]

@[simp] theorem transfer_port (a : BitVec 15) (d : Option Byte) (s : State) :
    (transfer a d s).port.sumen = s.port.sumen ∧ (transfer a d s).port.flten = s.port.flten ∧
    (transfer a d s).port.ctl = s.port.ctl ∧ (transfer a d s).port.slipCursor = s.port.slipCursor ∧
    (transfer a d s).port.setupLoaded = s.port.setupLoaded ∧ (transfer a d s).port.sum = s.port.sum ∧
    (transfer a d s).port.flt = s.port.flt ∧ (transfer a d s).port.noticeCursor = s.port.noticeCursor ∧
    (transfer a d s).port.noticeQueue = s.port.noticeQueue ∧ (transfer a d s).port.noticeLost = s.port.noticeLost ∧
    (transfer a d s).port.noticeSerial = s.port.noticeSerial := by
  generalize e : transfer a d s = t
  simp only [transfer] at e
  (repeat' split at e) <;> subst e <;> simp

@[simp] theorem landTurn_port (s : State) (h : HostTurn) :
    (landTurn s h).port.sumen = s.port.sumen ∧ (landTurn s h).port.flten = s.port.flten ∧
    (landTurn s h).port.ctl = s.port.ctl ∧ (landTurn s h).port.slipCursor = s.port.slipCursor ∧
    (landTurn s h).port.setupLoaded = s.port.setupLoaded ∧ (landTurn s h).port.sum = s.port.sum ∧
    (landTurn s h).port.flt = s.port.flt ∧ (landTurn s h).port.noticeCursor = s.port.noticeCursor ∧
    (landTurn s h).port.noticeQueue = s.port.noticeQueue ∧ (landTurn s h).port.noticeLost = s.port.noticeLost ∧
    (landTurn s h).port.noticeSerial = s.port.noticeSerial := by
  generalize e : landTurn s h = t
  simp only [landTurn] at e
  (repeat' split at e) <;> subst e <;> simp

@[simp] theorem landReady_port (ts : List HostTurn) (s : State) :
    (landReady ts s).port.sumen = s.port.sumen ∧ (landReady ts s).port.flten = s.port.flten ∧
    (landReady ts s).port.ctl = s.port.ctl ∧ (landReady ts s).port.slipCursor = s.port.slipCursor ∧
    (landReady ts s).port.setupLoaded = s.port.setupLoaded ∧ (landReady ts s).port.sum = s.port.sum ∧
    (landReady ts s).port.flt = s.port.flt ∧ (landReady ts s).port.noticeCursor = s.port.noticeCursor ∧
    (landReady ts s).port.noticeQueue = s.port.noticeQueue ∧ (landReady ts s).port.noticeLost = s.port.noticeLost ∧
    (landReady ts s).port.noticeSerial = s.port.noticeSerial := by
  induction ts generalizing s with
  | nil => simp [landReady]
  | cons h ts ih => simp only [landReady]; split <;> simp [ih]

@[simp] theorem giveWay_port (s : State) :
    (giveWay s).port.sumen = s.port.sumen ∧ (giveWay s).port.flten = s.port.flten ∧
    (giveWay s).port.ctl = s.port.ctl ∧ (giveWay s).port.slipCursor = s.port.slipCursor ∧
    (giveWay s).port.setupLoaded = s.port.setupLoaded ∧ (giveWay s).port.sum = s.port.sum ∧
    (giveWay s).port.flt = s.port.flt ∧ (giveWay s).port.noticeCursor = s.port.noticeCursor ∧
    (giveWay s).port.noticeQueue = s.port.noticeQueue ∧ (giveWay s).port.noticeLost = s.port.noticeLost ∧
    (giveWay s).port.noticeSerial = s.port.noticeSerial := by
  generalize e : giveWay s = t
  simp only [giveWay] at e
  (repeat' split at e) <;> subst e <;> simp

@[simp] theorem landTurns_port (ts : List HostTurn) (s : State) :
    ((ts.foldl landTurn s)).port.sumen = s.port.sumen ∧ ((ts.foldl landTurn s)).port.flten = s.port.flten ∧
    ((ts.foldl landTurn s)).port.ctl = s.port.ctl ∧ ((ts.foldl landTurn s)).port.slipCursor = s.port.slipCursor ∧
    ((ts.foldl landTurn s)).port.setupLoaded = s.port.setupLoaded ∧ ((ts.foldl landTurn s)).port.sum = s.port.sum ∧
    ((ts.foldl landTurn s)).port.flt = s.port.flt ∧ ((ts.foldl landTurn s)).port.noticeCursor = s.port.noticeCursor ∧
    ((ts.foldl landTurn s)).port.noticeQueue = s.port.noticeQueue ∧
    ((ts.foldl landTurn s)).port.noticeLost = s.port.noticeLost ∧
    ((ts.foldl landTurn s)).port.noticeSerial = s.port.noticeSerial := by
  induction ts generalizing s with
  | nil => simp
  | cons h ts ih => simp [ih]

@[simp] theorem landAll_port (s : State) :
    (landAll s).port.sumen = s.port.sumen ∧ (landAll s).port.flten = s.port.flten ∧
    (landAll s).port.ctl = s.port.ctl ∧ (landAll s).port.slipCursor = s.port.slipCursor ∧
    (landAll s).port.setupLoaded = s.port.setupLoaded ∧ (landAll s).port.sum = s.port.sum ∧
    (landAll s).port.flt = s.port.flt ∧ (landAll s).port.noticeCursor = s.port.noticeCursor ∧
    (landAll s).port.noticeQueue = s.port.noticeQueue ∧ (landAll s).port.noticeLost = s.port.noticeLost ∧
    (landAll s).port.noticeSerial = s.port.noticeSerial := by
  generalize e : landAll s = t
  simp only [landAll] at e
  (repeat' split at e) <;> subst e <;> simp

@[simp] theorem deviceRead_port (a : Nat) (s : State) :
    ((deviceRead a s).1).port.sumen = s.port.sumen ∧ ((deviceRead a s).1).port.flten = s.port.flten ∧
    ((deviceRead a s).1).port.ctl = s.port.ctl ∧ ((deviceRead a s).1).port.slipCursor = s.port.slipCursor ∧
    ((deviceRead a s).1).port.setupLoaded = s.port.setupLoaded ∧ ((deviceRead a s).1).port.sum = s.port.sum ∧
    ((deviceRead a s).1).port.flt = s.port.flt ∧ ((deviceRead a s).1).port.noticeCursor = s.port.noticeCursor ∧
    ((deviceRead a s).1).port.noticeQueue = s.port.noticeQueue ∧
    ((deviceRead a s).1).port.noticeLost = s.port.noticeLost ∧
    ((deviceRead a s).1).port.noticeSerial = s.port.noticeSerial := by
  simp [deviceRead]

@[simp] theorem writeEach_port (a : Nat) (bs : List Byte) (s : State) :
    (writeEach a bs s).port.sumen = s.port.sumen ∧ (writeEach a bs s).port.flten = s.port.flten ∧
    (writeEach a bs s).port.ctl = s.port.ctl ∧ (writeEach a bs s).port.slipCursor = s.port.slipCursor ∧
    (writeEach a bs s).port.setupLoaded = s.port.setupLoaded ∧ (writeEach a bs s).port.sum = s.port.sum ∧
    (writeEach a bs s).port.flt = s.port.flt ∧ (writeEach a bs s).port.noticeCursor = s.port.noticeCursor ∧
    (writeEach a bs s).port.noticeQueue = s.port.noticeQueue ∧
    (writeEach a bs s).port.noticeLost = s.port.noticeLost ∧
    (writeEach a bs s).port.noticeSerial = s.port.noticeSerial := by
  induction bs generalizing a s with
  | nil => simp [writeEach]
  | cons b bs ih => simp [writeEach, ih]

@[simp] theorem deviceWrite_port (a : Nat) (bs : List Byte) (s : State) :
    (deviceWrite a bs s).port.sumen = s.port.sumen ∧ (deviceWrite a bs s).port.flten = s.port.flten ∧
    (deviceWrite a bs s).port.ctl = s.port.ctl ∧ (deviceWrite a bs s).port.slipCursor = s.port.slipCursor ∧
    (deviceWrite a bs s).port.setupLoaded = s.port.setupLoaded ∧ (deviceWrite a bs s).port.sum = s.port.sum ∧
    (deviceWrite a bs s).port.flt = s.port.flt ∧ (deviceWrite a bs s).port.noticeCursor = s.port.noticeCursor ∧
    (deviceWrite a bs s).port.noticeQueue = s.port.noticeQueue ∧
    (deviceWrite a bs s).port.noticeLost = s.port.noticeLost ∧
    (deviceWrite a bs s).port.noticeSerial = s.port.noticeSerial := by
  generalize e : deviceWrite a bs s = t
  simp only [deviceWrite] at e
  (repeat' split at e) <;> subst e <;> simp

@[simp] theorem readEach_port (addrs : List Nat) (s : State) :
    ((readEach addrs s).1).port.sumen = s.port.sumen ∧ ((readEach addrs s).1).port.flten = s.port.flten ∧
    ((readEach addrs s).1).port.ctl = s.port.ctl ∧ ((readEach addrs s).1).port.slipCursor = s.port.slipCursor ∧
    ((readEach addrs s).1).port.setupLoaded = s.port.setupLoaded ∧ ((readEach addrs s).1).port.sum = s.port.sum ∧
    ((readEach addrs s).1).port.flt = s.port.flt ∧ ((readEach addrs s).1).port.noticeCursor = s.port.noticeCursor ∧
    ((readEach addrs s).1).port.noticeQueue = s.port.noticeQueue ∧
    ((readEach addrs s).1).port.noticeLost = s.port.noticeLost ∧
    ((readEach addrs s).1).port.noticeSerial = s.port.noticeSerial := by
  induction addrs generalizing s with
  | nil => simp [readEach]
  | cons a addrs ih => simp [readEach, ih]

@[simp] theorem gather_port (addrs : List Nat) (s : State) :
    ((gather addrs s).state).port.sumen = s.port.sumen ∧ ((gather addrs s).state).port.flten = s.port.flten ∧
    ((gather addrs s).state).port.ctl = s.port.ctl ∧ ((gather addrs s).state).port.slipCursor = s.port.slipCursor ∧
    ((gather addrs s).state).port.setupLoaded = s.port.setupLoaded ∧ ((gather addrs s).state).port.sum = s.port.sum ∧
    ((gather addrs s).state).port.flt = s.port.flt ∧
    ((gather addrs s).state).port.noticeCursor = s.port.noticeCursor ∧
    ((gather addrs s).state).port.noticeQueue = s.port.noticeQueue ∧
    ((gather addrs s).state).port.noticeLost = s.port.noticeLost ∧
    ((gather addrs s).state).port.noticeSerial = s.port.noticeSerial := by
  generalize e : (gather addrs s).state = t
  simp only [gather] at e
  (repeat' split at e) <;> subst e <;> simp

@[simp] theorem gatherView_port (addrs : List Nat) (s : State) :
    ((gather addrs s).view).port.sumen = s.port.sumen ∧ ((gather addrs s).view).port.flten = s.port.flten ∧
    ((gather addrs s).view).port.ctl = s.port.ctl ∧ ((gather addrs s).view).port.slipCursor = s.port.slipCursor ∧
    ((gather addrs s).view).port.setupLoaded = s.port.setupLoaded ∧ ((gather addrs s).view).port.sum = s.port.sum ∧
    ((gather addrs s).view).port.flt = s.port.flt ∧ ((gather addrs s).view).port.noticeCursor = s.port.noticeCursor ∧
    ((gather addrs s).view).port.noticeQueue = s.port.noticeQueue ∧
    ((gather addrs s).view).port.noticeLost = s.port.noticeLost ∧
    ((gather addrs s).view).port.noticeSerial = s.port.noticeSerial := by
  generalize e : (gather addrs s).view = t
  simp only [gather] at e
  (repeat' split at e) <;> subst e <;> simp

@[simp] theorem recheck_port (a : Nat) (mask expect : Byte) (s : State) :
    ((recheck a mask expect s).1).port.sumen = s.port.sumen ∧
    ((recheck a mask expect s).1).port.flten = s.port.flten ∧ ((recheck a mask expect s).1).port.ctl = s.port.ctl ∧
    ((recheck a mask expect s).1).port.slipCursor = s.port.slipCursor ∧
    ((recheck a mask expect s).1).port.setupLoaded = s.port.setupLoaded ∧
    ((recheck a mask expect s).1).port.sum = s.port.sum ∧ ((recheck a mask expect s).1).port.flt = s.port.flt ∧
    ((recheck a mask expect s).1).port.noticeCursor = s.port.noticeCursor ∧
    ((recheck a mask expect s).1).port.noticeQueue = s.port.noticeQueue ∧
    ((recheck a mask expect s).1).port.noticeLost = s.port.noticeLost ∧
    ((recheck a mask expect s).1).port.noticeSerial = s.port.noticeSerial := by
  simp [recheck]

@[simp] theorem foldWrites_port (fields : List (Nat × List Byte)) (s : State) :
    ((fields.foldl (fun t f => deviceWrite f.1 f.2 t) s)).port.sumen = s.port.sumen ∧
    ((fields.foldl (fun t f => deviceWrite f.1 f.2 t) s)).port.flten = s.port.flten ∧
    ((fields.foldl (fun t f => deviceWrite f.1 f.2 t) s)).port.ctl = s.port.ctl ∧
    ((fields.foldl (fun t f => deviceWrite f.1 f.2 t) s)).port.slipCursor = s.port.slipCursor ∧
    ((fields.foldl (fun t f => deviceWrite f.1 f.2 t) s)).port.setupLoaded = s.port.setupLoaded ∧
    ((fields.foldl (fun t f => deviceWrite f.1 f.2 t) s)).port.sum = s.port.sum ∧
    ((fields.foldl (fun t f => deviceWrite f.1 f.2 t) s)).port.flt = s.port.flt ∧
    ((fields.foldl (fun t f => deviceWrite f.1 f.2 t) s)).port.noticeCursor = s.port.noticeCursor ∧
    ((fields.foldl (fun t f => deviceWrite f.1 f.2 t) s)).port.noticeQueue = s.port.noticeQueue ∧
    ((fields.foldl (fun t f => deviceWrite f.1 f.2 t) s)).port.noticeLost = s.port.noticeLost ∧
    ((fields.foldl (fun t f => deviceWrite f.1 f.2 t) s)).port.noticeSerial = s.port.noticeSerial := by
  induction fields generalizing s with
  | nil => simp
  | cons f fs ih => simp [ih]

@[simp] theorem updateBlock_port (c : Nat) (fields : List (Nat × List Byte)) (s : State) :
    (updateBlock c fields s).port.sumen = s.port.sumen ∧ (updateBlock c fields s).port.flten = s.port.flten ∧
    (updateBlock c fields s).port.ctl = s.port.ctl ∧ (updateBlock c fields s).port.slipCursor = s.port.slipCursor ∧
    (updateBlock c fields s).port.setupLoaded = s.port.setupLoaded ∧ (updateBlock c fields s).port.sum = s.port.sum ∧
    (updateBlock c fields s).port.flt = s.port.flt ∧
    (updateBlock c fields s).port.noticeCursor = s.port.noticeCursor ∧
    (updateBlock c fields s).port.noticeQueue = s.port.noticeQueue ∧
    (updateBlock c fields s).port.noticeLost = s.port.noticeLost ∧
    (updateBlock c fields s).port.noticeSerial = s.port.noticeSerial := by
  simp [updateBlock]

@[simp] theorem noticeEntryEmpty_port (s : State) :
    ((noticeEntryEmpty s).1).port.sumen = s.port.sumen ∧ ((noticeEntryEmpty s).1).port.flten = s.port.flten ∧
    ((noticeEntryEmpty s).1).port.ctl = s.port.ctl ∧ ((noticeEntryEmpty s).1).port.slipCursor = s.port.slipCursor ∧
    ((noticeEntryEmpty s).1).port.setupLoaded = s.port.setupLoaded ∧ ((noticeEntryEmpty s).1).port.sum = s.port.sum ∧
    ((noticeEntryEmpty s).1).port.flt = s.port.flt ∧
    ((noticeEntryEmpty s).1).port.noticeCursor = s.port.noticeCursor ∧
    ((noticeEntryEmpty s).1).port.noticeQueue = s.port.noticeQueue ∧
    ((noticeEntryEmpty s).1).port.noticeLost = s.port.noticeLost ∧
    ((noticeEntryEmpty s).1).port.noticeSerial = s.port.noticeSerial := by
  simp [noticeEntryEmpty]

@[simp] theorem writeNotice_port (h : HeldNotice) (s : State) :
    ((writeNotice h s).1).port.sumen = s.port.sumen ∧ ((writeNotice h s).1).port.flten = s.port.flten ∧
    ((writeNotice h s).1).port.ctl = s.port.ctl ∧ ((writeNotice h s).1).port.slipCursor = s.port.slipCursor ∧
    ((writeNotice h s).1).port.setupLoaded = s.port.setupLoaded := by
  generalize e : (writeNotice h s).1 = t
  simp only [writeNotice] at e
  (repeat' split at e) <;> subst e <;> simp

@[simp] theorem retryHeld_port (q : List HeldNotice) (s : State) :
    (retryHeld q s).port.sumen = s.port.sumen ∧ (retryHeld q s).port.flten = s.port.flten ∧
    (retryHeld q s).port.ctl = s.port.ctl ∧ (retryHeld q s).port.slipCursor = s.port.slipCursor ∧
    (retryHeld q s).port.setupLoaded = s.port.setupLoaded := by
  induction q generalizing s with
  | nil => simp [retryHeld]
  | cons h rest ih =>
    generalize e : retryHeld (h :: rest) s = t
    simp only [retryHeld] at e
    (repeat' split at e) <;> subst e <;> simp [ih]

@[simp] theorem retryNotices_port (s : State) :
    (retryNotices s).port.sumen = s.port.sumen ∧ (retryNotices s).port.flten = s.port.flten ∧
    (retryNotices s).port.ctl = s.port.ctl ∧ (retryNotices s).port.slipCursor = s.port.slipCursor ∧
    (retryNotices s).port.setupLoaded = s.port.setupLoaded := by
  simp [retryNotices]

@[simp] theorem acceptNotice_port (n : Notice) (s : State) :
    ((acceptNotice n s).1).port.sumen = s.port.sumen ∧ ((acceptNotice n s).1).port.flten = s.port.flten ∧
    ((acceptNotice n s).1).port.ctl = s.port.ctl ∧ ((acceptNotice n s).1).port.slipCursor = s.port.slipCursor ∧
    ((acceptNotice n s).1).port.setupLoaded = s.port.setupLoaded := by
  simp [acceptNotice]

@[simp] theorem holdNotice_port (h : HeldNotice) (s : State) :
    (holdNotice h s).port.sumen = s.port.sumen ∧ (holdNotice h s).port.flten = s.port.flten ∧
    (holdNotice h s).port.ctl = s.port.ctl ∧ (holdNotice h s).port.slipCursor = s.port.slipCursor ∧
    (holdNotice h s).port.setupLoaded = s.port.setupLoaded := by
  simp [holdNotice]

@[simp] theorem deliver_port (n : Notice) (s : State) :
    (deliver n s).port.sumen = s.port.sumen ∧ (deliver n s).port.flten = s.port.flten ∧
    (deliver n s).port.ctl = s.port.ctl ∧ (deliver n s).port.slipCursor = s.port.slipCursor ∧
    (deliver n s).port.setupLoaded = s.port.setupLoaded := by
  generalize e : deliver n s = t
  simp only [deliver] at e
  (repeat' split at e) <;> subst e <;> simp

@[simp] theorem writeTallyZero_port (state racer : Byte) (i : Fin 64) (s : State) :
    (writeTallyZero state racer i s).port.sumen = s.port.sumen ∧
    (writeTallyZero state racer i s).port.flten = s.port.flten ∧
    (writeTallyZero state racer i s).port.ctl = s.port.ctl ∧
    (writeTallyZero state racer i s).port.slipCursor = s.port.slipCursor ∧
    (writeTallyZero state racer i s).port.setupLoaded = s.port.setupLoaded ∧
    (writeTallyZero state racer i s).port.sum = s.port.sum ∧ (writeTallyZero state racer i s).port.flt = s.port.flt ∧
    (writeTallyZero state racer i s).port.noticeCursor = s.port.noticeCursor ∧
    (writeTallyZero state racer i s).port.noticeQueue = s.port.noticeQueue ∧
    (writeTallyZero state racer i s).port.noticeLost = s.port.noticeLost ∧
    (writeTallyZero state racer i s).port.noticeSerial = s.port.noticeSerial := by
  simp [writeTallyZero]

@[simp] theorem foldTarget_port (racer : Byte) (s : State) :
    ((foldTarget racer s).2).port.sumen = s.port.sumen ∧ ((foldTarget racer s).2).port.flten = s.port.flten ∧
    ((foldTarget racer s).2).port.ctl = s.port.ctl ∧ ((foldTarget racer s).2).port.slipCursor = s.port.slipCursor ∧
    ((foldTarget racer s).2).port.setupLoaded = s.port.setupLoaded ∧ ((foldTarget racer s).2).port.sum = s.port.sum ∧
    ((foldTarget racer s).2).port.flt = s.port.flt ∧
    ((foldTarget racer s).2).port.noticeCursor = s.port.noticeCursor ∧
    ((foldTarget racer s).2).port.noticeQueue = s.port.noticeQueue ∧
    ((foldTarget racer s).2).port.noticeLost = s.port.noticeLost ∧
    ((foldTarget racer s).2).port.noticeSerial = s.port.noticeSerial := by
  generalize e : (foldTarget racer s).2 = t
  simp only [foldTarget] at e
  (repeat' split at e) <;> subst e <;> simp

@[simp] theorem foldLane_port (label : Byte) (s : State) (k : Lane) :
    (foldLane label s k).port.sumen = s.port.sumen ∧ (foldLane label s k).port.flten = s.port.flten ∧
    (foldLane label s k).port.ctl = s.port.ctl ∧ (foldLane label s k).port.slipCursor = s.port.slipCursor ∧
    (foldLane label s k).port.setupLoaded = s.port.setupLoaded ∧ (foldLane label s k).port.sum = s.port.sum ∧
    (foldLane label s k).port.flt = s.port.flt ∧ (foldLane label s k).port.noticeCursor = s.port.noticeCursor ∧
    (foldLane label s k).port.noticeQueue = s.port.noticeQueue ∧
    (foldLane label s k).port.noticeLost = s.port.noticeLost ∧
    (foldLane label s k).port.noticeSerial = s.port.noticeSerial := by
  have h := foldTarget_port (pick s.stand.racers k) s
  generalize e : foldLane label s k = t; simp only [foldLane] at e
  split at e
  · subst e; simp
  · split at e <;> rename_i heq <;> rw [heq] at h <;> subst e <;> simpa using h

@[simp] theorem foldLanes_port (label : Byte) (ks : List Lane) (s : State) :
    ((ks.foldl (foldLane label) s)).port.sumen = s.port.sumen ∧
    ((ks.foldl (foldLane label) s)).port.flten = s.port.flten ∧
    ((ks.foldl (foldLane label) s)).port.ctl = s.port.ctl ∧
    ((ks.foldl (foldLane label) s)).port.slipCursor = s.port.slipCursor ∧
    ((ks.foldl (foldLane label) s)).port.setupLoaded = s.port.setupLoaded ∧
    ((ks.foldl (foldLane label) s)).port.sum = s.port.sum ∧ ((ks.foldl (foldLane label) s)).port.flt = s.port.flt ∧
    ((ks.foldl (foldLane label) s)).port.noticeCursor = s.port.noticeCursor ∧
    ((ks.foldl (foldLane label) s)).port.noticeQueue = s.port.noticeQueue ∧
    ((ks.foldl (foldLane label) s)).port.noticeLost = s.port.noticeLost ∧
    ((ks.foldl (foldLane label) s)).port.noticeSerial = s.port.noticeSerial := by
  induction ks generalizing s with
  | nil => simp
  | cons k ks ih => simp [ih]

@[simp] theorem foldTally_port (label : Byte) (s : State) :
    (foldTally label s).port.sumen = s.port.sumen ∧ (foldTally label s).port.flten = s.port.flten ∧
    (foldTally label s).port.ctl = s.port.ctl ∧ (foldTally label s).port.slipCursor = s.port.slipCursor ∧
    (foldTally label s).port.setupLoaded = s.port.setupLoaded ∧ (foldTally label s).port.sum = s.port.sum ∧
    (foldTally label s).port.flt = s.port.flt ∧ (foldTally label s).port.noticeCursor = s.port.noticeCursor ∧
    (foldTally label s).port.noticeQueue = s.port.noticeQueue ∧
    (foldTally label s).port.noticeLost = s.port.noticeLost ∧
    (foldTally label s).port.noticeSerial = s.port.noticeSerial := by
  simp [foldTally]

@[simp] theorem penStaging_port (h : HeatSnapshot) (s : State) :
    (penStaging h s).port.sumen = s.port.sumen ∧ (penStaging h s).port.flten = s.port.flten ∧
    (penStaging h s).port.ctl = s.port.ctl ∧ (penStaging h s).port.slipCursor = s.port.slipCursor ∧
    (penStaging h s).port.setupLoaded = s.port.setupLoaded := by
  simp [penStaging]

@[simp] theorem penNotice_port (kind : NoticeKind) (sub : Nat) (k : Lane) (x : Stamp) (a b : Nat) (s : State) :
    (penNotice kind sub k x a b s).port.sumen = s.port.sumen ∧
    (penNotice kind sub k x a b s).port.flten = s.port.flten ∧ (penNotice kind sub k x a b s).port.ctl = s.port.ctl ∧
    (penNotice kind sub k x a b s).port.slipCursor = s.port.slipCursor ∧
    (penNotice kind sub k x a b s).port.setupLoaded = s.port.setupLoaded := by
  simp [penNotice]

@[simp] theorem convert_port (k : Lane) (e : PenEntry) (x : Stamp) (s : State) :
    (convert k e x s).port.sumen = s.port.sumen ∧ (convert k e x s).port.flten = s.port.flten ∧
    (convert k e x s).port.ctl = s.port.ctl ∧ (convert k e x s).port.slipCursor = s.port.slipCursor ∧
    (convert k e x s).port.setupLoaded = s.port.setupLoaded := by
  simp [convert]

@[simp] theorem enqueuePenalty_port (k : Lane) (e : PenEntry) (s : State) :
    (enqueuePenalty k e s).port.sumen = s.port.sumen ∧ (enqueuePenalty k e s).port.flten = s.port.flten ∧
    (enqueuePenalty k e s).port.ctl = s.port.ctl ∧ (enqueuePenalty k e s).port.slipCursor = s.port.slipCursor ∧
    (enqueuePenalty k e s).port.setupLoaded = s.port.setupLoaded := by
  generalize e : enqueuePenalty k e s = t
  simp only [enqueuePenalty] at e
  (repeat' split at e) <;> subst e <;> simp

@[simp] theorem issue_port (t : Fin 8) (k : Lane) (x : Stamp) (r : Response) (a d w : Nat) (s : State) :
    (issue t k x r a d w s).port.sumen = s.port.sumen ∧ (issue t k x r a d w s).port.flten = s.port.flten ∧
    (issue t k x r a d w s).port.ctl = s.port.ctl ∧ (issue t k x r a d w s).port.slipCursor = s.port.slipCursor ∧
    (issue t k x r a d w s).port.setupLoaded = s.port.setupLoaded := by
  cases r <;> simp [issue]

@[simp] theorem trigger_port (t : Fin 8) (k : Lane) (x : Stamp) (s : State) :
    (trigger t k x s).port.sumen = s.port.sumen ∧ (trigger t k x s).port.flten = s.port.flten ∧
    (trigger t k x s).port.ctl = s.port.ctl ∧ (trigger t k x s).port.slipCursor = s.port.slipCursor ∧
    (trigger t k x s).port.setupLoaded = s.port.setupLoaded := by
  generalize e : trigger t k x s = t
  simp only [trigger] at e
  (repeat' split at e) <;> subst e <;> simp

@[simp] theorem endService_port (k : Lane) (x : Stamp) (sub n : Nat) (s : State) :
    (endService k x sub n s).port.sumen = s.port.sumen ∧ (endService k x sub n s).port.flten = s.port.flten ∧
    (endService k x sub n s).port.ctl = s.port.ctl ∧ (endService k x sub n s).port.slipCursor = s.port.slipCursor ∧
    (endService k x sub n s).port.setupLoaded = s.port.setupLoaded := by
  generalize e : endService k x sub n s = t
  simp only [endService] at e
  (repeat' split at e) <;> subst e <;> simp

@[simp] theorem beginService_port (k : Lane) (x : Stamp) (s : State) :
    (beginService k x s).port.sumen = s.port.sumen ∧ (beginService k x s).port.flten = s.port.flten ∧
    (beginService k x s).port.ctl = s.port.ctl ∧ (beginService k x s).port.slipCursor = s.port.slipCursor ∧
    (beginService k x s).port.setupLoaded = s.port.setupLoaded := by
  generalize e : beginService k x s = t
  simp only [beginService] at e
  (repeat' split at e) <;> subst e <;> simp

@[simp] theorem pushCheck_port (k : Lane) (x : Stamp) (v : RaceView) (s : State) :
    (pushCheck k x v s).port.sumen = s.port.sumen ∧ (pushCheck k x v s).port.flten = s.port.flten ∧
    (pushCheck k x v s).port.ctl = s.port.ctl ∧ (pushCheck k x v s).port.slipCursor = s.port.slipCursor ∧
    (pushCheck k x v s).port.setupLoaded = s.port.setupLoaded := by
  generalize e : pushCheck k x v s = t
  simp only [pushCheck] at e
  (repeat' split at e) <;> subst e <;> simp

@[simp] theorem advanceCap_port (k : Lane) (x : Stamp) (s : State) :
    (advanceCap k x s).port.sumen = s.port.sumen ∧ (advanceCap k x s).port.flten = s.port.flten ∧
    (advanceCap k x s).port.ctl = s.port.ctl ∧ (advanceCap k x s).port.slipCursor = s.port.slipCursor ∧
    (advanceCap k x s).port.setupLoaded = s.port.setupLoaded := by
  generalize e : advanceCap k x s = t
  simp only [advanceCap] at e
  (repeat' split at e) <;> subst e <;> simp

@[simp] theorem penAcceptedLine_port (k : Lane) (x : Stamp) (c d : Bool) (v : RaceView) (s : State) :
    (penAcceptedLine k x c d v s).port.sumen = s.port.sumen ∧
    (penAcceptedLine k x c d v s).port.flten = s.port.flten ∧ (penAcceptedLine k x c d v s).port.ctl = s.port.ctl ∧
    (penAcceptedLine k x c d v s).port.slipCursor = s.port.slipCursor ∧
    (penAcceptedLine k x c d v s).port.setupLoaded = s.port.setupLoaded := by
  generalize e : penAcceptedLine k x c d v s = t
  simp only [penAcceptedLine] at e
  (repeat' split at e) <;> subst e <;> simp

@[simp] theorem convertAll_port (k : Lane) (x : Stamp) (q : List PenEntry) (s : State) :
    (convertAll k x q s).port.sumen = s.port.sumen ∧ (convertAll k x q s).port.flten = s.port.flten ∧
    (convertAll k x q s).port.ctl = s.port.ctl ∧ (convertAll k x q s).port.slipCursor = s.port.slipCursor ∧
    (convertAll k x q s).port.setupLoaded = s.port.setupLoaded := by
  induction q generalizing s with
  | nil => simp [convertAll]
  | cons e rest ih => simp [convertAll, ih]

@[simp] theorem penFinish_port (k : Lane) (x : Stamp) (s : State) :
    (penFinish k x s).port.sumen = s.port.sumen ∧ (penFinish k x s).port.flten = s.port.flten ∧
    (penFinish k x s).port.ctl = s.port.ctl ∧ (penFinish k x s).port.slipCursor = s.port.slipCursor ∧
    (penFinish k x s).port.setupLoaded = s.port.setupLoaded := by
  generalize e : penFinish k x s = t
  simp only [penFinish] at e
  (repeat' split at e) <;> subst e <;> simp

@[simp] theorem heatNotice_port (sub : Nat) (label : Byte) (x : Stamp) (b : Nat) (s : State) :
    (heatNotice sub label x b s).port.sumen = s.port.sumen ∧ (heatNotice sub label x b s).port.flten = s.port.flten ∧
    (heatNotice sub label x b s).port.ctl = s.port.ctl ∧
    (heatNotice sub label x b s).port.slipCursor = s.port.slipCursor ∧
    (heatNotice sub label x b s).port.setupLoaded = s.port.setupLoaded := by
  simp [heatNotice]

@[simp] theorem refuseEntry_port (r : Nat) (label : Byte) (s : State) :
    (refuseEntry r label s).port.sumen = s.port.sumen ∧ (refuseEntry r label s).port.flten = s.port.flten ∧
    (refuseEntry r label s).port.ctl = s.port.ctl ∧ (refuseEntry r label s).port.slipCursor = s.port.slipCursor ∧
    (refuseEntry r label s).port.setupLoaded = s.port.setupLoaded := by
  generalize e : refuseEntry r label s = t
  simp only [refuseEntry] at e
  (repeat' split at e) <;> subst e <;> simp

@[simp] theorem createEntry_port (s : State) (e : Byte × Fin 64) :
    (createEntry s e).port.sumen = s.port.sumen ∧ (createEntry s e).port.flten = s.port.flten ∧
    (createEntry s e).port.ctl = s.port.ctl ∧ (createEntry s e).port.slipCursor = s.port.slipCursor ∧
    (createEntry s e).port.setupLoaded = s.port.setupLoaded ∧ (createEntry s e).port.sum = s.port.sum ∧
    (createEntry s e).port.flt = s.port.flt ∧ (createEntry s e).port.noticeCursor = s.port.noticeCursor ∧
    (createEntry s e).port.noticeQueue = s.port.noticeQueue ∧ (createEntry s e).port.noticeLost = s.port.noticeLost ∧
    (createEntry s e).port.noticeSerial = s.port.noticeSerial := by
  simp [createEntry]

@[simp] theorem createTally_port (es : List (Byte × Fin 64)) (s : State) :
    (createTally es s).port.sumen = s.port.sumen ∧ (createTally es s).port.flten = s.port.flten ∧
    (createTally es s).port.ctl = s.port.ctl ∧ (createTally es s).port.slipCursor = s.port.slipCursor ∧
    (createTally es s).port.setupLoaded = s.port.setupLoaded ∧ (createTally es s).port.sum = s.port.sum ∧
    (createTally es s).port.flt = s.port.flt ∧ (createTally es s).port.noticeCursor = s.port.noticeCursor ∧
    (createTally es s).port.noticeQueue = s.port.noticeQueue ∧
    (createTally es s).port.noticeLost = s.port.noticeLost ∧
    (createTally es s).port.noticeSerial = s.port.noticeSerial := by
  simp only [createTally]
  induction es generalizing s with
  | nil => simp
  | cons e es ih => simp [ih]

@[simp] theorem enterCountdown_port (x : Stamp) (s : State) :
    (enterCountdown x s).port.sumen = s.port.sumen ∧ (enterCountdown x s).port.flten = s.port.flten ∧
    (enterCountdown x s).port.ctl = s.port.ctl ∧ (enterCountdown x s).port.slipCursor = s.port.slipCursor ∧
    (enterCountdown x s).port.setupLoaded = s.port.setupLoaded := by
  generalize e : enterCountdown x s = t
  simp only [enterCountdown] at e
  (repeat' split at e) <;> subst e <;> simp

@[simp] theorem enterGreen_port (x : Stamp) (s : State) :
    (enterGreen x s).port.sumen = s.port.sumen ∧ (enterGreen x s).port.flten = s.port.flten ∧
    (enterGreen x s).port.ctl = s.port.ctl ∧ (enterGreen x s).port.slipCursor = s.port.slipCursor ∧
    (enterGreen x s).port.setupLoaded = s.port.setupLoaded := by
  generalize e : enterGreen x s = t
  simp only [enterGreen] at e
  (repeat' split at e) <;> subst e <;> simp

@[simp] theorem jumpOnce_port (k : Lane) (x : Stamp) (s : State) :
    (jumpOnce k x s).port.sumen = s.port.sumen ∧ (jumpOnce k x s).port.flten = s.port.flten ∧
    (jumpOnce k x s).port.ctl = s.port.ctl ∧ (jumpOnce k x s).port.slipCursor = s.port.slipCursor ∧
    (jumpOnce k x s).port.setupLoaded = s.port.setupLoaded := by
  generalize e : jumpOnce k x s = t
  simp only [jumpOnce] at e
  (repeat' split at e) <;> subst e <;> simp

@[simp] theorem jumpCrossing_port (k : Lane) (x : Stamp) (s : State) :
    (jumpCrossing k x s).port.sumen = s.port.sumen ∧ (jumpCrossing k x s).port.flten = s.port.flten ∧
    (jumpCrossing k x s).port.ctl = s.port.ctl ∧ (jumpCrossing k x s).port.slipCursor = s.port.slipCursor ∧
    (jumpCrossing k x s).port.setupLoaded = s.port.setupLoaded := by
  generalize e : jumpCrossing k x s = t
  simp only [jumpCrossing] at e
  (repeat' split at e) <;> subst e <;> simp

@[simp] theorem stage_port (h : HeatSnapshot) (es : List (Byte × Fin 64)) (x : Stamp) (s : State) :
    (stage h es x s).port.sumen = s.port.sumen ∧ (stage h es x s).port.flten = s.port.flten ∧
    (stage h es x s).port.ctl = s.port.ctl ∧ (stage h es x s).port.slipCursor = s.port.slipCursor ∧
    (stage h es x s).port.setupLoaded = s.port.setupLoaded := by
  generalize e : stage h es x s = t
  simp only [stage] at e
  (repeat' split at e) <;> subst e <;> simp

@[simp] theorem stageEntry_port (h : HeatSnapshot) (es : List (Byte × Fin 64)) (s : State) :
    (stageEntry h es s).port.sumen = s.port.sumen ∧ (stageEntry h es s).port.flten = s.port.flten ∧
    (stageEntry h es s).port.ctl = s.port.ctl ∧ (stageEntry h es s).port.slipCursor = s.port.slipCursor ∧
    (stageEntry h es s).port.setupLoaded = s.port.setupLoaded := by
  generalize e : stageEntry h es s = t
  simp only [stageEntry] at e
  (repeat' split at e) <;> subst e <;> simp

@[simp] theorem examineEntry_port (s : State) :
    (examineEntry s).port.sumen = s.port.sumen ∧ (examineEntry s).port.flten = s.port.flten ∧
    (examineEntry s).port.ctl = s.port.ctl ∧ (examineEntry s).port.slipCursor = s.port.slipCursor ∧
    (examineEntry s).port.setupLoaded = s.port.setupLoaded := by
  generalize e : examineEntry s = t
  simp only [examineEntry] at e
  (repeat' split at e) <;> subst e <;> simp

@[simp] theorem examineCard_port (s : State) :
    (examineCard s).port.sumen = s.port.sumen ∧ (examineCard s).port.flten = s.port.flten ∧
    (examineCard s).port.ctl = s.port.ctl ∧ (examineCard s).port.slipCursor = s.port.slipCursor ∧
    (examineCard s).port.setupLoaded = s.port.setupLoaded := by
  generalize e : examineCard s = t
  simp only [examineCard] at e
  (repeat' split at e) <;> subst e <;> simp

@[simp] theorem runoutNotice_port (c : Nat) (b : Option Lane) (x : Stamp) (s : State) :
    (runoutNotice c b x s).port.sumen = s.port.sumen ∧ (runoutNotice c b x s).port.flten = s.port.flten ∧
    (runoutNotice c b x s).port.ctl = s.port.ctl ∧ (runoutNotice c b x s).port.slipCursor = s.port.slipCursor ∧
    (runoutNotice c b x s).port.setupLoaded = s.port.setupLoaded := by
  generalize e : runoutNotice c b x s = t
  simp only [runoutNotice] at e
  (repeat' split at e) <;> subst e <;> simp

@[simp] theorem enterRunout_port (x : Stamp) (c : Nat) (b : Option Lane) (s : State) :
    (enterRunout x c b s).port.sumen = s.port.sumen ∧ (enterRunout x c b s).port.flten = s.port.flten ∧
    (enterRunout x c b s).port.ctl = s.port.ctl ∧ (enterRunout x c b s).port.slipCursor = s.port.slipCursor ∧
    (enterRunout x c b s).port.setupLoaded = s.port.setupLoaded := by
  generalize e : enterRunout x c b s = t
  simp only [enterRunout] at e
  (repeat' split at e) <;> subst e <;> simp

@[simp] theorem limitInCall_port (x : Stamp) (k : Lane) (s : State) :
    (limitInCall x k s).port.sumen = s.port.sumen ∧ (limitInCall x k s).port.flten = s.port.flten ∧
    (limitInCall x k s).port.ctl = s.port.ctl ∧ (limitInCall x k s).port.slipCursor = s.port.slipCursor ∧
    (limitInCall x k s).port.setupLoaded = s.port.setupLoaded := by
  simp [limitInCall]

@[simp] theorem lapCompleted_port (k : Lane) (x : Stamp) (v : RaceView) (s : State) :
    ((lapCompleted k x v s).1).port.sumen = s.port.sumen ∧ ((lapCompleted k x v s).1).port.flten = s.port.flten ∧
    ((lapCompleted k x v s).1).port.ctl = s.port.ctl ∧
    ((lapCompleted k x v s).1).port.slipCursor = s.port.slipCursor ∧
    ((lapCompleted k x v s).1).port.setupLoaded = s.port.setupLoaded := by
  generalize e : (lapCompleted k x v s).1 = t
  simp only [lapCompleted] at e
  (repeat' split at e) <;> subst e <;> simp

@[simp] theorem settle_port (x : Stamp) (s : State) :
    (settle x s).port.sumen = s.port.sumen ∧ (settle x s).port.flten = s.port.flten ∧
    (settle x s).port.ctl = s.port.ctl ∧ (settle x s).port.slipCursor = s.port.slipCursor ∧
    (settle x s).port.setupLoaded = s.port.setupLoaded := by
  generalize e : settle x s = t
  simp only [settle] at e
  (repeat' split at e) <;> subst e <;> simp

@[simp] theorem raceFinish_port (k : Lane) (x : Stamp) (s : State) :
    (raceFinish k x s).port.sumen = s.port.sumen ∧ (raceFinish k x s).port.flten = s.port.flten ∧
    (raceFinish k x s).port.ctl = s.port.ctl ∧ (raceFinish k x s).port.slipCursor = s.port.slipCursor ∧
    (raceFinish k x s).port.setupLoaded = s.port.setupLoaded := by
  generalize e : raceFinish k x s = t
  simp only [raceFinish] at e
  (repeat' split at e) <;> subst e <;> simp

@[simp] theorem abortHeat_port (x : Stamp) (s : State) :
    (abortHeat x s).port.sumen = s.port.sumen ∧ (abortHeat x s).port.flten = s.port.flten ∧
    (abortHeat x s).port.ctl = s.port.ctl ∧ (abortHeat x s).port.slipCursor = s.port.slipCursor ∧
    (abortHeat x s).port.setupLoaded = s.port.setupLoaded := by
  generalize e : abortHeat x s = t
  simp only [abortHeat] at e
  (repeat' split at e) <;> subst e <;> simp

@[simp] theorem callNotice_port (o : CallOrigin) (n : Nat) (x : Stamp) (s : State) :
    (callNotice o n x s).port.sumen = s.port.sumen ∧ (callNotice o n x s).port.flten = s.port.flten ∧
    (callNotice o n x s).port.ctl = s.port.ctl ∧ (callNotice o n x s).port.slipCursor = s.port.slipCursor ∧
    (callNotice o n x s).port.setupLoaded = s.port.setupLoaded := by
  generalize e : callNotice o n x s = t
  simp only [callNotice] at e
  (repeat' split at e) <;> subst e <;> simp

@[simp] theorem chargeCall_port (o : CallOrigin) (n : Nat) (x : Stamp) (s : State) :
    (chargeCall o n x s).port.sumen = s.port.sumen ∧ (chargeCall o n x s).port.flten = s.port.flten ∧
    (chargeCall o n x s).port.ctl = s.port.ctl ∧ (chargeCall o n x s).port.slipCursor = s.port.slipCursor ∧
    (chargeCall o n x s).port.setupLoaded = s.port.setupLoaded := by
  generalize e : chargeCall o n x s = t
  simp only [chargeCall] at e
  (repeat' split at e) <;> subst e <;> simp

@[simp] theorem callRestage_port (o : CallOrigin) (x : Stamp) (s : State) :
    (callRestage o x s).port.sumen = s.port.sumen ∧ (callRestage o x s).port.flten = s.port.flten ∧
    (callRestage o x s).port.ctl = s.port.ctl ∧ (callRestage o x s).port.slipCursor = s.port.slipCursor ∧
    (callRestage o x s).port.setupLoaded = s.port.setupLoaded := by
  simp [callRestage]

@[simp] theorem callStart_port (o : CallOrigin) (x : Stamp) (s : State) :
    (callStart o x s).port.sumen = s.port.sumen ∧ (callStart o x s).port.flten = s.port.flten ∧
    (callStart o x s).port.ctl = s.port.ctl ∧ (callStart o x s).port.slipCursor = s.port.slipCursor ∧
    (callStart o x s).port.setupLoaded = s.port.setupLoaded := by
  generalize e : callStart o x s = t
  simp only [callStart] at e
  (repeat' split at e) <;> subst e <;> simp

@[simp] theorem callMerge_port (o : CallOrigin) (x : Stamp) (s : State) :
    (callMerge o x s).port.sumen = s.port.sumen ∧ (callMerge o x s).port.flten = s.port.flten ∧
    (callMerge o x s).port.ctl = s.port.ctl ∧ (callMerge o x s).port.slipCursor = s.port.slipCursor ∧
    (callMerge o x s).port.setupLoaded = s.port.setupLoaded := by
  simp [callMerge]

@[simp] theorem callAgain_port (o : CallOrigin) (x : Stamp) (s : State) :
    (callAgain o x s).port.sumen = s.port.sumen ∧ (callAgain o x s).port.flten = s.port.flten ∧
    (callAgain o x s).port.ctl = s.port.ctl ∧ (callAgain o x s).port.slipCursor = s.port.slipCursor ∧
    (callAgain o x s).port.setupLoaded = s.port.setupLoaded := by
  simp [callAgain]

@[simp] theorem takeCall_port (o : CallOrigin) (x : Stamp) (s : State) :
    (takeCall o x s).port.sumen = s.port.sumen ∧ (takeCall o x s).port.flten = s.port.flten ∧
    (takeCall o x s).port.ctl = s.port.ctl ∧ (takeCall o x s).port.slipCursor = s.port.slipCursor ∧
    (takeCall o x s).port.setupLoaded = s.port.setupLoaded := by
  generalize e : takeCall o x s = t
  simp only [takeCall] at e
  (repeat' split at e) <;> subst e <;> simp

@[simp] theorem resumeNotice_port (sub : Nat) (x : Stamp) (b : Nat) (s : State) :
    (resumeNotice sub x b s).port.sumen = s.port.sumen ∧ (resumeNotice sub x b s).port.flten = s.port.flten ∧
    (resumeNotice sub x b s).port.ctl = s.port.ctl ∧ (resumeNotice sub x b s).port.slipCursor = s.port.slipCursor ∧
    (resumeNotice sub x b s).port.setupLoaded = s.port.setupLoaded := by
  simp [resumeNotice]

@[simp] theorem beginResume_port (x : Stamp) (s : State) :
    (beginResume x s).port.sumen = s.port.sumen ∧ (beginResume x s).port.flten = s.port.flten ∧
    (beginResume x s).port.ctl = s.port.ctl ∧ (beginResume x s).port.slipCursor = s.port.slipCursor ∧
    (beginResume x s).port.setupLoaded = s.port.setupLoaded := by
  simp [beginResume]

@[simp] theorem finishResume_port (x : Stamp) (s : State) :
    (finishResume x s).port.sumen = s.port.sumen ∧ (finishResume x s).port.flten = s.port.flten ∧
    (finishResume x s).port.ctl = s.port.ctl ∧ (finishResume x s).port.slipCursor = s.port.slipCursor ∧
    (finishResume x s).port.setupLoaded = s.port.setupLoaded := by
  generalize e : finishResume x s = t
  simp only [finishResume] at e
  (repeat' split at e) <;> subst e <;> simp

@[simp] theorem pageOpen_port (k : Lane) (s : State) :
    ((pageOpen k s).1).port.sumen = s.port.sumen ∧ ((pageOpen k s).1).port.flten = s.port.flten ∧
    ((pageOpen k s).1).port.ctl = s.port.ctl ∧ ((pageOpen k s).1).port.slipCursor = s.port.slipCursor ∧
    ((pageOpen k s).1).port.setupLoaded = s.port.setupLoaded ∧ ((pageOpen k s).1).port.sum = s.port.sum ∧
    ((pageOpen k s).1).port.flt = s.port.flt ∧ ((pageOpen k s).1).port.noticeCursor = s.port.noticeCursor ∧
    ((pageOpen k s).1).port.noticeQueue = s.port.noticeQueue ∧
    ((pageOpen k s).1).port.noticeLost = s.port.noticeLost ∧
    ((pageOpen k s).1).port.noticeSerial = s.port.noticeSerial := by
  simp [pageOpen]

@[simp] theorem writePage_port (k : Lane) (h : HeldLap) (s : State) :
    ((writePage k h s).1).port.sumen = s.port.sumen ∧ ((writePage k h s).1).port.flten = s.port.flten ∧
    ((writePage k h s).1).port.ctl = s.port.ctl ∧ ((writePage k h s).1).port.slipCursor = s.port.slipCursor ∧
    ((writePage k h s).1).port.setupLoaded = s.port.setupLoaded := by
  generalize e : (writePage k h s).1 = t
  simp only [writePage] at e
  (repeat' split at e) <;> subst e <;> simp

@[simp] theorem retryLaps_port (k : Lane) (q : List HeldLap) (s : State) :
    (retryLaps k q s).port.sumen = s.port.sumen ∧ (retryLaps k q s).port.flten = s.port.flten ∧
    (retryLaps k q s).port.ctl = s.port.ctl ∧ (retryLaps k q s).port.slipCursor = s.port.slipCursor ∧
    (retryLaps k q s).port.setupLoaded = s.port.setupLoaded := by
  induction q generalizing s with
  | nil => simp [retryLaps]
  | cons h rest ih =>
    generalize e : retryLaps k (h :: rest) s = t
    simp only [retryLaps] at e
    (repeat' split at e) <;> subst e <;> simp [ih]

@[simp] theorem retryBook_port (k : Lane) (s : State) :
    (retryBook k s).port.sumen = s.port.sumen ∧ (retryBook k s).port.flten = s.port.flten ∧
    (retryBook k s).port.ctl = s.port.ctl ∧ (retryBook k s).port.slipCursor = s.port.slipCursor ∧
    (retryBook k s).port.setupLoaded = s.port.setupLoaded := by
  simp [retryBook]

@[simp] theorem retryEach_port (ks : List Lane) (s : State) :
    ((ks.foldl (fun s k => retryBook k s) s)).port.sumen = s.port.sumen ∧
    ((ks.foldl (fun s k => retryBook k s) s)).port.flten = s.port.flten ∧
    ((ks.foldl (fun s k => retryBook k s) s)).port.ctl = s.port.ctl ∧
    ((ks.foldl (fun s k => retryBook k s) s)).port.slipCursor = s.port.slipCursor ∧
    ((ks.foldl (fun s k => retryBook k s) s)).port.setupLoaded = s.port.setupLoaded := by
  induction ks generalizing s with
  | nil => simp
  | cons k ks ih => simp [ih]

@[simp] theorem retryBooks_port (s : State) :
    (retryBooks s).port.sumen = s.port.sumen ∧ (retryBooks s).port.flten = s.port.flten ∧
    (retryBooks s).port.ctl = s.port.ctl ∧ (retryBooks s).port.slipCursor = s.port.slipCursor ∧
    (retryBooks s).port.setupLoaded = s.port.setupLoaded := by
  simp [retryBooks]

@[simp] theorem arriveLap_port (k : Lane) (r : LapRecord) (s : State) :
    (arriveLap k r s).port.sumen = s.port.sumen ∧ (arriveLap k r s).port.flten = s.port.flten ∧
    (arriveLap k r s).port.ctl = s.port.ctl ∧ (arriveLap k r s).port.slipCursor = s.port.slipCursor ∧
    (arriveLap k r s).port.setupLoaded = s.port.setupLoaded := by
  generalize e : arriveLap k r s = t
  simp only [arriveLap] at e
  (repeat' split at e) <;> subst e <;> simp

@[simp] theorem anomaly_port (sub : Nat) (c : Crossing) (a b : Nat) (s : State) :
    (anomaly sub c a b s).port.sumen = s.port.sumen ∧ (anomaly sub c a b s).port.flten = s.port.flten ∧
    (anomaly sub c a b s).port.ctl = s.port.ctl ∧ (anomaly sub c a b s).port.slipCursor = s.port.slipCursor ∧
    (anomaly sub c a b s).port.setupLoaded = s.port.setupLoaded := by
  simp [anomaly]

@[simp] theorem finishLane_port (k : Lane) (x : Stamp) (b : Bool) (s : State) :
    (finishLane k x b s).port.sumen = s.port.sumen ∧ (finishLane k x b s).port.flten = s.port.flten ∧
    (finishLane k x b s).port.ctl = s.port.ctl ∧ (finishLane k x b s).port.slipCursor = s.port.slipCursor ∧
    (finishLane k x b s).port.setupLoaded = s.port.setupLoaded := by
  simp [finishLane]

@[simp] theorem completeLap_port (c : Crossing) (v : RaceView) (s : State) :
    (completeLap c v s).port.sumen = s.port.sumen ∧ (completeLap c v s).port.flten = s.port.flten ∧
    (completeLap c v s).port.ctl = s.port.ctl ∧ (completeLap c v s).port.slipCursor = s.port.slipCursor ∧
    (completeLap c v s).port.setupLoaded = s.port.setupLoaded := by
  generalize e : completeLap c v s = t
  simp only [completeLap] at e
  (repeat' split at e) <;> subst e <;> simp

@[simp] theorem acceptCrossing_port (c : Crossing) (how : Accepted) (mark : LapLane → LapLane) (s : State) :
    (acceptCrossing c how mark s).port.sumen = s.port.sumen ∧
    (acceptCrossing c how mark s).port.flten = s.port.flten ∧ (acceptCrossing c how mark s).port.ctl = s.port.ctl ∧
    (acceptCrossing c how mark s).port.slipCursor = s.port.slipCursor ∧
    (acceptCrossing c how mark s).port.setupLoaded = s.port.setupLoaded := by
  generalize e : acceptCrossing c how mark s = t
  simp only [acceptCrossing] at e
  (repeat' split at e) <;> subst e <;> simp

@[simp] theorem startGrid_port (c : Crossing) (s : State) :
    (startGrid c s).port.sumen = s.port.sumen ∧ (startGrid c s).port.flten = s.port.flten ∧
    (startGrid c s).port.ctl = s.port.ctl ∧ (startGrid c s).port.slipCursor = s.port.slipCursor ∧
    (startGrid c s).port.setupLoaded = s.port.setupLoaded := by
  simp [startGrid]

@[simp] theorem finishGrid_port (c : Crossing) (s : State) :
    (finishGrid c s).port.sumen = s.port.sumen ∧ (finishGrid c s).port.flten = s.port.flten ∧
    (finishGrid c s).port.ctl = s.port.ctl ∧ (finishGrid c s).port.slipCursor = s.port.slipCursor ∧
    (finishGrid c s).port.setupLoaded = s.port.setupLoaded := by
  simp [finishGrid]

@[simp] theorem takeJump_port (c : Crossing) (s : State) :
    (takeJump c s).port.sumen = s.port.sumen ∧ (takeJump c s).port.flten = s.port.flten ∧
    (takeJump c s).port.ctl = s.port.ctl ∧ (takeJump c s).port.slipCursor = s.port.slipCursor ∧
    (takeJump c s).port.setupLoaded = s.port.setupLoaded := by
  generalize e : takeJump c s = t
  simp only [takeJump] at e
  (repeat' split at e) <;> subst e <;> simp

@[simp] theorem applyVerdict_port (v : Verdict) (c : Crossing) (s : State) :
    (applyVerdict v c s).port.sumen = s.port.sumen ∧ (applyVerdict v c s).port.flten = s.port.flten ∧
    (applyVerdict v c s).port.ctl = s.port.ctl ∧ (applyVerdict v c s).port.slipCursor = s.port.slipCursor ∧
    (applyVerdict v c s).port.setupLoaded = s.port.setupLoaded := by
  cases v <;> simp [applyVerdict]

@[simp] theorem takeCrossing_port (o : Orders) (c : Crossing) (s : State) :
    (takeCrossing o c s).port.sumen = s.port.sumen ∧ (takeCrossing o c s).port.flten = s.port.flten ∧
    (takeCrossing o c s).port.ctl = s.port.ctl ∧ (takeCrossing o c s).port.slipCursor = s.port.slipCursor ∧
    (takeCrossing o c s).port.setupLoaded = s.port.setupLoaded := by
  generalize e : takeCrossing o c s = t
  simp only [takeCrossing] at e
  (repeat' split at e) <;> subst e <;> simp

@[simp] theorem cutLane_port (b : Bool) (x : Stamp) (s : State) (k : Lane) :
    (cutLane b x s k).port.sumen = s.port.sumen ∧ (cutLane b x s k).port.flten = s.port.flten ∧
    (cutLane b x s k).port.ctl = s.port.ctl ∧ (cutLane b x s k).port.slipCursor = s.port.slipCursor ∧
    (cutLane b x s k).port.setupLoaded = s.port.setupLoaded := by
  generalize e : cutLane b x s k = t
  simp only [cutLane] at e
  (repeat' split at e) <;> subst e <;> simp

@[simp] theorem cutLanes_port (b : Bool) (x : Stamp) (ks : List Lane) (s : State) :
    ((ks.foldl (cutLane b x) s)).port.sumen = s.port.sumen ∧ ((ks.foldl (cutLane b x) s)).port.flten = s.port.flten ∧
    ((ks.foldl (cutLane b x) s)).port.ctl = s.port.ctl ∧
    ((ks.foldl (cutLane b x) s)).port.slipCursor = s.port.slipCursor ∧
    ((ks.foldl (cutLane b x) s)).port.setupLoaded = s.port.setupLoaded := by
  induction ks generalizing s with
  | nil => simp
  | cons k ks ih => simp [ih]

@[simp] theorem applyChange_port (o : Orders) (ch : Change) (s : State) :
    (applyChange o ch s).port.sumen = s.port.sumen ∧ (applyChange o ch s).port.flten = s.port.flten ∧
    (applyChange o ch s).port.ctl = s.port.ctl ∧ (applyChange o ch s).port.slipCursor = s.port.slipCursor ∧
    (applyChange o ch s).port.setupLoaded = s.port.setupLoaded := by
  unfold applyChange; split <;> simp

@[simp] theorem drain_port (o : Orders) (x : Stamp) (q : List Crossing) (s : State) :
    (drain o x q s).port.sumen = s.port.sumen ∧ (drain o x q s).port.flten = s.port.flten ∧
    (drain o x q s).port.ctl = s.port.ctl ∧ (drain o x q s).port.slipCursor = s.port.slipCursor ∧
    (drain o x q s).port.setupLoaded = s.port.setupLoaded := by
  induction q generalizing s with
  | nil => simp [drain]
  | cons c rest ih => unfold drain; split <;> simp [ih]

@[simp] theorem takeHeadChange_port (o : Orders) (s : State) :
    (takeHeadChange o s).port.sumen = s.port.sumen ∧ (takeHeadChange o s).port.flten = s.port.flten ∧
    (takeHeadChange o s).port.ctl = s.port.ctl ∧ (takeHeadChange o s).port.slipCursor = s.port.slipCursor ∧
    (takeHeadChange o s).port.setupLoaded = s.port.setupLoaded := by
  unfold takeHeadChange; split
  · simp
  · next ch _ _ => obtain ⟨kind, st⟩ := ch; cases kind <;> simp

@[simp] theorem takeDue_port (o : Orders) (n : Nat) (s : State) :
    (takeDue o n s).port.sumen = s.port.sumen ∧ (takeDue o n s).port.flten = s.port.flten ∧
    (takeDue o n s).port.ctl = s.port.ctl ∧ (takeDue o n s).port.slipCursor = s.port.slipCursor ∧
    (takeDue o n s).port.setupLoaded = s.port.setupLoaded := by
  induction n generalizing s with
  | zero => simp [takeDue]
  | succ n ih => unfold takeDue; split <;> simp [ih]

@[simp] theorem takeAllDue_port (o : Orders) (s : State) :
    (takeAllDue o s).port.sumen = s.port.sumen ∧ (takeAllDue o s).port.flten = s.port.flten ∧
    (takeAllDue o s).port.ctl = s.port.ctl ∧ (takeAllDue o s).port.slipCursor = s.port.slipCursor ∧
    (takeAllDue o s).port.setupLoaded = s.port.setupLoaded := by
  simp [takeAllDue]

@[simp] theorem takeNext_port (o : Orders) (s : State) :
    (takeNext o s).port.sumen = s.port.sumen ∧ (takeNext o s).port.flten = s.port.flten ∧
    (takeNext o s).port.ctl = s.port.ctl ∧ (takeNext o s).port.slipCursor = s.port.slipCursor ∧
    (takeNext o s).port.setupLoaded = s.port.setupLoaded := by
  generalize e : takeNext o s = t
  simp only [takeNext] at e
  (repeat' split at e) <;> subst e <;> simp

@[simp] theorem takeSome_port (o : Orders) (n : Nat) (s : State) :
    (takeSome o n s).port.sumen = s.port.sumen ∧ (takeSome o n s).port.flten = s.port.flten ∧
    (takeSome o n s).port.ctl = s.port.ctl ∧ (takeSome o n s).port.slipCursor = s.port.slipCursor ∧
    (takeSome o n s).port.setupLoaded = s.port.setupLoaded := by
  induction n generalizing s with
  | zero => simp [takeSome]
  | succ n ih => unfold takeSome; split <;> simp [ih]

@[simp] theorem crossingWork_port (o : Orders) (s : State) :
    (crossingWork o s).port.sumen = s.port.sumen ∧ (crossingWork o s).port.flten = s.port.flten ∧
    (crossingWork o s).port.ctl = s.port.ctl ∧ (crossingWork o s).port.slipCursor = s.port.slipCursor ∧
    (crossingWork o s).port.setupLoaded = s.port.setupLoaded := by
  simp [crossingWork]

@[simp] theorem refreshLane_port (s : State) (k : Lane) :
    (refreshLane s k).port.sumen = s.port.sumen ∧ (refreshLane s k).port.flten = s.port.flten ∧
    (refreshLane s k).port.ctl = s.port.ctl ∧ (refreshLane s k).port.slipCursor = s.port.slipCursor ∧
    (refreshLane s k).port.setupLoaded = s.port.setupLoaded ∧ (refreshLane s k).port.sum = s.port.sum ∧
    (refreshLane s k).port.flt = s.port.flt ∧ (refreshLane s k).port.noticeCursor = s.port.noticeCursor ∧
    (refreshLane s k).port.noticeQueue = s.port.noticeQueue ∧ (refreshLane s k).port.noticeLost = s.port.noticeLost ∧
    (refreshLane s k).port.noticeSerial = s.port.noticeSerial := by
  simp [refreshLane]

@[simp] theorem refreshLanes_port (ks : List Lane) (s : State) :
    ((ks.foldl refreshLane s)).port.sumen = s.port.sumen ∧ ((ks.foldl refreshLane s)).port.flten = s.port.flten ∧
    ((ks.foldl refreshLane s)).port.ctl = s.port.ctl ∧
    ((ks.foldl refreshLane s)).port.slipCursor = s.port.slipCursor ∧
    ((ks.foldl refreshLane s)).port.setupLoaded = s.port.setupLoaded ∧
    ((ks.foldl refreshLane s)).port.sum = s.port.sum ∧ ((ks.foldl refreshLane s)).port.flt = s.port.flt ∧
    ((ks.foldl refreshLane s)).port.noticeCursor = s.port.noticeCursor ∧
    ((ks.foldl refreshLane s)).port.noticeQueue = s.port.noticeQueue ∧
    ((ks.foldl refreshLane s)).port.noticeLost = s.port.noticeLost ∧
    ((ks.foldl refreshLane s)).port.noticeSerial = s.port.noticeSerial := by
  induction ks generalizing s with
  | nil => simp
  | cons k ks ih => simp [ih]

@[simp] theorem refreshStatus_port (s : State) :
    (refreshStatus s).port.sumen = s.port.sumen ∧ (refreshStatus s).port.flten = s.port.flten ∧
    (refreshStatus s).port.ctl = s.port.ctl ∧ (refreshStatus s).port.slipCursor = s.port.slipCursor ∧
    (refreshStatus s).port.setupLoaded = s.port.setupLoaded ∧ (refreshStatus s).port.sum = s.port.sum ∧
    (refreshStatus s).port.flt = s.port.flt ∧ (refreshStatus s).port.noticeCursor = s.port.noticeCursor ∧
    (refreshStatus s).port.noticeQueue = s.port.noticeQueue ∧ (refreshStatus s).port.noticeLost = s.port.noticeLost ∧
    (refreshStatus s).port.noticeSerial = s.port.noticeSerial := by
  simp [refreshStatus]

end Sys2Proof.Machine
end

