-- ==== Sys2Proof/Laws/IdleFrames.lean ====
section
/-! SUPPORT. With no host access waiting for its turn, no operation leaves one waiting, and none touches the data pins or what
host reads between device accesses drove (R2). -/

namespace Sys2Proof.Machine

@[simp] theorem foldWrites_idle (fields : List (Nat × List Byte)) (s : State) (hq : s.port.turns = []) :
    ((fields.foldl (fun t f => deviceWrite f.1 f.2 t) s)).port.turns = [] ∧
      ((fields.foldl (fun t f => deviceWrite f.1 f.2 t) s)).port.dataOut = s.port.dataOut ∧
      ((fields.foldl (fun t f => deviceWrite f.1 f.2 t) s)).port.turnReads = s.port.turnReads := by
  induction fields generalizing s with
  | nil => simp (maxDischargeDepth := 12) [hq]
  | cons f fs ih => simp (maxDischargeDepth := 12) [ih, hq]

@[simp] theorem updateBlock_idle (c : Nat) (fields : List (Nat × List Byte)) (s : State) (hq : s.port.turns = []) :
    (updateBlock c fields s).port.turns = [] ∧
      (updateBlock c fields s).port.dataOut = s.port.dataOut ∧
      (updateBlock c fields s).port.turnReads = s.port.turnReads := by
  simp (maxDischargeDepth := 12) [updateBlock, hq]

@[simp] theorem noticeEntryEmpty_idle (s : State) (hq : s.port.turns = []) :
    ((noticeEntryEmpty s).1).port.turns = [] ∧
      ((noticeEntryEmpty s).1).port.dataOut = s.port.dataOut ∧
      ((noticeEntryEmpty s).1).port.turnReads = s.port.turnReads := by
  simp (maxDischargeDepth := 12) [noticeEntryEmpty, hq]

@[simp] theorem writeNotice_idle (h : HeldNotice) (s : State) (hq : s.port.turns = []) :
    ((writeNotice h s).1).port.turns = [] ∧
      ((writeNotice h s).1).port.dataOut = s.port.dataOut ∧ ((writeNotice h s).1).port.turnReads = s.port.turnReads := by
  generalize e : (writeNotice h s).1 = t
  simp only [writeNotice] at e
  (repeat' split at e) <;> subst e <;> simp (maxDischargeDepth := 12) [hq]

@[simp] theorem retryHeld_idle (q : List HeldNotice) (s : State) (hq : s.port.turns = []) :
    (retryHeld q s).port.turns = [] ∧
      (retryHeld q s).port.dataOut = s.port.dataOut ∧ (retryHeld q s).port.turnReads = s.port.turnReads := by
  induction q generalizing s with
  | nil => simp (maxDischargeDepth := 12) [retryHeld, hq]
  | cons h rest ih =>
    generalize e : retryHeld (h :: rest) s = t
    simp only [retryHeld] at e
    (repeat' split at e) <;> subst e <;> simp (maxDischargeDepth := 12) [ih, hq]

@[simp] theorem retryNotices_idle (s : State) (hq : s.port.turns = []) :
    (retryNotices s).port.turns = [] ∧
      (retryNotices s).port.dataOut = s.port.dataOut ∧ (retryNotices s).port.turnReads = s.port.turnReads := by
  simp (maxDischargeDepth := 12) [retryNotices, hq]

@[simp] theorem acceptNotice_idle (n : Notice) (s : State) (hq : s.port.turns = []) :
    ((acceptNotice n s).1).port.turns = [] ∧
      ((acceptNotice n s).1).port.dataOut = s.port.dataOut ∧ ((acceptNotice n s).1).port.turnReads = s.port.turnReads := by
  simp (maxDischargeDepth := 12) [acceptNotice, hq]

@[simp] theorem holdNotice_idle (h : HeldNotice) (s : State) (hq : s.port.turns = []) :
    (holdNotice h s).port.turns = [] ∧
      (holdNotice h s).port.dataOut = s.port.dataOut ∧ (holdNotice h s).port.turnReads = s.port.turnReads := by
  simp (maxDischargeDepth := 12) [holdNotice, hq]

@[simp] theorem deliver_idle (n : Notice) (s : State) (hq : s.port.turns = []) :
    (deliver n s).port.turns = [] ∧
      (deliver n s).port.dataOut = s.port.dataOut ∧ (deliver n s).port.turnReads = s.port.turnReads := by
  generalize e : deliver n s = t
  simp only [deliver] at e
  (repeat' split at e) <;> subst e <;> simp (maxDischargeDepth := 12) [hq]

@[simp] theorem writeTallyZero_idle (state racer : Byte) (i : Fin 64) (s : State) (hq : s.port.turns = []) :
    (writeTallyZero state racer i s).port.turns = [] ∧
      (writeTallyZero state racer i s).port.dataOut = s.port.dataOut ∧
      (writeTallyZero state racer i s).port.turnReads = s.port.turnReads := by
  simp (maxDischargeDepth := 12) [writeTallyZero, hq]

@[simp] theorem foldTarget_idle (racer : Byte) (s : State) (hq : s.port.turns = []) :
    ((foldTarget racer s).2).port.turns = [] ∧
      ((foldTarget racer s).2).port.dataOut = s.port.dataOut ∧
      ((foldTarget racer s).2).port.turnReads = s.port.turnReads := by
  generalize e : (foldTarget racer s).2 = t
  simp only [foldTarget] at e
  (repeat' split at e) <;> subst e <;> simp (maxDischargeDepth := 12) [hq]

@[simp] theorem foldLane_idle (label : Byte) (s : State) (k : Lane) (hq : s.port.turns = []) :
    (foldLane label s k).port.turns = [] ∧
      (foldLane label s k).port.dataOut = s.port.dataOut ∧ (foldLane label s k).port.turnReads = s.port.turnReads := by
  have h := foldTarget_idle (pick s.stand.racers k) s hq
  generalize e : foldLane label s k = t; simp only [foldLane] at e
  split at e
  · subst e; simp (maxDischargeDepth := 12) [hq]
  · split at e <;> rename_i heq <;> rw [heq] at h <;> subst e <;> dsimp only at h <;> first | exact h | simp (maxDischargeDepth := 12) [h.1, h.2.1, h.2.2]

@[simp] theorem foldLanes_idle (label : Byte) (ks : List Lane) (s : State) (hq : s.port.turns = []) :
    ((ks.foldl (foldLane label) s)).port.turns = [] ∧
      ((ks.foldl (foldLane label) s)).port.dataOut = s.port.dataOut ∧
      ((ks.foldl (foldLane label) s)).port.turnReads = s.port.turnReads := by
  induction ks generalizing s with
  | nil => simp (maxDischargeDepth := 12) [hq]
  | cons k ks ih => simp (maxDischargeDepth := 12) [ih, hq]

@[simp] theorem foldTally_idle (label : Byte) (s : State) (hq : s.port.turns = []) :
    (foldTally label s).port.turns = [] ∧
      (foldTally label s).port.dataOut = s.port.dataOut ∧ (foldTally label s).port.turnReads = s.port.turnReads := by
  simp (maxDischargeDepth := 12) [foldTally, hq]

@[simp] theorem penStaging_idle (h : HeatSnapshot) (s : State) (hq : s.port.turns = []) :
    (penStaging h s).port.turns = [] ∧
      (penStaging h s).port.dataOut = s.port.dataOut ∧ (penStaging h s).port.turnReads = s.port.turnReads := by
  simp (maxDischargeDepth := 12) [penStaging, hq]

@[simp] theorem penNotice_idle (kind : NoticeKind) (sub : Nat) (k : Lane) (x : Stamp) (a b : Nat) (s : State) (hq : s.port.turns = []) :
    (penNotice kind sub k x a b s).port.turns = [] ∧
      (penNotice kind sub k x a b s).port.dataOut = s.port.dataOut ∧
      (penNotice kind sub k x a b s).port.turnReads = s.port.turnReads := by
  simp (maxDischargeDepth := 12) [penNotice, hq]

@[simp] theorem convert_idle (k : Lane) (e : PenEntry) (x : Stamp) (s : State) (hq : s.port.turns = []) :
    (convert k e x s).port.turns = [] ∧
      (convert k e x s).port.dataOut = s.port.dataOut ∧ (convert k e x s).port.turnReads = s.port.turnReads := by
  simp (maxDischargeDepth := 12) [convert, hq]

@[simp] theorem enqueuePenalty_idle (k : Lane) (e : PenEntry) (s : State) (hq : s.port.turns = []) :
    (enqueuePenalty k e s).port.turns = [] ∧
      (enqueuePenalty k e s).port.dataOut = s.port.dataOut ∧ (enqueuePenalty k e s).port.turnReads = s.port.turnReads := by
  generalize e : enqueuePenalty k e s = t
  simp only [enqueuePenalty] at e
  (repeat' split at e) <;> subst e <;> simp (maxDischargeDepth := 12) [hq]

@[simp] theorem issue_idle (t : Fin 8) (k : Lane) (x : Stamp) (r : Response) (a d w : Nat) (s : State) (hq : s.port.turns = []) :
    (issue t k x r a d w s).port.turns = [] ∧
      (issue t k x r a d w s).port.dataOut = s.port.dataOut ∧ (issue t k x r a d w s).port.turnReads = s.port.turnReads := by
  cases r <;> simp (maxDischargeDepth := 12) [issue, hq]

@[simp] theorem trigger_idle (t : Fin 8) (k : Lane) (x : Stamp) (s : State) (hq : s.port.turns = []) :
    (trigger t k x s).port.turns = [] ∧
      (trigger t k x s).port.dataOut = s.port.dataOut ∧ (trigger t k x s).port.turnReads = s.port.turnReads := by
  generalize e : trigger t k x s = t
  simp only [trigger] at e
  (repeat' split at e) <;> subst e <;> simp (maxDischargeDepth := 12) [hq]

@[simp] theorem endService_idle (k : Lane) (x : Stamp) (sub n : Nat) (s : State) (hq : s.port.turns = []) :
    (endService k x sub n s).port.turns = [] ∧
      (endService k x sub n s).port.dataOut = s.port.dataOut ∧
      (endService k x sub n s).port.turnReads = s.port.turnReads := by
  generalize e : endService k x sub n s = t
  simp only [endService] at e
  (repeat' split at e) <;> subst e <;> simp (maxDischargeDepth := 12) [hq]

@[simp] theorem beginService_idle (k : Lane) (x : Stamp) (s : State) (hq : s.port.turns = []) :
    (beginService k x s).port.turns = [] ∧
      (beginService k x s).port.dataOut = s.port.dataOut ∧ (beginService k x s).port.turnReads = s.port.turnReads := by
  generalize e : beginService k x s = t
  simp only [beginService] at e
  (repeat' split at e) <;> subst e <;> simp (maxDischargeDepth := 12) [hq]

@[simp] theorem pushCheck_idle (k : Lane) (x : Stamp) (v : RaceView) (s : State) (hq : s.port.turns = []) :
    (pushCheck k x v s).port.turns = [] ∧
      (pushCheck k x v s).port.dataOut = s.port.dataOut ∧ (pushCheck k x v s).port.turnReads = s.port.turnReads := by
  generalize e : pushCheck k x v s = t
  simp only [pushCheck] at e
  (repeat' split at e) <;> subst e <;> simp (maxDischargeDepth := 12) [hq]

@[simp] theorem advanceCap_idle (k : Lane) (x : Stamp) (s : State) (hq : s.port.turns = []) :
    (advanceCap k x s).port.turns = [] ∧
      (advanceCap k x s).port.dataOut = s.port.dataOut ∧ (advanceCap k x s).port.turnReads = s.port.turnReads := by
  generalize e : advanceCap k x s = t
  simp only [advanceCap] at e
  (repeat' split at e) <;> subst e <;> simp (maxDischargeDepth := 12) [hq]

@[simp] theorem penAcceptedLine_idle (k : Lane) (x : Stamp) (c d : Bool) (v : RaceView) (s : State) (hq : s.port.turns = []) :
    (penAcceptedLine k x c d v s).port.turns = [] ∧
      (penAcceptedLine k x c d v s).port.dataOut = s.port.dataOut ∧
      (penAcceptedLine k x c d v s).port.turnReads = s.port.turnReads := by
  generalize e : penAcceptedLine k x c d v s = t
  simp only [penAcceptedLine] at e
  (repeat' split at e) <;> subst e <;> simp (maxDischargeDepth := 12) [hq]

@[simp] theorem convertAll_idle (k : Lane) (x : Stamp) (q : List PenEntry) (s : State) (hq : s.port.turns = []) :
    (convertAll k x q s).port.turns = [] ∧
      (convertAll k x q s).port.dataOut = s.port.dataOut ∧ (convertAll k x q s).port.turnReads = s.port.turnReads := by
  induction q generalizing s with
  | nil => simp (maxDischargeDepth := 12) [convertAll, hq]
  | cons e rest ih => simp (maxDischargeDepth := 12) [convertAll, ih, hq]

@[simp] theorem penFinish_idle (k : Lane) (x : Stamp) (s : State) (hq : s.port.turns = []) :
    (penFinish k x s).port.turns = [] ∧
      (penFinish k x s).port.dataOut = s.port.dataOut ∧ (penFinish k x s).port.turnReads = s.port.turnReads := by
  generalize e : penFinish k x s = t
  simp only [penFinish] at e
  (repeat' split at e) <;> subst e <;> simp (maxDischargeDepth := 12) [hq]

@[simp] theorem heatNotice_idle (sub : Nat) (label : Byte) (x : Stamp) (b : Nat) (s : State) (hq : s.port.turns = []) :
    (heatNotice sub label x b s).port.turns = [] ∧
      (heatNotice sub label x b s).port.dataOut = s.port.dataOut ∧
      (heatNotice sub label x b s).port.turnReads = s.port.turnReads := by
  simp (maxDischargeDepth := 12) [heatNotice, hq]

@[simp] theorem refuseEntry_idle (r : Nat) (label : Byte) (s : State) (hq : s.port.turns = []) :
    (refuseEntry r label s).port.turns = [] ∧
      (refuseEntry r label s).port.dataOut = s.port.dataOut ∧ (refuseEntry r label s).port.turnReads = s.port.turnReads := by
  generalize e : refuseEntry r label s = t
  simp only [refuseEntry] at e
  (repeat' split at e) <;> subst e <;> simp (maxDischargeDepth := 12) [hq]

@[simp] theorem createEntry_idle (s : State) (e : Byte × Fin 64) (hq : s.port.turns = []) :
    (createEntry s e).port.turns = [] ∧
      (createEntry s e).port.dataOut = s.port.dataOut ∧ (createEntry s e).port.turnReads = s.port.turnReads := by
  simp (maxDischargeDepth := 12) [createEntry, hq]

@[simp] theorem createTally_idle (es : List (Byte × Fin 64)) (s : State) (hq : s.port.turns = []) :
    (createTally es s).port.turns = [] ∧
      (createTally es s).port.dataOut = s.port.dataOut ∧ (createTally es s).port.turnReads = s.port.turnReads := by
  simp only [createTally]
  induction es generalizing s with
  | nil => simp (maxDischargeDepth := 12) [hq]
  | cons e es ih => simp (maxDischargeDepth := 12) [ih, hq]

@[simp] theorem enterCountdown_idle (x : Stamp) (s : State) (hq : s.port.turns = []) :
    (enterCountdown x s).port.turns = [] ∧
      (enterCountdown x s).port.dataOut = s.port.dataOut ∧ (enterCountdown x s).port.turnReads = s.port.turnReads := by
  generalize e : enterCountdown x s = t
  simp only [enterCountdown] at e
  (repeat' split at e) <;> subst e <;> simp (maxDischargeDepth := 12) [hq]

@[simp] theorem enterGreen_idle (x : Stamp) (s : State) (hq : s.port.turns = []) :
    (enterGreen x s).port.turns = [] ∧
      (enterGreen x s).port.dataOut = s.port.dataOut ∧ (enterGreen x s).port.turnReads = s.port.turnReads := by
  generalize e : enterGreen x s = t
  simp only [enterGreen] at e
  (repeat' split at e) <;> subst e <;> simp (maxDischargeDepth := 12) [hq]

@[simp] theorem jumpOnce_idle (k : Lane) (x : Stamp) (s : State) (hq : s.port.turns = []) :
    (jumpOnce k x s).port.turns = [] ∧
      (jumpOnce k x s).port.dataOut = s.port.dataOut ∧ (jumpOnce k x s).port.turnReads = s.port.turnReads := by
  generalize e : jumpOnce k x s = t
  simp only [jumpOnce] at e
  (repeat' split at e) <;> subst e <;> simp (maxDischargeDepth := 12) [hq]

@[simp] theorem jumpCrossing_idle (k : Lane) (x : Stamp) (s : State) (hq : s.port.turns = []) :
    (jumpCrossing k x s).port.turns = [] ∧
      (jumpCrossing k x s).port.dataOut = s.port.dataOut ∧ (jumpCrossing k x s).port.turnReads = s.port.turnReads := by
  generalize e : jumpCrossing k x s = t
  simp only [jumpCrossing] at e
  (repeat' split at e) <;> subst e <;> simp (maxDischargeDepth := 12) [hq]

@[simp] theorem stage_idle (h : HeatSnapshot) (es : List (Byte × Fin 64)) (x : Stamp) (s : State) (hq : s.port.turns = []) :
    (stage h es x s).port.turns = [] ∧
      (stage h es x s).port.dataOut = s.port.dataOut ∧ (stage h es x s).port.turnReads = s.port.turnReads := by
  generalize e : stage h es x s = t
  simp only [stage] at e
  (repeat' split at e) <;> subst e <;> simp (maxDischargeDepth := 12) [hq]

@[simp] theorem stageEntry_idle (h : HeatSnapshot) (es : List (Byte × Fin 64)) (s : State) (hq : s.port.turns = []) :
    (stageEntry h es s).port.turns = [] ∧
      (stageEntry h es s).port.dataOut = s.port.dataOut ∧ (stageEntry h es s).port.turnReads = s.port.turnReads := by
  generalize e : stageEntry h es s = t
  simp only [stageEntry] at e
  (repeat' split at e) <;> subst e <;> simp (maxDischargeDepth := 12) [hq]

@[simp] theorem examineEntry_idle (s : State) (hq : s.port.turns = []) :
    (examineEntry s).port.turns = [] ∧
      (examineEntry s).port.dataOut = s.port.dataOut ∧ (examineEntry s).port.turnReads = s.port.turnReads := by
  generalize e : examineEntry s = t
  simp only [examineEntry] at e
  (repeat' split at e) <;> subst e <;> simp (maxDischargeDepth := 12) [hq]

@[simp] theorem examineCard_idle (s : State) (hq : s.port.turns = []) :
    (examineCard s).port.turns = [] ∧
      (examineCard s).port.dataOut = s.port.dataOut ∧ (examineCard s).port.turnReads = s.port.turnReads := by
  generalize e : examineCard s = t
  simp only [examineCard] at e
  (repeat' split at e) <;> subst e <;> simp (maxDischargeDepth := 12) [hq]

@[simp] theorem runoutNotice_idle (c : Nat) (b : Option Lane) (x : Stamp) (s : State) (hq : s.port.turns = []) :
    (runoutNotice c b x s).port.turns = [] ∧
      (runoutNotice c b x s).port.dataOut = s.port.dataOut ∧ (runoutNotice c b x s).port.turnReads = s.port.turnReads := by
  generalize e : runoutNotice c b x s = t
  simp only [runoutNotice] at e
  (repeat' split at e) <;> subst e <;> simp (maxDischargeDepth := 12) [hq]

@[simp] theorem enterRunout_idle (x : Stamp) (c : Nat) (b : Option Lane) (s : State) (hq : s.port.turns = []) :
    (enterRunout x c b s).port.turns = [] ∧
      (enterRunout x c b s).port.dataOut = s.port.dataOut ∧ (enterRunout x c b s).port.turnReads = s.port.turnReads := by
  generalize e : enterRunout x c b s = t
  simp only [enterRunout] at e
  (repeat' split at e) <;> subst e <;> simp (maxDischargeDepth := 12) [hq]

@[simp] theorem limitInCall_idle (x : Stamp) (k : Lane) (s : State) (hq : s.port.turns = []) :
    (limitInCall x k s).port.turns = [] ∧
      (limitInCall x k s).port.dataOut = s.port.dataOut ∧ (limitInCall x k s).port.turnReads = s.port.turnReads := by
  simp (maxDischargeDepth := 12) [limitInCall, hq]

@[simp] theorem lapCompleted_idle (k : Lane) (x : Stamp) (v : RaceView) (s : State) (hq : s.port.turns = []) :
    ((lapCompleted k x v s).1).port.turns = [] ∧
      ((lapCompleted k x v s).1).port.dataOut = s.port.dataOut ∧
      ((lapCompleted k x v s).1).port.turnReads = s.port.turnReads := by
  generalize e : (lapCompleted k x v s).1 = t
  simp only [lapCompleted] at e
  (repeat' split at e) <;> subst e <;> simp (maxDischargeDepth := 12) [hq]

@[simp] theorem settle_idle (x : Stamp) (s : State) (hq : s.port.turns = []) :
    (settle x s).port.turns = [] ∧
      (settle x s).port.dataOut = s.port.dataOut ∧ (settle x s).port.turnReads = s.port.turnReads := by
  generalize e : settle x s = t
  simp only [settle] at e
  (repeat' split at e) <;> subst e <;> simp (maxDischargeDepth := 12) [hq]

@[simp] theorem raceFinish_idle (k : Lane) (x : Stamp) (s : State) (hq : s.port.turns = []) :
    (raceFinish k x s).port.turns = [] ∧
      (raceFinish k x s).port.dataOut = s.port.dataOut ∧ (raceFinish k x s).port.turnReads = s.port.turnReads := by
  generalize e : raceFinish k x s = t
  simp only [raceFinish] at e
  (repeat' split at e) <;> subst e <;> simp (maxDischargeDepth := 12) [hq]

@[simp] theorem abortHeat_idle (x : Stamp) (s : State) (hq : s.port.turns = []) :
    (abortHeat x s).port.turns = [] ∧
      (abortHeat x s).port.dataOut = s.port.dataOut ∧ (abortHeat x s).port.turnReads = s.port.turnReads := by
  generalize e : abortHeat x s = t
  simp only [abortHeat] at e
  (repeat' split at e) <;> subst e <;> simp (maxDischargeDepth := 12) [hq]

@[simp] theorem callNotice_idle (o : CallOrigin) (n : Nat) (x : Stamp) (s : State) (hq : s.port.turns = []) :
    (callNotice o n x s).port.turns = [] ∧
      (callNotice o n x s).port.dataOut = s.port.dataOut ∧ (callNotice o n x s).port.turnReads = s.port.turnReads := by
  generalize e : callNotice o n x s = t
  simp only [callNotice] at e
  (repeat' split at e) <;> subst e <;> simp (maxDischargeDepth := 12) [hq]

@[simp] theorem chargeCall_idle (o : CallOrigin) (n : Nat) (x : Stamp) (s : State) (hq : s.port.turns = []) :
    (chargeCall o n x s).port.turns = [] ∧
      (chargeCall o n x s).port.dataOut = s.port.dataOut ∧ (chargeCall o n x s).port.turnReads = s.port.turnReads := by
  generalize e : chargeCall o n x s = t
  simp only [chargeCall] at e
  (repeat' split at e) <;> subst e <;> simp (maxDischargeDepth := 12) [hq]

@[simp] theorem callRestage_idle (o : CallOrigin) (x : Stamp) (s : State) (hq : s.port.turns = []) :
    (callRestage o x s).port.turns = [] ∧
      (callRestage o x s).port.dataOut = s.port.dataOut ∧ (callRestage o x s).port.turnReads = s.port.turnReads := by
  simp (maxDischargeDepth := 12) [callRestage, hq]

@[simp] theorem callStart_idle (o : CallOrigin) (x : Stamp) (s : State) (hq : s.port.turns = []) :
    (callStart o x s).port.turns = [] ∧
      (callStart o x s).port.dataOut = s.port.dataOut ∧ (callStart o x s).port.turnReads = s.port.turnReads := by
  generalize e : callStart o x s = t
  simp only [callStart] at e
  (repeat' split at e) <;> subst e <;> simp (maxDischargeDepth := 12) [hq]

@[simp] theorem callMerge_idle (o : CallOrigin) (x : Stamp) (s : State) (hq : s.port.turns = []) :
    (callMerge o x s).port.turns = [] ∧
      (callMerge o x s).port.dataOut = s.port.dataOut ∧ (callMerge o x s).port.turnReads = s.port.turnReads := by
  simp (maxDischargeDepth := 12) [callMerge, hq]

@[simp] theorem callAgain_idle (o : CallOrigin) (x : Stamp) (s : State) (hq : s.port.turns = []) :
    (callAgain o x s).port.turns = [] ∧
      (callAgain o x s).port.dataOut = s.port.dataOut ∧ (callAgain o x s).port.turnReads = s.port.turnReads := by
  simp (maxDischargeDepth := 12) [callAgain, hq]

@[simp] theorem takeCall_idle (o : CallOrigin) (x : Stamp) (s : State) (hq : s.port.turns = []) :
    (takeCall o x s).port.turns = [] ∧
      (takeCall o x s).port.dataOut = s.port.dataOut ∧ (takeCall o x s).port.turnReads = s.port.turnReads := by
  generalize e : takeCall o x s = t
  simp only [takeCall] at e
  (repeat' split at e) <;> subst e <;> simp (maxDischargeDepth := 12) [hq]

@[simp] theorem resumeNotice_idle (sub : Nat) (x : Stamp) (b : Nat) (s : State) (hq : s.port.turns = []) :
    (resumeNotice sub x b s).port.turns = [] ∧
      (resumeNotice sub x b s).port.dataOut = s.port.dataOut ∧
      (resumeNotice sub x b s).port.turnReads = s.port.turnReads := by
  simp (maxDischargeDepth := 12) [resumeNotice, hq]

@[simp] theorem beginResume_idle (x : Stamp) (s : State) (hq : s.port.turns = []) :
    (beginResume x s).port.turns = [] ∧
      (beginResume x s).port.dataOut = s.port.dataOut ∧ (beginResume x s).port.turnReads = s.port.turnReads := by
  simp (maxDischargeDepth := 12) [beginResume, hq]

@[simp] theorem finishResume_idle (x : Stamp) (s : State) (hq : s.port.turns = []) :
    (finishResume x s).port.turns = [] ∧
      (finishResume x s).port.dataOut = s.port.dataOut ∧ (finishResume x s).port.turnReads = s.port.turnReads := by
  generalize e : finishResume x s = t
  simp only [finishResume] at e
  (repeat' split at e) <;> subst e <;> simp (maxDischargeDepth := 12) [hq]

@[simp] theorem pageOpen_idle (k : Lane) (s : State) (hq : s.port.turns = []) :
    ((pageOpen k s).1).port.turns = [] ∧
      ((pageOpen k s).1).port.dataOut = s.port.dataOut ∧ ((pageOpen k s).1).port.turnReads = s.port.turnReads := by
  simp (maxDischargeDepth := 12) [pageOpen, hq]

@[simp] theorem writePage_idle (k : Lane) (h : HeldLap) (s : State) (hq : s.port.turns = []) :
    ((writePage k h s).1).port.turns = [] ∧
      ((writePage k h s).1).port.dataOut = s.port.dataOut ∧ ((writePage k h s).1).port.turnReads = s.port.turnReads := by
  generalize e : (writePage k h s).1 = t
  simp only [writePage] at e
  (repeat' split at e) <;> subst e <;> simp (maxDischargeDepth := 12) [hq]

@[simp] theorem retryLaps_idle (k : Lane) (q : List HeldLap) (s : State) (hq : s.port.turns = []) :
    (retryLaps k q s).port.turns = [] ∧
      (retryLaps k q s).port.dataOut = s.port.dataOut ∧ (retryLaps k q s).port.turnReads = s.port.turnReads := by
  induction q generalizing s with
  | nil => simp (maxDischargeDepth := 12) [retryLaps, hq]
  | cons h rest ih =>
    generalize e : retryLaps k (h :: rest) s = t
    simp only [retryLaps] at e
    (repeat' split at e) <;> subst e <;> simp (maxDischargeDepth := 12) [ih, hq]

@[simp] theorem retryBook_idle (k : Lane) (s : State) (hq : s.port.turns = []) :
    (retryBook k s).port.turns = [] ∧
      (retryBook k s).port.dataOut = s.port.dataOut ∧ (retryBook k s).port.turnReads = s.port.turnReads := by
  simp (maxDischargeDepth := 12) [retryBook, hq]

@[simp] theorem retryEach_idle (ks : List Lane) (s : State) (hq : s.port.turns = []) :
    ((ks.foldl (fun s k => retryBook k s) s)).port.turns = [] ∧
      ((ks.foldl (fun s k => retryBook k s) s)).port.dataOut = s.port.dataOut ∧
      ((ks.foldl (fun s k => retryBook k s) s)).port.turnReads = s.port.turnReads := by
  induction ks generalizing s with
  | nil => simp (maxDischargeDepth := 12) [hq]
  | cons k ks ih => simp (maxDischargeDepth := 12) [ih, hq]

@[simp] theorem retryBooks_idle (s : State) (hq : s.port.turns = []) :
    (retryBooks s).port.turns = [] ∧
      (retryBooks s).port.dataOut = s.port.dataOut ∧ (retryBooks s).port.turnReads = s.port.turnReads := by
  simp (maxDischargeDepth := 12) [retryBooks, hq]

@[simp] theorem arriveLap_idle (k : Lane) (r : LapRecord) (s : State) (hq : s.port.turns = []) :
    (arriveLap k r s).port.turns = [] ∧
      (arriveLap k r s).port.dataOut = s.port.dataOut ∧ (arriveLap k r s).port.turnReads = s.port.turnReads := by
  generalize e : arriveLap k r s = t
  simp only [arriveLap] at e
  (repeat' split at e) <;> subst e <;> simp (maxDischargeDepth := 12) [hq]

@[simp] theorem anomaly_idle (sub : Nat) (c : Crossing) (a b : Nat) (s : State) (hq : s.port.turns = []) :
    (anomaly sub c a b s).port.turns = [] ∧
      (anomaly sub c a b s).port.dataOut = s.port.dataOut ∧ (anomaly sub c a b s).port.turnReads = s.port.turnReads := by
  simp (maxDischargeDepth := 12) [anomaly, hq]

@[simp] theorem finishLane_idle (k : Lane) (x : Stamp) (b : Bool) (s : State) (hq : s.port.turns = []) :
    (finishLane k x b s).port.turns = [] ∧
      (finishLane k x b s).port.dataOut = s.port.dataOut ∧ (finishLane k x b s).port.turnReads = s.port.turnReads := by
  simp (maxDischargeDepth := 12) [finishLane, hq]

@[simp] theorem completeLap_idle (c : Crossing) (v : RaceView) (s : State) (hq : s.port.turns = []) :
    (completeLap c v s).port.turns = [] ∧
      (completeLap c v s).port.dataOut = s.port.dataOut ∧ (completeLap c v s).port.turnReads = s.port.turnReads := by
  generalize e : completeLap c v s = t
  simp only [completeLap] at e
  (repeat' split at e) <;> subst e <;> simp (maxDischargeDepth := 12) [hq]

@[simp] theorem acceptCrossing_idle (c : Crossing) (how : Accepted) (mark : LapLane → LapLane) (s : State) (hq : s.port.turns = []) :
    (acceptCrossing c how mark s).port.turns = [] ∧
      (acceptCrossing c how mark s).port.dataOut = s.port.dataOut ∧
      (acceptCrossing c how mark s).port.turnReads = s.port.turnReads := by
  generalize e : acceptCrossing c how mark s = t
  simp only [acceptCrossing] at e
  (repeat' split at e) <;> subst e <;> simp (maxDischargeDepth := 12) [hq]

@[simp] theorem startGrid_idle (c : Crossing) (s : State) (hq : s.port.turns = []) :
    (startGrid c s).port.turns = [] ∧
      (startGrid c s).port.dataOut = s.port.dataOut ∧ (startGrid c s).port.turnReads = s.port.turnReads := by
  simp (maxDischargeDepth := 12) [startGrid, hq]

@[simp] theorem finishGrid_idle (c : Crossing) (s : State) (hq : s.port.turns = []) :
    (finishGrid c s).port.turns = [] ∧
      (finishGrid c s).port.dataOut = s.port.dataOut ∧ (finishGrid c s).port.turnReads = s.port.turnReads := by
  simp (maxDischargeDepth := 12) [finishGrid, hq]

@[simp] theorem takeJump_idle (c : Crossing) (s : State) (hq : s.port.turns = []) :
    (takeJump c s).port.turns = [] ∧
      (takeJump c s).port.dataOut = s.port.dataOut ∧ (takeJump c s).port.turnReads = s.port.turnReads := by
  generalize e : takeJump c s = t
  simp only [takeJump] at e
  (repeat' split at e) <;> subst e <;> simp (maxDischargeDepth := 12) [hq]

@[simp] theorem applyVerdict_idle (v : Verdict) (c : Crossing) (s : State) (hq : s.port.turns = []) :
    (applyVerdict v c s).port.turns = [] ∧
      (applyVerdict v c s).port.dataOut = s.port.dataOut ∧ (applyVerdict v c s).port.turnReads = s.port.turnReads := by
  cases v <;> simp (maxDischargeDepth := 12) [applyVerdict, hq]

@[simp] theorem takeCrossing_idle (o : Orders) (c : Crossing) (s : State) (hq : s.port.turns = []) :
    (takeCrossing o c s).port.turns = [] ∧
      (takeCrossing o c s).port.dataOut = s.port.dataOut ∧ (takeCrossing o c s).port.turnReads = s.port.turnReads := by
  generalize e : takeCrossing o c s = t
  simp only [takeCrossing] at e
  (repeat' split at e) <;> subst e <;> simp (maxDischargeDepth := 12) [hq]

@[simp] theorem cutLane_idle (b : Bool) (x : Stamp) (s : State) (k : Lane) (hq : s.port.turns = []) :
    (cutLane b x s k).port.turns = [] ∧
      (cutLane b x s k).port.dataOut = s.port.dataOut ∧ (cutLane b x s k).port.turnReads = s.port.turnReads := by
  generalize e : cutLane b x s k = t
  simp only [cutLane] at e
  (repeat' split at e) <;> subst e <;> simp (maxDischargeDepth := 12) [hq]

@[simp] theorem cutLanes_idle (b : Bool) (x : Stamp) (ks : List Lane) (s : State) (hq : s.port.turns = []) :
    ((ks.foldl (cutLane b x) s)).port.turns = [] ∧
      ((ks.foldl (cutLane b x) s)).port.dataOut = s.port.dataOut ∧
      ((ks.foldl (cutLane b x) s)).port.turnReads = s.port.turnReads := by
  induction ks generalizing s with
  | nil => simp (maxDischargeDepth := 12) [hq]
  | cons k ks ih => simp (maxDischargeDepth := 12) [ih, hq]

@[simp] theorem applyChange_idle (o : Orders) (ch : Change) (s : State) (hq : s.port.turns = []) :
    (applyChange o ch s).port.turns = [] ∧
      (applyChange o ch s).port.dataOut = s.port.dataOut ∧ (applyChange o ch s).port.turnReads = s.port.turnReads := by
  unfold applyChange; split <;> simp (maxDischargeDepth := 12) [hq]

@[simp] theorem drain_idle (o : Orders) (x : Stamp) (q : List Crossing) (s : State) (hq : s.port.turns = []) :
    (drain o x q s).port.turns = [] ∧
      (drain o x q s).port.dataOut = s.port.dataOut ∧ (drain o x q s).port.turnReads = s.port.turnReads := by
  induction q generalizing s with
  | nil => simp (maxDischargeDepth := 12) [drain, hq]
  | cons c rest ih => unfold drain; split <;> simp (maxDischargeDepth := 12) [ih, hq]

@[simp] theorem takeHeadChange_idle (o : Orders) (s : State) (hq : s.port.turns = []) :
    (takeHeadChange o s).port.turns = [] ∧
      (takeHeadChange o s).port.dataOut = s.port.dataOut ∧ (takeHeadChange o s).port.turnReads = s.port.turnReads := by
  unfold takeHeadChange; split
  · simp (maxDischargeDepth := 12) [hq]
  · next ch _ _ => obtain ⟨kind, st⟩ := ch; cases kind <;> simp (maxDischargeDepth := 12) [hq]

@[simp] theorem takeDue_idle (o : Orders) (n : Nat) (s : State) (hq : s.port.turns = []) :
    (takeDue o n s).port.turns = [] ∧
      (takeDue o n s).port.dataOut = s.port.dataOut ∧ (takeDue o n s).port.turnReads = s.port.turnReads := by
  induction n generalizing s with
  | zero => simp (maxDischargeDepth := 12) [takeDue, hq]
  | succ n ih => unfold takeDue; split <;> simp (maxDischargeDepth := 12) [ih, hq]

@[simp] theorem takeAllDue_idle (o : Orders) (s : State) (hq : s.port.turns = []) :
    (takeAllDue o s).port.turns = [] ∧
      (takeAllDue o s).port.dataOut = s.port.dataOut ∧ (takeAllDue o s).port.turnReads = s.port.turnReads := by
  simp (maxDischargeDepth := 12) [takeAllDue, hq]

@[simp] theorem takeNext_idle (o : Orders) (s : State) (hq : s.port.turns = []) :
    (takeNext o s).port.turns = [] ∧
      (takeNext o s).port.dataOut = s.port.dataOut ∧ (takeNext o s).port.turnReads = s.port.turnReads := by
  generalize e : takeNext o s = t
  simp only [takeNext] at e
  (repeat' split at e) <;> subst e <;> simp (maxDischargeDepth := 12) [hq]

@[simp] theorem takeSome_idle (o : Orders) (n : Nat) (s : State) (hq : s.port.turns = []) :
    (takeSome o n s).port.turns = [] ∧
      (takeSome o n s).port.dataOut = s.port.dataOut ∧ (takeSome o n s).port.turnReads = s.port.turnReads := by
  induction n generalizing s with
  | zero => simp (maxDischargeDepth := 12) [takeSome, hq]
  | succ n ih => unfold takeSome; split <;> simp (maxDischargeDepth := 12) [ih, hq]

@[simp] theorem crossingWork_idle (o : Orders) (s : State) (hq : s.port.turns = []) :
    (crossingWork o s).port.turns = [] ∧
      (crossingWork o s).port.dataOut = s.port.dataOut ∧ (crossingWork o s).port.turnReads = s.port.turnReads := by
  simp (maxDischargeDepth := 12) [crossingWork, hq]

@[simp] theorem refreshLane_idle (s : State) (k : Lane) (hq : s.port.turns = []) :
    (refreshLane s k).port.turns = [] ∧
      (refreshLane s k).port.dataOut = s.port.dataOut ∧ (refreshLane s k).port.turnReads = s.port.turnReads := by
  simp (maxDischargeDepth := 12) [refreshLane, hq]

@[simp] theorem refreshLanes_idle (ks : List Lane) (s : State) (hq : s.port.turns = []) :
    ((ks.foldl refreshLane s)).port.turns = [] ∧
      ((ks.foldl refreshLane s)).port.dataOut = s.port.dataOut ∧
      ((ks.foldl refreshLane s)).port.turnReads = s.port.turnReads := by
  induction ks generalizing s with
  | nil => simp (maxDischargeDepth := 12) [hq]
  | cons k ks ih => simp (maxDischargeDepth := 12) [ih, hq]

@[simp] theorem refreshStatus_idle (s : State) (hq : s.port.turns = []) :
    (refreshStatus s).port.turns = [] ∧
      (refreshStatus s).port.dataOut = s.port.dataOut ∧ (refreshStatus s).port.turnReads = s.port.turnReads := by
  simp (maxDischargeDepth := 12) [refreshStatus, hq]

end Sys2Proof.Machine
end

