-- ==== Sys2Proof/Laws/Operations.lean ====
section
/-! SUPPORT. What the shared operations do, said once: fixed tables, bytes and fields of record memory, hand-overs,
notices and slips written, and lane power evaluated. Later proofs cite these and do not unfold the operations. -/

namespace Sys2Proof.Machine

open Config

/-! ### Fixed tables -/

@[simp] theorem put_put {α : Type} {n : Nat} (v : Vector α n) (k : Fin n) (x y : α) :
    put (put v k x) k y = put v k y := by
  ext i hi
  simp [put, Vector.getElem_set]

@[simp] theorem put_pick {α : Type} {n : Nat} (v : Vector α n) (k : Fin n) : put v k (pick v k) = v := by
  ext i hi
  simp [put, pick]

theorem table_ext {α : Type} {n : Nat} {v w : Vector α n} (h : ∀ k, pick v k = pick w k) : v = w := by
  ext i hi
  exact h ⟨i, hi⟩

theorem amend_eq_put {α : Type} {n : Nat} (v : Vector α n) (k : Fin n) (f : α → α) :
    amend v k f = put v k (f (pick v k)) := rfl

/-! ### Bytes and fields -/

@[simp] theorem bytesOf_length (l n : Nat) : (bytesOf l n).length = l := by simp [bytesOf]

/-- A number written in so many bytes reads back modulo its width. -/
theorem natOf_bytesOf : ∀ (l n : Nat), natOf (bytesOf l n) = n % 256 ^ l := by
  intro l
  induction l with
  | zero => intro n; simp [natOf, bytesOf, Nat.mod_one]
  | succ l ih =>
    intro n
    have : bytesOf (l+1) n = bytesOf l (n / 256) ++ [BitVec.ofNat 8 n] := by
      simp only [bytesOf, List.range_succ, List.map_append, List.map_cons, List.map_nil]
      congr 1
      · apply List.map_congr_left
        intro i hi
        simp only [List.mem_range] at hi
        rw [Nat.div_div_eq_div_mul, ← Nat.pow_succ']
        congr 3; omega
      · simp
    rw [this, natOf, List.foldl_append]
    have := ih (n / 256)
    simp only [natOf] at this
    simp only [List.foldl_cons, List.foldl_nil, this, BitVec.toNat_ofNat]
    rw [show 256 ^ (l + 1) = 256 * 256 ^ l by rw [Nat.pow_succ, Nat.mul_comm], Nat.mod_mul]
    omega

/-- Memory that holds a list of bytes from an address on reads as that list. -/
theorem readBytes_eq (s : State) (a : Nat) (bs : List Byte) (h : ∀ i (hi : i < bs.length), readByte s (a + i) = bs[i]) :
   readBytes s a bs.length = bs := by
  apply List.ext_getElem
  · simp [readBytes]
  · intro i h1 h2; simp [readBytes]; exact h i h2

/-- Memory that holds a number's bytes from an address on reads as that number. -/
theorem readField_bytesOf (s : State) (a l n : Nat) (h : ∀ i (hi : i < (bytesOf l n).length), readByte s (a + i) = (bytesOf l n)[i]) :
   readField s a l = n % 256 ^ l := by
  have := readBytes_eq s a (bytesOf l n) h
  rw [bytesOf_length] at this
  rw [readField, this, natOf_bytesOf]

/-- A field inside a longer list of written bytes. -/
theorem readField_sub (s : State) (a : Nat) (pre post : List Byte) (l n : Nat)
   (h : ∀ i (hi : i < (pre ++ bytesOf l n ++ post).length), readByte s (a + i) = (pre ++ bytesOf l n ++ post)[i]) :
   readField s (a + pre.length) l = n % 256 ^ l := by
  apply readField_bytesOf
  intro i hi
  have := h (pre.length + i) (by simp at hi ⊢; omega)
  rw [Nat.add_assoc, this]
  rw [List.getElem_append_left (by simp at hi ⊢; omega), List.getElem_append_right (by omega)]
  simp

/-! ### Hand-overs -/

theorem writeBytes_eq (a : Nat) (bs : List Byte) (s : State) :
    writeBytes a bs s = { s with mem := (writeBytes a bs s).mem } := rfl

/-! ### Notices -/

theorem noticeBytes_length (h : HeldNotice) (z : Half) : (noticeBytes h z).length = 15 := by
  simp [noticeBytes, stampBytes, bytesOf_length]

theorem noticeAddr_bounds (c : Fin 128) : 0xE00 ≤ noticeAddr c ∧ noticeAddr c + 16 ≤ 0x1600 := by
  unfold noticeAddr noticeBase
  omega

/-- A notice written into an EMPTY entry (R20): the bytes it writes, the state byte, and what changes beside. -/
theorem writeNotice_empty (h : HeldNotice) (s : State) (hf : s.port.turns = [])
    (he : readByte s (noticeAddr s.port.noticeCursor) &&& 0x0F = 1) :
    ∃ m, writeNotice h s = ({ s with
      mem := m
      port := { s.port with
        sum := s.port.sum ||| 8, noticeSerial := s.port.noticeSerial + 1, noticeCursor := s.port.noticeCursor + 1 } },
      true) ∧
      Memory.read m (noticeAddr s.port.noticeCursor) = BitVec.ofNat 8 (16 * h.notice.lane + 2) ∧
      (∀ i (hi : i < (noticeBytes h (s.port.noticeSerial + 1)).length),
        Memory.read m (noticeAddr s.port.noticeCursor + 1 + i) = (noticeBytes h (s.port.noticeSerial + 1))[i]) ∧
      ∀ j, ¬ Within (noticeAddr s.port.noticeCursor) 16 j → Memory.read m j = readByte s j := by
  have hb := noticeAddr_bounds s.port.noticeCursor
  generalize ha : noticeAddr s.port.noticeCursor = a at *
  generalize hz : noticeBytes h (s.port.noticeSerial + 1) = bs at *
  have hl : bs.length = 15 := by rw [← hz, noticeBytes_length]
  generalize hw : writeBytes (a + 1) bs s = w
  have h1 : readByte w a = readByte s a := by
    rw [← hw]; exact readByte_writeBytes_outside s (a + 1) a bs (by left; omega)
  have h3 : w.port.turns = [] := by rw [← hw]; simpa using hf
  have h2 : recheck a 0x0F 1 (deviceWrite (a + 1) bs s) = (w, true) := by
    rw [deviceWrite_idle s hf, hw, recheck_idle _ h3, h1, he]; rfl
  refine ⟨(writeBytes a [BitVec.ofNat 8 (16 * h.notice.lane + 2)] w).mem, ?_,
    readByte_writeByte_same w a _ (by unfold memSize; omega), fun i hi => ?_, fun j hj => ?_⟩
  · simp only [writeNotice, ha, hz, h2, if_true, deviceWrite_idle _ h3]
    rw [← hw]
    rfl
  · refine (readByte_writeBytes_outside w a (a + 1 + i) _ (by right; simp)).trans ?_
    rw [← hw]
    exact readByte_writeBytes_inside s (a + 1) i bs hi (by unfold memSize; omega)
  · refine (readByte_writeBytes_outside w a j _ (by simp [Within] at hj ⊢; omega)).trans ?_
    rw [← hw]
    exact readByte_writeBytes_outside s (a + 1) j bs (by rw [hl]; simp [Within] at hj; omega)

/-- The fields of a notice whose bytes 1 to 15 stand in memory (section 1.7). -/
theorem notice_fields (t : State) (a : Nat) (h : HeldNotice) (z : Half)
   (hb : ∀ i (hi : i < (noticeBytes h z).length), readByte t (a + 1 + i) = (noticeBytes h z)[i]) :
   readByte t (a + 1) = BitVec.ofNat 8 (16 * h.notice.kind.code + h.notice.subcode) ∧
      readByte t (a + 2) = h.notice.racer ∧ readByte t (a + 3) = h.notice.label ∧
      readField t (a + 4) 5 = h.notice.stamp.toNat ∧
      readField t (a + 9) 2 = h.notice.a % 65536 ∧ readField t (a + 11) 2 = h.notice.b % 65536 ∧
      readField t (a + 13) 2 = z.toNat ∧ readField t (a + 15) 1 = h.lost % 256 := by
  have hl := noticeBytes_length h z
  let head : List Byte := 
    [BitVec.ofNat 8 (16 * h.notice.kind.code + h.notice.subcode), h.notice.racer, h.notice.label]
  refine ⟨?_, ?_, ?_, ?_, ?_, ?_, ?_, ?_⟩
  · have := hb 0 (by omega); simpa [noticeBytes] using this
  · have := hb 1 (by omega); simpa [noticeBytes] using this
  · have := hb 2 (by omega); simpa [noticeBytes] using this
  · have := readField_sub t (a+1) head
      (bytesOf 2 h.notice.a ++ bytesOf 2 h.notice.b ++ bytesOf 2 z.toNat ++ bytesOf 1 h.lost) 5 h.notice.stamp.toNat
      (by simpa only [noticeBytes, head, stampBytes, List.append_assoc] using hb)
    simp only [head, List.length_cons, List.length_nil] at this
    rw [show a + 1 + (0+1+1+1) = a + 4 from rfl] at this
    rw [this]; have := h.notice.stamp.isLt; omega
  · have := readField_sub t (a+1) (head ++ stampBytes h.notice.stamp)
      (bytesOf 2 h.notice.b ++ bytesOf 2 z.toNat ++ bytesOf 1 h.lost) 2 h.notice.a
      (by simpa only [noticeBytes, head, List.append_assoc] using hb)
    simp only [head, List.length_append, stampBytes, bytesOf_length, List.length_cons, List.length_nil] at this
    exact this
  · have := readField_sub t (a+1) (head ++ stampBytes h.notice.stamp ++ bytesOf 2 h.notice.a)
      (bytesOf 2 z.toNat ++ bytesOf 1 h.lost) 2 h.notice.b
      (by simpa only [noticeBytes, head, List.append_assoc] using hb)
    simp only [head, List.length_append, stampBytes, bytesOf_length, List.length_cons, List.length_nil] at this
    exact this
  · have := readField_sub t (a+1) (head ++ stampBytes h.notice.stamp ++ bytesOf 2 h.notice.a ++ bytesOf 2 h.notice.b)
      (bytesOf 1 h.lost) 2 z.toNat
      (by simpa only [noticeBytes, head, List.append_assoc] using hb)
    simp only [head, List.length_append, stampBytes, bytesOf_length, List.length_cons, List.length_nil] at this
    rw [show a + 1 + (0+1+1+1+5+2+2) = a + 13 from rfl] at this
    rw [this]; have := z.isLt; omega
  · have := readField_sub t (a+1) (head ++ stampBytes h.notice.stamp ++ bytesOf 2 h.notice.a ++ bytesOf 2 h.notice.b ++ bytesOf 2 z.toNat)
      [] 1 h.lost
      (by simpa only [noticeBytes, head, List.append_assoc, List.append_nil] using hb)
    simp only [head, List.length_append, stampBytes, bytesOf_length, List.length_cons, List.length_nil] at this
    exact this

theorem retryNotices_of_empty (s : State) (h : s.port.noticeQueue = []) : retryNotices s = s := by
  simp [retryNotices, h, retryHeld]

/-- A retry with the entry at the cursor not EMPTY does nothing (R19). -/
theorem retryNotices_blocked (s : State) (hq : s.port.turns = [])
    (h : readByte s (noticeAddr s.port.noticeCursor) &&& 0x0F ≠ 1) : retryNotices s = s := by
  unfold retryNotices
  have hn : noticeEntryEmpty s = (s, false) := by
    rw [noticeEntryEmpty, recheck_idle s hq, decide_eq_false h]
  cases s.port.noticeQueue with
  | nil => rfl
  | cons a b => simp [retryHeld, hn]

/-! ### Blocks with an update count (R10) -/

theorem foldl_writeBytes_eq (fields : List (Nat × List Byte)) (s : State) :
    fields.foldl (fun t f => writeBytes f.1 f.2 t) s =
      { s with mem := (fields.foldl (fun t f => writeBytes f.1 f.2 t) s).mem } := by
  induction fields generalizing s with
  | nil => rfl
  | cons f fs ih => rw [List.foldl_cons, ih]; rfl

theorem foldl_writeBytes_outside (fields : List (Nat × List Byte)) (s : State) (j : Nat)
    (h : ∀ f ∈ fields, j < f.1 ∨ f.1 + f.2.length ≤ j) :
    readByte (fields.foldl (fun t f => writeBytes f.1 f.2 t) s) j = readByte s j := by
  induction fields generalizing s with
  | nil => rfl
  | cons f fs ih =>
    rw [List.foldl_cons, ih _ fun g hg => h g (List.mem_cons_of_mem f hg)]
    exact readByte_writeBytes_outside _ _ _ _ (h f (List.mem_cons_self ..))

/-- With no host access waiting, an update is its writes, all at once. -/
theorem updateBlock_writes (c : Nat) (fields : List (Nat × List Byte)) (s : State) (hq : s.port.turns = []) :
    updateBlock c fields s = writeBytes c [readByte s c + 2]
      (fields.foldl (fun t f => writeBytes f.1 f.2 t) (writeBytes c [readByte s c + 1] s)) := by
  have each : ∀ (fs : List (Nat × List Byte)) (t : State), t.port.turns = [] →
      fs.foldl (fun t f => deviceWrite f.1 f.2 t) t = fs.foldl (fun t f => writeBytes f.1 f.2 t) t ∧
        (fs.foldl (fun t f => writeBytes f.1 f.2 t) t).port.turns = [] := by
    intro fs
    induction fs with
    | nil => exact fun _ h => ⟨rfl, h⟩
    | cons f fs ih =>
      intro t h
      simp only [List.foldl_cons]
      rw [deviceWrite_idle t h]
      exact ih _ (by simpa using h)
  have start : (writeBytes c [readByte s c + 1] s).port.turns = [] := by simpa using hq
  simp only [updateBlock, deviceRead_idle s hq, deviceWrite_idle s hq, (each fields _ start).1]
  exact deviceWrite_idle _ (each fields _ start).2 _ _

/-- An update changes record memory and nothing else. -/
theorem updateBlock_eq (c : Nat) (fields : List (Nat × List Byte)) (s : State) (hq : s.port.turns = []) :
    updateBlock c fields s = { s with mem := (updateBlock c fields s).mem } := by
  rw [updateBlock_writes _ _ _ hq, foldl_writeBytes_eq]
  rfl

/-- An update raises the block's count by 2. -/
theorem updateBlock_count (c : Nat) (fields : List (Nat × List Byte)) (s : State) (hq : s.port.turns = [])
    (h : c < memSize) : readByte (updateBlock c fields s) c = readByte s c + 2 := by
  rw [updateBlock_writes _ _ _ hq]
  exact readByte_writeByte_same _ _ _ h

/-- An update leaves every byte outside the count and the fields. -/
theorem updateBlock_outside (c j : Nat) (fields : List (Nat × List Byte)) (s : State) (hq : s.port.turns = [])
    (hc : j ≠ c) (h : ∀ f ∈ fields, j < f.1 ∨ f.1 + f.2.length ≤ j) :
    readByte (updateBlock c fields s) j = readByte s j := by
  have hj : ∀ (b : Byte) (t : State), readByte (writeBytes c [b] t) j = readByte t j := fun b t =>
    readByte_writeBytes_outside _ _ _ _ (by simp; omega)
  rw [updateBlock_writes _ _ _ hq, hj, foldl_writeBytes_outside _ _ _ h, hj]

/-- An update of one field leaves its bytes there. -/
theorem updateBlock_inside (c a i : Nat) (bs : List Byte) (s : State) (hq : s.port.turns = []) (hi : i < bs.length)
    (hc : a + i ≠ c) (hm : a + i < memSize) : readByte (updateBlock c [(a, bs)] s) (a + i) = bs[i] := by
  rw [updateBlock_writes _ _ _ hq, readByte_writeBytes_outside _ _ _ _ (by simp; omega)]
  exact readByte_writeBytes_inside _ a i bs hi hm

/-! ### Lap pages -/

theorem lapBytes_length (h : HeldLap) : (lapBytes h).length = 31 := by
  simp [lapBytes, stampBytes, splitsBytes, splitBytes, bytesOf_length]

theorem pageAddr_bounds (k : Lane) (p : Fin 64) : 0x2000 ≤ pageAddr k p ∧ pageAddr k p + 32 ≤ 0x6000 := by
  unfold pageAddr bookBase
  omega

/-- A record written into an OPEN page (R98): the bytes it writes, the state byte, and what changes beside. -/
theorem writePage_open (k : Lane) (h : HeldLap) (s : State) (hf : s.port.turns = [])
    (he : readByte s (pageAddr k (s.lap k).pageCursor) = 1) :
    ∃ m, writePage k h s = ({ s with
      mem := m
      port := { s.port with sum := s.port.sum ||| 4 }
      laps := { s.laps with lanes := put s.laps.lanes k { s.lap k with
        pageCursor := (s.lap k).pageCursor + 1 } } }, true) ∧
      Memory.read m (pageAddr k (s.lap k).pageCursor) = 2 ∧
      (∀ i (hi : i < (lapBytes h).length),
        Memory.read m (pageAddr k (s.lap k).pageCursor + 1 + i) = (lapBytes h)[i]) ∧
      ∀ j, ¬ Within (pageAddr k (s.lap k).pageCursor) 32 j → Memory.read m j = readByte s j := by
  have hb := pageAddr_bounds k (s.lap k).pageCursor
  have hl := lapBytes_length h
  generalize ha : pageAddr k (s.lap k).pageCursor = a at *
  let w := writeBytes (a + 1) (lapBytes h) s
  have hw : readByte w a = 1 := by rw [readByte_writeBytes_outside _ _ _ _ (by left; omega), he]
  have hq : w.port.turns = [] := by simpa [w] using hf
  have hc : recheck a 0xFF 1 w = (w, true) := by
    rw [recheck_idle _ hq, hw]
    rfl
  refine ⟨(writeBytes a [2] w).mem, ?_, ?_, ?_, ?_⟩
  · simp only [writePage, ha]
    rw [deviceWrite_idle s hf, show recheck a 255 1 (writeBytes (a + 1) (lapBytes h) s) = (w, true) from hc]
    simp only [if_true, deviceWrite_idle w hq]
    rfl
  · exact readByte_writeByte_same w a 2 (by unfold memSize; omega)
  · intro i hi
    have e := readByte_writeBytes_outside w a (a + 1 + i) [2] (by right; simp)
    refine e.trans ?_
    exact readByte_writeBytes_inside s (a + 1) i _ hi (by unfold memSize; omega)
  · intro j hj
    simp only [Within] at hj
    refine (readByte_writeBytes_outside w a j [2] (by simp; omega)).trans ?_
    exact readByte_writeBytes_outside s (a + 1) j _ (by omega)

/-! ### Slips -/

theorem slipAddr_bounds (c : Fin 32) : 0x200 ≤ slipAddr c ∧ slipAddr c + 16 ≤ 0x400 := by
  unfold slipAddr slipBase
  omega

/-- A slip that still reads POSTED is finished with its answer's code and detail (R14). -/
theorem finishSlip_posted (r : SlipAnswer) (hf : r.state.port.turns = [])
    (hp : readByte r.state (slipAddr r.state.port.slipCursor) = 1) :
    SlipFinished r.code r.detail r.state (finishSlip r) := by
  obtain ⟨s, code, detail⟩ := r
  simp only at hf hp
  have hb := slipAddr_bounds s.port.slipCursor
  have hh : slipHere s = slipAddr s.port.slipCursor := rfl
  generalize ha : slipAddr s.port.slipCursor = a at *
  let w := writeBytes (a + 3) [BitVec.ofNat 8 detail] (writeBytes (a + 2) [BitVec.ofNat 8 code] s)
  have hw : readByte w a = 1 := by
    rw [readByte_writeBytes_outside _ _ _ _ (by left; omega), readByte_writeBytes_outside _ _ _ _ (by left; omega), hp]
  have hq : w.port.turns = [] := by simpa [w] using hf
  have hc : recheck a 0xFF 1 w = (w, true) := by
    rw [recheck_idle _ hq, hw]
    rfl
  have ht : finishSlip ⟨s, code, detail⟩ = { s with
      mem := (writeBytes a [if code = 0 then 2 else 3] w).mem
      port := { s.port with sum := s.port.sum ||| 2, slipCursor := s.port.slipCursor + 1 }
      time := { s.time with scanLeft := s.time.scanLeft - 1 } } := by
    show finishSlip ⟨s, code, detail⟩ = _
    simp only [finishSlip, hh]
    rw [deviceWrite_idle s hf, deviceWrite_idle (writeBytes (a + 2) [BitVec.ofNat 8 code] s) (by simpa using hf),
      show (recheck a 255 1 (writeBytes (a + 3) [BitVec.ofNat 8 detail]
      (writeBytes (a + 2) [BitVec.ofNat 8 code] s))) = (w, true) from hc]
    simp only [if_true, deviceWrite_idle w hq]
    rfl
  have hr : ∀ j, readByte (finishSlip ⟨s, code, detail⟩) j = readByte (writeBytes a [if code = 0 then 2 else 3] w) j := by
    intro j
    rw [ht]
    rfl
  refine ⟨by rw [ht], ?_, ?_, ?_, ?_⟩
  · show readByte _ (slipAddr s.port.slipCursor) = _
    rw [ha, hr, readByte_writeByte_same _ _ _ (by unfold memSize; omega)]
  · show readByte _ (slipAddr s.port.slipCursor + 2) = _
    rw [ha, hr, readByte_writeBytes_outside _ _ _ _ (by right; simp),
      readByte_writeBytes_outside _ _ _ _ (by left; omega), readByte_writeByte_same _ _ _ (by unfold memSize; omega)]
  · show readByte _ (slipAddr s.port.slipCursor + 3) = _
    rw [ha, hr, readByte_writeBytes_outside _ _ _ _ (by right; simp), readByte_writeByte_same _ _ _ (by unfold memSize; omega)]
  · intro j hj
    simp only [ha, Within] at hj
    rw [hr, readByte_writeBytes_outside _ _ _ _ (by simp; omega), readByte_writeBytes_outside _ _ _ _ (by simp; omega),
      readByte_writeBytes_outside _ _ _ _ (by simp; omega)]

/-! ### Lane power -/

/-- A lane evaluated at an event with stamp x (R162, R166). -/
def evalOf (x : Stamp) (s : State) (k : Lane) : PowerLane :=
  if laneCondition s k then
    (if (s.powerLane k).cond then setDuty (s.power.rampTime.getD 0) (now s) (s.powerLane k)
      else turnOn s.power.state (s.power.rampTime.getD 0) x (s.powerLane k))
  else turnOff (s.powerLane k)

theorem evalLane_eq (x : Stamp) (k : Lane) (s : State) :
   evalLane x k s = { s with power := { s.power with lanes := put s.power.lanes k (evalOf x s k) } } := by
  unfold evalLane evalOf
  simp only []
  split
  · split <;> rfl
  · rfl

theorem evalOf_put (x : Stamp) (s : State) (k j : Lane) (l : PowerLane) (h : j ≠ k) :
    evalOf x { s with power := { s.power with lanes := put s.power.lanes k l } } j = evalOf x s j := by
  have h1 : State.powerLane { s with power := { s.power with lanes := put s.power.lanes k l } } j = s.powerLane j := by
    simp only [State.powerLane, pick_put_ne _ _ h]
  unfold evalOf laneCondition
  rw [h1]
  rfl

theorem foldl_evalLane (x : Stamp) (ks : List Lane) (hn : ks.Nodup) (s : State) :
    ks.foldl (fun s k => evalLane x k s) s =
      { s with power := { s.power with lanes := tabulate fun k => if k ∈ ks then evalOf x s k else s.powerLane k } } := by
  induction ks generalizing s with
  | nil =>
    simp
    have : (tabulate fun k => s.powerLane k) = s.power.lanes := by
      apply table_ext; intro k; simp [State.powerLane]
    rw [this]
  | cons a ks ih =>
    simp only [List.foldl_cons]
    rw [ih (List.nodup_cons.1 hn).2, evalLane_eq]
    have ha := (List.nodup_cons.1 hn).1
    let u : State := { s with power := { s.power with lanes := put s.power.lanes a (evalOf x s a) } }
    have : (tabulate fun k => if k ∈ ks then evalOf x u k else u.powerLane k) =
        tabulate fun k => if k ∈ a :: ks then evalOf x s k else s.powerLane k := by
      apply table_ext; intro k
      simp only [pick_tabulate, List.mem_cons]
      by_cases h : k = a
      · subst h; simp [u, ha, State.powerLane]
      · simp [u, h, State.powerLane, pick_put_ne _ _ h]
        rw [evalOf_put x s a k _ h]
    rw [← this]

/-- Every lane evaluated: each lane becomes what its inputs give, and nothing else changes. -/
theorem evalAll_eq (x : Stamp) (s : State) :
    evalAll x s = { s with power := { s.power with lanes := tabulate fun k => evalOf x s k } } := by
  unfold evalAll
  rw [foldl_evalLane x allLanes (by decide) s]
  have : ∀ k : Lane, k ∈ allLanes := mem_allLanes
  simp [this]

/-- A change to a race state without power turns every lane off and changes nothing else (R162, R169). -/
theorem powerRace_off (r : RaceState) (x : Stamp) (s : State)
    (h : r = .idle ∨ r = .staged ∨ r = .called ∨ r = .resuming) :
    powerRace r x s =
      { s with power := { s.power with state := r, lanes := tabulate fun k => turnOff (s.powerLane k) } } := by
  unfold powerRace
  rw [evalAll_eq]
  have : ∀ k, evalOf x (s.onPower fun p => { p with state := r }) k = turnOff (s.powerLane k) := by
    intro k
    have : laneCondition (s.onPower fun p => { p with state := r }) k = false := by
      rcases h with h | h | h | h <;> subst h <;> simp [laneCondition, State.onPower]
    unfold evalOf
    rw [this]
    rfl
  simp only [this]
  rfl

/-! ### Clocks -/

theorem interval_self (a : Stamp) : interval a a = 0 := by simp [interval]

/-- Stopped at the present stamp, the racing tick count stays (R35). -/
theorem stopRacing_now (s : State) : stopRacing (now s) s = s := by
  simp [stopRacing, State.onTime, racingTicksAt, interval_self]

end Sys2Proof.Machine
end

