-- ==== Sys2Proof/WellFormed.lean ====
section
/-! DEFINITION. Which terms of Instr are commands the LT832's surroundings can give. Every check is a Bool. The
meanings are total: an ill-formed command does what its bytes and pins would do (log 3). -/

namespace Sys2Proof

/-- A choice of orders names no lane twice. -/
def Orders.wellFormed (o : Orders) : Bool := decide o.cuts.Nodup

/-- The well-formedness of a command. -/
def Instr.wellFormed : Instr → Bool
  | .softReset d => d.getLsbD 0
  | .lanesOff d => !d.getLsbD 0
  | .hostMemoryRead r => r.bus.csLow && r.bus.rdLow && !r.bus.wrLow
  | .hostMemoryWrite b _ _ => b.csLow && b.wrLow && !b.rdLow && !b.regselHigh
  | .unusedRegisterWrite o _ => 5 ≤ o.toNat
  | .serviceTick jobs o => decide jobs.Nodup && o.wellFormed
  | .raceChangeTake o => o.wellFormed
  | .hardReset => true
  | .memoryClearDone => true
  | .softResetEnd => true
  | .sumWrite _ => true
  | .sumenWrite _ => true
  | .fltWrite _ => true
  | .fltenWrite _ => true
  | .refLost _ => true
  | .warmupStart => true
  | .refBack _ => true
  | .tickCountWrap _ => true
  | .setup => true
  | .start => true
  | .call => true
  | .resume => true
  | .endHeat => true
  | .abortHeat => true
  | .penalise => true
  | .pardon => true
  | .adjust => true
  | .retire => true
  | .clearTally => true
  | .slipBadKind => true
  | .qualifiedBreak _ => true
  | .breakReleased _ => true
  | .gateStuck _ => true
  | .driverCallPress _ => true
  | .marshalPostPress _ => true
  | .directorResumePress => true
  | .buttonRelease _ => true
  | .drawRise _ => true
  | .drawFall _ => true
  | .stall _ => true
  | .gapEnd => true
  | .countdownStep => true
  | .greenEntry => true
  | .drawRunEnd _ => true
  | .timeLimit => true
  | .runoutExpiry => true
  | .resumeDone => true
  | .lampFlash => true
  | .haltExpiry _ => true
  | .rampStep _ => true
  | .chopPeriodStart => true
  | .tick _ => true
  | .resetRisingEdge _ => true

end Sys2Proof
end

