-- ==== Sys2Proof/Tests/Slice0.lean ====
section
/-! SUPPORT. Tests of the model against the manual's own figures, the refusals of WellFormed, and for every statement of
Obligations.lean that has hypotheses a concrete state and operands that meet them. -/

-- The tests are checked one after the other, so that the checker's threads stay few.
set_option Elab.async false

namespace Sys2Proof.Tests

open Sys2Proof Sys2Proof.Machine Sys2Proof.Config

/-! ### Small states -/

/-- The state a command answers, if it answers one. -/
def nextOf (r : Host.Outcome State Fault Refusal) : Option State :=
  match r with
  | .next t => some t
  | .fault _ => none
  | .refused _ => none

/-- The device after a cold start, record memory all 0. -/
def fresh : State := { State.reset with phase := .running }

/-- Single bytes written into record memory. -/
def bytesAt (cells : List (Nat × Byte)) (s : State) : State := cells.foldl (fun t c => writeBytes c.1 [c.2] t) s

/-- A heat with racers 11 and 12 on lanes 1 and 2, a live grid and a time limit. -/
def heatA : HeatSnapshot :=
  { label := 7, startHeld := true, gridOn := true, endMode := .time, liveGrid := true, callsAllowed := 1,
    timeLimit := 1000, lapLimit := 0, runoutLimit := 100, minLap := 100, gap := 0,
    racers := tabulate fun k => if k.val = 0 then 11 else if k.val = 1 then 12 else 0,
    caps := Vector.replicate 8 80 }

/-- A lane under way on a track of two gates, expecting its sector gate. -/
def lapA : LapLane := { LapLane.reset with state := .lapping, expected := 1 }

/-- A device with a setup and heatA in a race state, seen alike by every block, the lap engine with no change waiting. -/
def inRace (r : RaceState) : State :=
  powerRace r 0 { fresh with
    port := { HostPort.reset with setupLoaded := true }
    gates := { GateFront.reset with holdOff := some 5 }
    race := { RaceControl.reset with
      state := r, snapshot := some heatA, calledFrom := if r.frozen then .green else .none, countdownStamp := some 0,
      lfsr := some 0xACE1, resumeStart := some 0, flashStart := some 0,
      times := some { jumpDraw := 50, resumeDelay := 1000, countdownStep := 500, holdMin := 0, holdSpan := 0 } }
    laps := { LapEngine.reset with
      view := { state := r, calledFrom := if r.frozen then .green else .none, goneGreen := true }
      label := 7, minLap := 100, racers := heatA.racers
      geometry := Vector.replicate 8 { gateCount := 2, pos1 := 500, pos2 := 0, pos3 := 0 }
      setup := some { missTolerance := 1, stallTime := 2000, autoCall := true }
      lanes := tabulate fun k => if k.val < 2 then lapA else LapLane.reset }
    pen := { PenaltyUnit.reset with
      heatStaged := true, label := 7, coastGrace := some 500
      lanes := tabulate fun k => { PenLane.reset with racer := pick heatA.racers k } }
    power := { LanePower.reset with
      rampTime := some 200, liveGrid := true
      lanes := tabulate fun k => { PowerLane.reset with occupied := decide (k.val < 2), cardCap := 80 } }
    stand := { Standings.reset with order := [0, 1], racers := heatA.racers } }

/-- The present tick of a state. -/
def atTick (n : BitVec 32) (s : State) : State := { s with time := { s.time with tickCount := n } }

/-- A slip of a kind POSTED at the cursor during a scan, with bytes 4 and 7. -/
def posted (kind lane arg : Byte) (s : State) : State :=
  bytesAt [(0x200, 1), (0x201, kind), (0x204, lane), (0x207, arg)]
    { s with time := { s.time with serviceDue := true, scanLeft := 8 } }

/-- A bus with strobes for a write or a read of record memory. -/
def writeBus (a : BitVec 15) : BusLines := { csLow := true, rdLow := false, wrLow := true, regselHigh := false, addr := a }
def readBus (a : BitVec 15) : BusLines := { csLow := true, rdLow := true, wrLow := false, regselHigh := false, addr := a }

/-! ### WellFormed refuses -/

theorem test_softReset_without_its_bit : Instr.wellFormed (.softReset 2) = false := by decide
theorem test_lanesOff_with_soft_reset : Instr.wellFormed (.lanesOff 3) = false := by decide
theorem test_read_with_both_strobes :
    Instr.wellFormed (.hostMemoryRead ⟨{ readBus 0 with wrLow := true }, .whole⟩) = false := by decide
theorem test_write_to_a_register :
    Instr.wellFormed (.hostMemoryWrite { writeBus 0 with regselHigh := true } 0 .whole) = false := by decide
theorem test_unused_register_4 : Instr.wellFormed (.unusedRegisterWrite 4 0) = false := by decide
theorem test_service_work_twice :
    Instr.wellFormed (.serviceTick [.slipScan, .slipScan] plainOrders) = false := by decide
theorem test_lane_cut_twice :
    Instr.wellFormed (.raceChangeTake { cuts := [0, 0], pushFirst := true }) = false := by decide
theorem test_wellformed_accepts :
    Instr.wellFormed (.hostMemoryWrite (writeBus 0x7FFF) 1 .whole) = true ∧
    Instr.wellFormed (.unusedRegisterWrite 7 1) = true ∧ Instr.wellFormed (.softReset 3) = true := by decide
theorem test_no_word_spells_a_command : decodeTableWord 16 1 = none := rfl

/-! ### The manual's own figures -/

/-- Section 7.1, the first hold from seed 0xACE1. -/
theorem test_first_lfsr_step : lfsrStep 0xACE1 = 0x59C3 := by decide
theorem test_first_hold :
    lfsrSteps 16 0xACE1 = 0xE455 ∧
    drawnHold { jumpDraw := 0, resumeDelay := 0, countdownStep := 0, holdMin := 1000, holdSpan := 3000 } 0xE455 = 2434 := by
  decide

/-- Section 2.3, intervals across wraps. -/
theorem test_interval_over_a_tick_wrap : interval 0x03FFFFF000 (0x0400000000 + 10000) = 14096 := by decide
theorem test_interval_over_the_stamp_wrap :
    interval (0xFF00000000 + 4294960000) 5000 = 12296 ∧ isLater (0xFF00000000 + 4294960000) 5000 = true := by decide

/-- Section 4.3, worked classifications: rows of a lane of gate count 4, first gate past the gate expected. -/
theorem test_ladder_over_one_gate :
    ladder 4 1 100 { stamp := 20000, lane := 0, gate := 3 } { lapA with expected := 2, last := 1 } = .miss 1 ∧
    ladder 4 0 100 { stamp := 20000, lane := 0, gate := 3 } { lapA with expected := 2, last := 1 } = .fault ∧
    ladder 4 0 100 { stamp := 20000, lane := 0, gate := 3 } { lapA with expected := 2, last := 1, callMarker := true } =
      .cut 1 := by decide
theorem test_ladder_over_the_line :
    ladder 4 1 100 { stamp := 20000, lane := 0, gate := 1 } { lapA with expected := 3, last := 2, callMarker := true } =
      .fault ∧
    ladder 4 1 100 { stamp := 20000, lane := 0, gate := 0 } { lapA with expected := 3, last := 2 } = .miss 1 ∧
    ladder 4 1 100 { stamp := 9999, lane := 0, gate := 0 } { lapA with expected := 1, last := 0 } = .ghost := by decide

/-- Section 5.2, lane 2 through one call: its coasting crossing, and the close of the freeze. -/
theorem test_lane_2_through_a_call :
    (closeSector 3 2 .inOrder (some 1250000) 1262000 { lapA with lastCrossing := 1120000, freezeOpen := true }).splits.two =
      some 130000 ∧
    frozenAt (some 1250000) 1900000 { lapA with lastCrossing := 1262000, freezeOpen := true } = 638000 := by decide

/-- Section 9.6, a duty of 37 % is high for 185 µs of a period: its last unit, and the first beyond it. -/
theorem test_chop_37_percent :
    let s := { fresh with power := { LanePower.reset with
      chopCounter := 18, lanes := put LanePower.reset.lanes 0 { PowerLane.reset with mode := .chopped, pinDuty := 37 } } }
    pinHigh s 0 49 = true ∧ pinHigh s 0 50 = false := by decide +kernel

/-- Section 10.2, partial distance: lane 4 past gate 2, and past gate 3. -/
theorem test_partial_distance :
    let g : Geometry := { gateCount := 4, pos1 := 310, pos2 := 640, pos3 := 880 }
    let c : CutData := { before := .lapping, last := 2, lastCrossing := 0, sectorFrozen := 0, bestSplit := some 152340,
                         bestLap := 612500, haltInSector := false, instant := 97500 }
    partialOf g c = 793 ∧ partialOf g { c with last := 3, bestSplit := none, instant := 80000 } = 999 := by decide

/-- Section 1.4: race status bytes 1 to 28 and lane status bytes 1 to 59 fill their fields exactly. -/
theorem test_status_block_lengths : (raceStatusBytes fresh).length = 28 ∧ (laneStatusBytes fresh 7).length = 59 := by
  decide +kernel

/-! ### Single steps -/

theorem test_running_after_the_clear :
    ((nextOf (exec .memoryClearDone { State.reset with phase := .clearing })).map fun t => registerValue 0 t.port) =
      some 1 := by decide +kernel

theorem test_host_reads_what_it_wrote :
    ((nextOf (exec (.hostMemoryRead ⟨readBus 0x7FFF, .whole⟩) (bytesAt [(0x7FFF, 0xA5)] fresh))).map fun t => t.port.dataOut) =
      some (some 0xA5) := by decide +kernel

/-- R2, R10: a host read that comes after the first write of an update's count drives the odd count and the old field. -/
theorem test_torn_read :
    let s := { fresh with port := { HostPort.reset with turns :=
      [{ after := 2, addr := 0x180, data := none }, { after := 0, addr := 0x181, data := none }] } }
    (updateBlock 0x180 [(0x181, [7])] s).port.turnReads = [1, 0] := by decide +kernel

/-- R104: a READY entry before a SETUP is refused with reason 1. -/
theorem test_ready_without_a_setup :
    let t := examineCard (bytesAt [(0x400, 1)] fresh)
    readByte t 0x400 = 5 ∧ readByte t 0x407 = 1 := by decide +kernel

/-- R15: a slip of kind 12 is refused with code 1. -/
theorem test_bad_kind :
    ((nextOf (exec .slipBadKind (posted 12 0 0 fresh))).map fun t => (readByte t 0x200, readByte t 0x202)) =
      some (3, 1) := by decide +kernel

/-- R131: a driver's press in GREEN enters CALLED, with the power of lane 1 cut. -/
theorem test_call_in_green :
    let s := inRace .green
    let u := { s with gates := { s.gates with driver := put s.gates.driver 1 { level := false, run := 2001 } } }
    ((nextOf (exec (.driverCallPress 1) u)).map fun t => (t.race.state, (t.powerLane 0).cond, t.race.lamps)) =
      some (.called, false, 0x20) := by decide +kernel

/-- R77, R117, R118: the cut of both lanes settles the heat. -/
theorem test_cut_settles :
    let s := inRace .runout
    let u := { atTick 2 s with laps := { s.laps with changes := [{ kind := .cutUnfinished, stamp := 0 }] } }
    ((nextOf (exec (.raceChangeTake { cuts := [1], pushFirst := false }) u)).map fun t =>
      (t.race.state, t.race.cardCursor, (t.standLane 1).finished)) = some (.idle, 1, true) := by decide +kernel

/-! ### Witnesses: each statement's hypotheses, clause by clause -/

/-- A running device whose step writes record memory. -/
def writing : State := { fresh with pending := [.hostMemoryWrite (writeBus 0x7FFF) 1 .whole] }

theorem witness_memory : MemorySound writing ∧ ∃ t, step writing = .next t := ⟨by unfold MemorySound; decide +kernel, _, rfl⟩
theorem witness_queues : RegistersSound writing ∧ QueuesSound writing ∧ ∃ t, step writing = .next t :=
  ⟨by unfold RegistersSound; decide +kernel, by unfold QueuesSound; decide +kernel, _, rfl⟩

/-- A heat in GREEN with a call waiting. -/
def calling : State :=
  let s := inRace .green
  { s with
    pending := [.driverCallPress 0]
    gates := { s.gates with driver := put s.gates.driver 0 { level := false, run := 2001 } } }

theorem witness_race : RaceSound calling ∧ ∃ t, step calling = .next t :=
  ⟨by unfold RaceSound; decide +kernel, _, rfl⟩
theorem witness_power : PowerSound calling ∧ ∃ t, step calling = .next t :=
  ⟨by unfold PowerSound; decide +kernel, _, rfl⟩

/-- A device with a mapped input, a crossing that waits, and a lane of gate count 1. -/
def gated : State :=
  let m : GateMapping := { lane := 0, gate := 1, activeHigh := true }
  let s := inRace .green
  { s with
    pending := [.tick ⟨restPins, [.unit]⟩]
    laps := { s.laps with geometry := put s.laps.geometry 7 { gateCount := 1, pos1 := 0, pos2 := 0, pos3 := 0 } }
    gates := { s.gates with
      inputs := put s.gates.inputs 0 (InputRec.quiet (some m)), queue := [{ stamp := 0, lane := 1, gate := 1 }] } }
theorem gates_of_gated (n : GateIn) (m : GateMapping) (h : (gated.input n).mapping = some m) :
    m.gate.val < (gated.geom m.lane).gateCount := by
  have e : ∀ n, (gated.input n).mapping = none ∨
      (gated.input n).mapping = some { lane := 0, gate := 1, activeHigh := true } := by decide +kernel
  rcases e n with e | e <;> rw [e] at h
  · exact nomatch h
  · cases h
    decide +kernel
theorem witness_gates : GatesSound gated ∧ ∃ t, step gated = .next t :=
  ⟨⟨by decide +kernel, by decide +kernel, gates_of_gated⟩, _, rfl⟩

/-- DeviceSparesHostRegions: a service tick, and the bytes at the ends of the host regions. -/
theorem witness_host_regions :
    fresh.port.turns = [] ∧ fresh.phase ≠ .clearing ∧
    (∀ bus data landing, Instr.serviceTick [] plainOrders ≠ .hostMemoryWrite bus data landing) ∧
    (∃ t, exec (.serviceTick [] plainOrders) fresh = .next t) ∧
    (0x17F < 0x180 ∧ Within 0x1C0 0x40 0x1C0 ∧ Within 0x1C0 0x40 0x1FF ∧ Within 0x1E00 0x200 0x1E00 ∧
      Within 0x1E00 0x200 0x1FFF ∧ 0x6000 ≤ 0x6000) :=
  ⟨rfl, by decide, fun _ _ _ => nofun, ⟨_, rfl⟩, by unfold Within; decide⟩

theorem witness_cold_start : State.reset.phase = .inReset := rfl
theorem witness_shut_out_in_reset : State.reset.phase = .inReset := rfl
theorem witness_shut_out_in_clear :
    let s := { State.reset with phase := Phase.clearing }
    let r := readBus 0
    let w := writeBus 0
    s.phase = .clearing ∧ s.port.turns = [] ∧
    (r.regselHigh = false ∧ r.csLow = true ∧ r.rdLow = true ∧ r.wrLow = false) ∧
    (w.regselHigh = false ∧ w.csLow = true ∧ w.wrLow = true ∧ w.rdLow = false) ∧
    BitVec.getLsbD (1 : Byte) 1 = s.port.lanesOff := by decide
theorem witness_soft_reset_idle :
    fresh.phase = .running ∧ fresh.race.state = .idle ∧ fresh.port.turns = [] ∧
    BitVec.getLsbD (1 : Byte) 0 = true ∧ BitVec.getLsbD (1 : Byte) 1 = fresh.port.lanesOff := by decide
theorem witness_soft_reset_voids :
    let s := bytesAt [(0x400, 2), (0xE00, 1)] (inRace .green)
    s.phase = .running ∧ s.race.state ≠ .idle ∧ s.port.turns = [] ∧ BitVec.getLsbD (1 : Byte) 0 = true ∧
    BitVec.getLsbD (1 : Byte) 1 = s.port.lanesOff ∧ readByte s (entryAddr s.race.cardCursor) = 2 ∧
    readByte s 0xE00 &&& 0x0F = 1 ∧ readByte (inRace .green) (entryAddr s.race.cardCursor) ≠ 2 := by decide +kernel
theorem witness_soft_reset_end :
    ({ fresh with phase := .softReset } : State).phase = .softReset ∧ fresh.port.turns = [] := ⟨rfl, rfl⟩

theorem witness_host_access :
    (fresh.phase = .running ∧ ({ fresh with phase := .softReset } : State).phase = .softReset) ∧
    fresh.port.turns = [] ∧
    ((readBus 0x7FFF).csLow = true ∧ (readBus 0x7FFF).rdLow = true ∧ (readBus 0x7FFF).wrLow = false ∧
      (readBus 0x7FFF).regselHigh = false ∧ { readBus 7 with regselHigh := true }.regselHigh = true) ∧
    ((writeBus 0x7FFF).csLow = true ∧ (writeBus 0x7FFF).wrLow = true ∧ (writeBus 0x7FFF).rdLow = false ∧
      (writeBus 0x7FFF).regselHigh = false) ∧
    ({ readBus 0 with wrLow := true }.rdLow = true ∧ { readBus 0 with wrLow := true }.wrLow = true) ∧
    { readBus 0 with csLow := false }.csLow = false := by decide
/-- HostAccessComesBetweenDeviceBytes: an update of one byte at the top of record memory, its count at the byte below, and
a host access before, between and after its four byte accesses, to the count, to the field and to another byte. -/
theorem witness_between :
    MemorySound fresh ∧ fresh.port.turns = [] ∧ 0x7FFE < memSize ∧ 0x7FFF + ([] : List Byte).length ≤ memSize ∧ 0x7FFF + [(7 : Byte)].length ≤ memSize ∧
    ¬ Within 0x7FFF [(7 : Byte)].length 0x7FFE ∧ [(7 : Byte)].length + 3 ≤ 4 ∧ 3 < [(7 : Byte)].length + 3 ∧
    (0x7FFE : BitVec 15).toNat = 0x7FFE ∧ (0x7FFF : BitVec 15).toNat = 0x7FFF + 0 ∧
    (0 + 2 < 3 ∧ ¬ 0 + 2 < 2) ∧ (0x7FFF + 2 < 3 + 0x7FFF ∧ ¬ 0x7FFF + 2 < 2 + 0x7FFF) ∧
    ¬ Within 0x7FFF [(7 : Byte)].length (0 : BitVec 15).toNat := by unfold MemorySound Within; decide
theorem witness_taken_back :
    ∀ k ∈ [0, 16],
      let s := bytesAt [(0xE00, 1)] { fresh with port := { HostPort.reset with
        turns := [{ after := k, addr := 0xE00, data := some 0 }] } }
      s.port.noticeQueue = [] ∧ s.port.noticeLost = 0 ∧ readByte s (noticeAddr s.port.noticeCursor) &&& 0x0F = 1 ∧
      k ≤ 16 ∧ s.port.turns = [{ after := k, addr := BitVec.ofNat 15 (noticeAddr s.port.noticeCursor), data := some 0 }] ∧
      (0 : Byte) &&& 0x0F ≠ 1 := by decide +kernel
theorem witness_irq :
    let p := { HostPort.reset with sum := 1, sumen := 1 }
    fresh.phase ≠ .inReset ∧ irqLow p = true ∧
    (∀ i < 8, (registerValue 0 p).getLsbD i = true → (registerValue 1 p).getLsbD i = true →
      i < 4 ∧ (1 : Byte).getLsbD i = true) := by decide +kernel
theorem witness_registers :
    fresh.phase ≠ .inReset ∧ fresh.port.turns = [] ∧ RegistersSound fresh ∧
    5 ≤ (5 : BitVec 3).toNat ∧ 5 ≤ (7 : BitVec 3).toNat := by unfold RegistersSound; decide

/-- LanesOffCutsAndRestoresPower: the cut in GREEN; the return in GREEN, in a live-grid countdown, and to a lane that
stays off. -/
def lanesOffIn (r : RaceState) : State :=
  let s := inRace r
  (writeLanesOff true s)
theorem witness_lanes_off_cut :
    let s := inRace .green
    s.phase ≠ .inReset ∧ s.port.turns = [] ∧ BitVec.getLsbD (2 : Byte) 0 = false ∧
    BitVec.getLsbD (2 : Byte) 1 = true ∧ s.port.lanesOff = false := by decide +kernel
theorem witness_lanes_off_restore :
    ∀ r ∈ [RaceState.green, .runout, .countdown],
      let s := lanesOffIn r
      s.phase ≠ .inReset ∧ s.port.turns = [] ∧ BitVec.getLsbD (0 : Byte) 0 = false ∧ PowerSound s ∧
      BitVec.getLsbD (0 : Byte) 1 = false ∧ s.port.lanesOff = true ∧ s.power.rampTime = some 200 ∧ 0 < 200 ∧
      ((s.powerLane 0).occupied = true ∧ (s.powerLane 0).finished = false ∧ (s.powerLane 0).serving ≠ some .halt) ∧
      (s.power.state.racing = true ∨ (s.power.state = .countdown ∧ s.power.liveGrid = true)) ∧
      ¬ ((s.powerLane 7).occupied = true ∧ (s.powerLane 7).finished = false ∧ (s.powerLane 7).serving ≠ some .halt) := by
  unfold PowerSound; decide +kernel

/-! Notices -/

def aNotice : Notice := plainNotice .clock 3 0 0 1 0
def heldOf (n : Nat) : List HeldNotice := List.replicate n { notice := aNotice, lost := 0 }
theorem witness_notice_written :
    let s := bytesAt [(0xE00, 1)] fresh
    s.port.turns = [] ∧ s.port.noticeQueue = [] ∧ readByte s (noticeAddr s.port.noticeCursor) &&& 0x0F = 1 := by
  decide +kernel
theorem witness_notice_held_or_lost :
    let s := fun n => { fresh with port := { HostPort.reset with noticeQueue := heldOf n } }
    readByte (s 7) (noticeAddr (s 7).port.noticeCursor) &&& 0x0F ≠ 1 ∧ (s 7).port.noticeQueue.length < 8 ∧
    readByte (s 8) (noticeAddr (s 8).port.noticeCursor) &&& 0x0F ≠ 1 ∧ 8 ≤ (s 8).port.noticeQueue.length := by
  decide +kernel
theorem witness_notice_behind_held :
    let s := fun n => bytesAt [(0xE00, 1)] { fresh with port := { HostPort.reset with noticeQueue := heldOf n } }
    (∀ n ∈ [1, 2, 8], (s n).port.noticeQueue ≠ []) ∧ (retryNotices (s 1)).port.noticeQueue = [] ∧
    (retryNotices (s 8)).port.noticeQueue = heldOf 7 ∧
    (retryNotices { fresh with port := { HostPort.reset with noticeQueue := heldOf 8 } }).port.noticeQueue = heldOf 8 := by
  decide +kernel
/-- R18: one notice held, two entries EMPTY: the arrival follows the held one with the next serial. -/
theorem test_notice_behind_held :
    let s := bytesAt [(0xE00, 1), (0xE10, 1)] { fresh with port := { HostPort.reset with noticeQueue := heldOf 1 } }
    let t := deliver aNotice s
    (t.port.noticeQueue, readField t 0xE0D 2, readField t 0xE1D 2) = ([], 1, 2) := by decide +kernel
theorem witness_retry :
    let s := bytesAt [(0xE00, 1)] { fresh with port := { HostPort.reset with noticeQueue := heldOf 8 } }
    s.port.turns = [] ∧ s.port.noticeQueue.length ≤ 8 ∧ (retryNotices s).port.noticeCursor = 1 := by decide +kernel
theorem witness_notices_only : fresh.port.turns = [] ∧ deliver aNotice fresh = deliver aNotice fresh := ⟨rfl, rfl⟩

/-! Timebase -/

/-- A device with inputs GI0 to GI3 mapped to lane 1 and standing in the four phases of the filter. -/
def filtering : State :=
  let m : GateMapping := { lane := 0, gate := 0, activeHigh := true }
  let r := InputRec.quiet (some m)
  { fresh with gates := { GateFront.reset with
    holdOff := some 5
    inputs := put (put (put (put GateFront.reset.inputs 0 r) 1 { r with phase := .arming, count := 1, onset := some 0 })
      2 { r with phase := .broken, onset := some 0 })
      3 { r with phase := .clearing, count := 1, onset := some 0, release := some 0 } } }

/-- A device with a reference state, a prescaler and units since the last edge, lane 1 about to start a chop period. -/
def clocked (r : RefState) (n : Fin 100) (q : Fin 20) : State :=
  { filtering with
    time := { Timebase.reset with refState := r, prescaler := n, quiet := q }
    power := { LanePower.reset with chopCounter := 49 } }

/-- TickAdvancesStampAndSamples: events that only count, each way the prescaler fills, and nothing due. -/
theorem witness_tick :
    (∀ c ∈ [clocked .fallback 98 0, clocked .locked 98 7], c.phase ≠ .inReset ∧ c.time.prescaler.val + 1 < 100) ∧
    (clocked .fallback 98 0).time.refState = .fallback ∧ (clocked .locked 98 7).time.refState = .locked ∧ 0 < 1 ∧
    ((clocked .warmup 99 18).time.refState = .warmup ∧ (clocked .warmup 99 18).time.prescaler = 99 ∧
      (clocked .warmup 99 18).time.quiet.val < 19 ∧ (19 : Fin 20) = (clocked .warmup 99 18).time.quiet + 1) ∧
    (clocked .locked 0 0).time.serviceDue = false ∧ (clocked .locked 0 0).port.turns = [] ∧
    (∀ c ∈ [clocked .fallback 0 0, clocked .locked 0 0, clocked .warmup 0 19], catchUp c = c) ∧
    (clocked .locked 0 0).power.chopCounter = 49 ∧ filtering.power.chopCounter ≠ 49 ∧
    (filtering.input 31).mapping = none ∧ (∀ n : Fin 4, (filtering.input (Fin.ofNat 32 n.val)).mapping ≠ none) ∧
    (filtering.input 0).phase = .quiet ∧ (filtering.input 1).phase = .arming ∧ (filtering.input 2).phase = .broken ∧
    (filtering.input 3).phase = .clearing := by decide +kernel
theorem test_hundred_edges_make_a_tick :
    ((nextOf (exec (.tick ⟨restPins, List.replicate 99 .edge⟩) (clocked .locked 0 0))).map fun t => now t) = some 0 ∧
    ((nextOf (exec (.tick ⟨restPins, List.replicate 100 .edge⟩) (clocked .locked 0 0))).map fun t => now t) =
      some 1 := by decide +kernel
/-- R25, R26: after an edge with the prescaler at 90, 2 µs of silence credit 20 units and keep 10 (that the tick they fill
is the one stamped is log 6). -/
theorem test_loss_credits_the_prescaler :
    ((nextOf (exec (.refLost restPins) (clocked .locked 90 0))).map fun t =>
      (t.time.refState, t.time.prescaler, t.time.unlockStamp)) = some (.fallback, 10, some 1) := by decide +kernel
theorem witness_wrap :
    let s := fun r => atTick 0xFFFFFFFF (clocked r 40 0)
    (∀ r ∈ [RefState.fallback, .locked], (s r).phase ≠ .inReset ∧ (s r).time.wrapDue = false ∧
      (s r).time.tickCount = 0xFFFFFFFF ∧ (s r).time.refState = r) ∧
    (clocked .locked 40 0).time.tickCount ≠ 0xFFFFFFFF := by decide
theorem witness_stamp_order : isLater (0 : Stamp) (2 ^ 39 - 1) = true ∧ isLater (0 : Stamp) (2 ^ 39) = false ∧
    isLater (0 : Stamp) 1 = true ∧ atOrAfter (5 : Stamp) 5 = true := by decide
/-- ReferenceFollowsItsSources: each clause at the ends of its ranges. -/
theorem witness_reference :
    let w := fun c => { clocked .warmup 98 18 with time := { (clocked .warmup 98 18).time with warmupCount := c } }
    (clocked .locked 98 18).phase ≠ .inReset ∧ (clocked .locked 98 18).time.refState = .locked ∧
    ((clocked .locked 98 18).time.prescaler.val < 99 ∧ (clocked .locked 98 18).time.quiet.val < 19) ∧
    (clocked .locked 0 19).time.quiet.val = 19 ∧ (clocked .locked 79 0).time.prescaler.val + 20 < 100 ∧
    100 ≤ (clocked .locked 80 0).time.prescaler.val + 20 ∧
    ((w 65534).time.refState = .warmup ∧ (w 65534).time.warmupCount < 65535 ∧ 65535 ≤ (w 65535).time.warmupCount) ∧
    ((w 0).time.quiet.val < 19 ∧ (w 0).time.prescaler.val < 99) ∧ (clocked .warmup 0 19).time.quiet.val = 19 ∧
    (clocked .warmup 79 0).time.prescaler.val + (20 - (clocked .warmup 79 0).time.quiet.val) < 100 ∧
    (clocked .fallback 98 0).time.refState = .fallback ∧ (clocked .fallback 98 0).time.prescaler.val < 99 := by decide

/-! Gates, presses and laps -/

/-- GI0 mapped to gate 1 of lane 1 with a break just qualified at stamp 100, a hold-off end, and so many crossings
waiting. -/
def qualifying (h : Option Stamp) (waiting : Nat) : State :=
  { fresh with gates := { GateFront.reset with
    holdOff := some 5
    queue := List.replicate waiting { stamp := 50, lane := 1, gate := 0 }
    inputs := put GateFront.reset.inputs 0 { InputRec.quiet (some { lane := 0, gate := 1, activeHigh := true }) with
      phase := .arming, count := 3, onset := some 100, holdOffEnd := h } } }

theorem witness_break (h : Option Stamp) (q : Nat) :
    let r := (qualifying h q).input 0
    r.mapping = some { lane := 0, gate := 1, activeHigh := true } ∧ r.phase = .arming ∧ r.count = 3 ∧
    r.onset = some 100 ∧ r.holdOffEnd = h ∧ (qualifying h q).gates.queue.length = q :=
  ⟨rfl, rfl, rfl, rfl, rfl, List.length_replicate⟩
theorem witness_fold : atOrAfter (100 : Stamp) 100 = true ∧ atOrAfter (101 : Stamp) 100 = false := by decide

/-- GI0 with a break held since stamp 0. -/
def holding (p : FilterPhase) (n : Nat) (stuck : Bool) (tick : BitVec 32) : State :=
  atTick tick { fresh with gates := { GateFront.reset with
    inputs := put GateFront.reset.inputs 0 { InputRec.quiet (some { lane := 0, gate := 1, activeHigh := true }) with
      phase := p, count := n, onset := some 0, release := some 500000, stuck := stuck } } }

theorem witness_release_and_stuck :
    ((holding .clearing 3 true 500002).input 0).phase = .clearing ∧ ((holding .clearing 3 true 500002).input 0).count = 3 ∧
    ((holding .clearing 3 true 500002).input 0).stuck = true ∧
    ((holding .clearing 3 true 500002).input 0).onset = some 0 ∧
    ((holding .clearing 3 true 500002).input 0).release = some 500000 ∧
    ((holding .clearing 3 false 0).input 0).stuck = false ∧ ((holding .broken 0 false 500000).input 0).phase = .broken ∧
    ((holding .broken 0 false 500000).input 0).mapping ≠ none ∧
    500000 ≤ interval 0 (now (holding .broken 0 false 500000)) ∧
    interval 0 (now (holding .broken 0 false 499999)) < 500000 := by decide +kernel

/-- Buttons and draw inputs about to change level. -/
def changing (r : RaceState) (level : Bool) : State :=
  let s := inRace r
  { s with gates := { s.gates with
    driver := put s.gates.driver 0 { level := level, run := 2001 }
    marshal := put s.gates.marshal 3 { level := level, run := 2001 }
    director := { level := level, run := 2001 }
    draw := put s.gates.draw 0 { level := level, run := 201 } } }

theorem witness_releases_and_draws :
    let s := changing .countdown true
    let u := changing .countdown false
    let run := fun v : State => { v with race := { v.race with drawRuns := put v.race.drawRuns 0 (.timing 0) } }
    let w := run u
    pick s.gates.driver 0 = { level := true, run := 2001 } ∧ pick s.gates.marshal 3 = { level := true, run := 2001 } ∧
    s.gates.director = { level := true, run := 2001 } ∧ pick s.gates.draw 0 = { level := true, run := 201 } ∧
    pick (run s).gates.draw 0 = { level := true, run := 201 } ∧ pick (run s).race.drawRuns 0 = .timing 0 ∧
    interval 0 (now (atTick 4999 (run s))) < 100 * (raceTimes (run s)).jumpDraw ∧
    pick u.gates.draw 0 = { level := false, run := 201 } ∧ u.race.state = .countdown ∧
    u.race.snapshot = some heatA ∧ heatA.liveGrid = true ∧ pick heatA.racers 0 ≠ 0 ∧ pick u.race.drawRuns 0 = .idle ∧
    (changing .green false).race.state ≠ .countdown ∧ pick w.race.drawRuns 0 = .timing 0 ∧
    pick w.race.jumpMarks 0 = false ∧ interval 0 (now (atTick 4999 w)) < 100 * (raceTimes w).jumpDraw ∧
    100 * (raceTimes w).jumpDraw ≤ interval 0 (now (atTick 5000 w)) ∧
    pick (put w.race.jumpMarks 0 true) 0 = true := by decide +kernel
/-- R128: a fall at the very tick at which the run's duration ends comes too late, and JUMP is charged. -/
theorem test_fall_at_the_end_of_a_run :
    let s := changing .countdown true
    let u := { s with race := { s.race with drawRuns := put s.race.drawRuns 0 (.timing 0) } }
    ((nextOf (exec (.drawFall 0) (atTick 5000 u))).map fun t => pick t.race.jumpMarks 0) = some true ∧
    ((nextOf (exec (.drawFall 0) (atTick 4999 u))).map fun t => pick t.race.jumpMarks 0) = some false := by
  decide +kernel
theorem witness_presses :
    let s := changing .green false
    pick s.gates.driver 0 = { level := false, run := 2001 } ∧ pick s.gates.marshal 3 = { level := false, run := 2001 } ∧
    (pick (put s.gates.driver 0 { level := false, run := 2000 }) 0).run < 2001 := by decide +kernel
theorem witness_director :
    ∀ r ∈ [RaceState.staged, .called, .green],
      let s := changing r false
      RaceSound s ∧ PowerSound s ∧ s.gates.director = { level := false, run := 2001 } ∧ s.race.state = r ∧
      s.race.snapshot = some heatA ∧ heatA.startHeld = true ∧ { heatA with startHeld := false }.startHeld = false := by
  unfold RaceSound PowerSound; decide +kernel
theorem witness_director_auto :
    let s := changing .staged false
    let u := { s with race := { s.race with snapshot := some { heatA with startHeld := false } } }
    RaceSound u ∧ PowerSound u ∧ u.gates.director = { level := false, run := 2001 } ∧ u.race.state = .staged := by
  unfold RaceSound PowerSound; decide +kernel

/-- LadderDecidesBySkippedGates: gate 3 of four with gate 2 expected, and every branch of the statement. -/
theorem witness_ladder :
    let l := fun m => { lapA with expected := 2, last := 1, callMarker := m }
    let c := fun (g : GateNo) => ({ stamp := 10000, lane := 0, gate := g } : Crossing)
    (1 ≤ 4 ∧ 4 ≤ 4 ∧ (l true).expected < 4 ∧ (c 3).gate.val < 4 ∧ (l true).last = ((l true).expected + 4 - 1) % 4) ∧
    ¬ ((c 0).gate.val = 0 ∧ interval (l true).lapStart (c 0).stamp < 100 * 100) ∧
    ((c 0).gate.val = 0 ∧ interval (l true).lapStart (c 0).stamp < 100 * 101) ∧
    ((c 2).gate.val = (l true).expected ∧ (c 1).gate.val = (l true).last) ∧
    ((c 3).gate.val + 4 - (l true).expected) % 4 = 1 ∧
    ¬ (∃ j, j < 1 ∧ ((l true).expected + j) % 4 = 0) ∧ (∃ j, j < 3 ∧ ((l true).expected + j) % 4 = 0) ∧
    (l true).callMarker = true ∧ (l false).callMarker = false := by
  refine ⟨by decide, by decide, by decide, by decide, by decide, ?_, ⟨2, by decide, by decide⟩, rfl, rfl⟩
  rintro ⟨j, hj, h⟩
  have : j = 0 := by omega
  subst this
  revert h
  decide

/-- A lane of inRace in GREEN, with a lap page open and changes made to lane 1. -/
def lapping (f : LapLane → LapLane) : State := bytesAt [(0x2000, 1)] ((inRace .green).onLapLane 0 f)
def crossing (x : Stamp) (g : GateNo) : Crossing := { stamp := x, lane := 0, gate := g }

theorem witness_in_order :
    let s := lapping id
    s.laps.view.state.afterGreen = true ∧ (s.lap 0).state = .lapping ∧ (crossing 100 1).gate.val ≠ 0 ∧
    (crossing 100 1).gate.val = (s.lap 0).expected ∧ (crossing 100 1).gate.val < (s.geom 0).gateCount ∧
    servingHalt s 0 = false := by decide +kernel
/-- A lane of a state serves HALT from stamp 0, with its push mark clear and a coast grace of 0. -/
def halted (s : State) : State :=
  let h : PenEntry := { serial := 3, trigger := 4, kind := .halt, amount := 1000, duty := 0, callStamp := 0 }
  ({ s with pen := { s.pen with coastGrace := some 0 } }).onPenLane 0 fun l => { l with
    serving := some h, serveStamp := 0, pushMark := false }
/-- PushChecked and CheckedAround: a halted lane pushed in GREEN, and the cases that raise nothing. -/
theorem witness_push :
    let s := halted (lapping id)
    let l := s.penLane 0
    servingHalt s 0 = true ∧ l.pushMark = false ∧ s.laps.view.state = .green ∧ isLater l.serveStamp 1 = true ∧
    100 * s.pen.coastGrace.getD 0 < interval l.serveStamp 1 ∧ isLater l.serveStamp 0 = false ∧
    { plainOrders with pushFirst := true }.pushFirst = true ∧ plainOrders.pushFirst = false := by decide +kernel
/-- R70, R82: an accepted crossing of a halted lane marks its sector, and is the one PUSH of the service (R155). -/
theorem test_pushed_lane :
    let t := takeCrossing plainOrders (crossing 100 1) (halted (lapping id))
    ((t.lap 0).haltInSector, (t.penLane 0).pushMark, (t.lap 0).last) = (true, true, 1) := by decide +kernel
/-- A track of so many gates, with the miss tolerance of 1. -/
def track (n : Nat) (s : State) : State :=
  { s with laps := { s.laps with geometry := Vector.replicate 8 { gateCount := n, pos1 := 250, pos2 := 500, pos3 := 750 } } }
/-- LapCompletionFillsAPage: in order, after a HUNT, and by a CUT and a MISS over the last gate before the line. -/
def completing (f : LapLane → LapLane) : State := track 3 (lapping f)
def skipped (l : LapLane) : LapLane := { l with expected := 2, last := 1 }
theorem witness_completion :
    (∀ f ∈ [fun l : LapLane => { l with expected := 0, last := 2 }, fun l => { l with state := .hunt },
        fun l => { l with expected := 2, last := 1, callMarker := true }, skipped],
      let s := completing f
      let l := s.lap 0
      s.laps.view.state = .green ∧ s.race.state = .green ∧ s.race.snapshot = some heatA ∧ heatA.endMode = .time ∧
      1 ≤ (s.geom 0).gateCount ∧ (crossing 10000 0).gate = 0 ∧ 100 * s.laps.minLap ≤ interval l.lapStart 10000 ∧
      interval l.lapStart 0xFFFFFFFF ≤ 0xFFFFFFFF ∧ (s.penLane 0).serving = none ∧ (s.penLane 0).queue = [] ∧
      (∀ j, (s.lap j).bookQueue = []) ∧ readByte s (pageAddr 0 l.pageCursor) = 1 ∧ s.port.turns = [] ∧
      servingHalt (halted s) 0 = true) ∧
    classify (completing fun l => { l with expected := 0, last := 2 }) (crossing 10000 0) = .inOrder ∧
    (classify (completing fun l => { l with state := .hunt }) (crossing 10000 0) = .huntEnd ∧
      ((completing fun l => { l with state := .hunt }).lap 0).state = .hunt) ∧
    classify (completing fun l => { l with expected := 2, last := 1, callMarker := true }) (crossing 10000 0) = .cut 1 ∧
    classify (completing skipped) (crossing 10000 0) = .miss 1 ∧ ((completing skipped).lap 0).state = .lapping ∧
    2 ≤ ((completing skipped).geom 0).gateCount := by
  refine ⟨?_, by decide +kernel⟩
  intro f hf
  simp only [List.mem_cons, List.not_mem_nil, or_false] at hf
  rcases hf with rfl | rfl | rfl | rfl <;> decide +kernel

/-- heatA with a lap limit of 1, and a race in it with lane 1 at so many laps. -/
def heatB : HeatSnapshot := { heatA with endMode := .laps, lapLimit := 1 }
def limited (r : RaceState) (laps : Nat) : State :=
  let s := inRace r
  { s with race := { s.race with snapshot := some heatB } }.onLapLane 0 fun l => { l with laps := laps }
/-- CompletionsReachTheLapLimitAndFinish, race control's answer: each branch, at the limit and one below it. -/
theorem witness_limit_answer :
    (∀ r ∈ [RaceState.green, .called, .resuming, .runout], (limited r 1).race.snapshot = some heatB ∧
      (limited r 1).race.state ≠ .idle ∧ heatB.endMode ≠ .time ∧
      heatB.lapLimit ≤ ((limited r 1).lap 0).laps - ((limited r 1).penLane 0).deducted) ∧
    (limited .green 1).laps.view.state = .green ∧ RaceSound (limited .green 1) ∧ PowerSound (limited .green 1) ∧
    ((limited .called 1).race.state = .called ∧ (limited .called 1).race.calledFrom = .green ∧
      (limited .called 1).laps.view.calledFrom = .green) ∧
    ¬ heatB.lapLimit ≤ ((limited .green 0).lap 0).laps - ((limited .green 0).penLane 0).deducted ∧
    (limited .runout 1).laps.view.state = .runout ∧ (limited .idle 1).race.state = .idle := by
  unfold RaceSound PowerSound; decide +kernel
/-- A completion that finishes its lane, in the run-out and at the limit in GREEN: in order, after a HUNT, and by a CUT and a
MISS to the line. -/
def finishing (r : RaceState) (f : LapLane → LapLane) : State := track 3 ((limited r 0).onLapLane 0 f)
theorem witness_limit_finish :
    (∀ r ∈ [RaceState.runout, .green],
      classify (finishing r fun l => { l with expected := 0, last := 2 }) (crossing 10000 0) = .inOrder ∧
      classify (finishing r fun l => { l with state := .hunt }) (crossing 10000 0) = .huntEnd ∧
      classify (finishing r fun l => { l with expected := 2, last := 1, callMarker := true }) (crossing 10000 0) = .cut 1 ∧
      classify (finishing r skipped) (crossing 10000 0) = .miss 1) ∧
    ∀ r ∈ [RaceState.runout, .green],
      let s := finishing r skipped
      let l := s.lap 0
      let closed := accept 3 (crossing 10000 0) (heatClock s) (servingHalt s 0)
        (closeSector 3 0 (.skip 1) s.laps.freezeStamp 10000 l)
      (lapCompleted 0 10000 s.laps.view { s with laps := { s.laps with lanes := put s.laps.lanes 0 { closed with
        state := .lapping, huntFlag := l.huntFlag, laps := min 65535 (l.laps + 1), cutMark := l.cutMark || false,
        missMark := l.missMark || true } } }).2 = true := by decide +kernel

/-! OtherCrossingsByVerdict -/

/-- A heat in a race state, seen alike by the lap engine, with lane 1 changed. -/
def seen (r : RaceState) (f : LapLane → LapLane) : State := (inRace r).onLapLane 0 f
def onGrid (l : LapLane) : LapLane := { l with state := .grid, expected := 0, last := 0 }
theorem witness_verdict_views :
    let vacant := seen .green fun l => { l with state := .vacant }
    let counting := seen .countdown id
    let marked := seen .countdown fun l => { l with jumpMark := true }
    let again := { counting with race := { counting.race with jumpMarks := put counting.race.jumpMarks 0 true } }
    ((seen .idle id).laps.view.state = .idle ∧ ((seen .idle id).penLane 0).serving = none) ∧
    (vacant.laps.view.state ≠ .idle ∧ (vacant.lap 0).state = .vacant) ∧
    ((seen .staged id).laps.view.state = .staged ∧ ((seen .staged id).lap 0).state ≠ .vacant) ∧
    (counting.laps.view.state = .countdown ∧ (counting.lap 0).state ≠ .vacant ∧ (counting.lap 0).jumpMark = false ∧
      counting.race.state ≠ .idle ∧ counting.race.countdownStamp = some 0 ∧
      pick counting.race.jumpMarks 0 = false) ∧
    (marked.lap 0).jumpMark = true ∧ isLater (2 ^ 40 - 1 : Stamp) 0 = true ∧ isLater (0 : Stamp) 0 = false ∧
    pick again.race.jumpMarks 0 = true := by decide +kernel
theorem witness_verdict_discards :
    let done := seen .green fun l => { l with state := .finished }
    let grid := seen .green onGrid
    let early := { grid with laps := { grid.laps with view := { grid.laps.view with goneGreen := false } } }
    let hunt := seen .green fun l => { l with state := .hunt }
    (∀ s ∈ [done, grid, early, hunt], s.laps.view.state.afterGreen = true ∧ (s.penLane 0).serving = none) ∧
    (done.lap 0).state = .finished ∧ ((grid.lap 0).state = .grid ∧ (crossing 9 1).gate.val ≠ 0) ∧
    ((early.lap 0).state = .grid ∧ early.laps.view.goneGreen = false) ∧
    ((hunt.lap 0).state = .hunt ∧ (crossing 9 1).gate.val ≠ 0 ∧ (crossing 9999 0).gate.val = 0 ∧
      interval (hunt.lap 0).lapStart 9999 < 100 * hunt.laps.minLap) := by decide +kernel
theorem witness_verdict_first_line :
    let runoutCall := seen .called onGrid
    let r := { runoutCall with laps := { runoutCall.laps with
      view := { runoutCall.laps.view with calledFrom := .runout } } }
    (∀ s ∈ [seen .green onGrid, seen .called onGrid, seen .runout onGrid, r],
      s.laps.view.state.afterGreen = true ∧ (s.lap 0).state = .grid ∧ s.laps.view.goneGreen = true ∧
      (s.penLane 0).serving = none ∧ (s.penLane 0).queue = []) ∧
    (seen .green onGrid).laps.view.state ≠ .runout ∧ (seen .green onGrid).laps.view.state.frozen = false ∧
    ((seen .called onGrid).laps.view.state.frozen = true ∧ (seen .called onGrid).laps.view.calledFrom ≠ .runout) ∧
    (seen .runout onGrid).laps.view.state = .runout ∧
    (r.laps.view.state.frozen = true ∧ r.laps.view.calledFrom = .runout) := by decide +kernel
theorem witness_verdict_ladder :
    let four := fun l => track 4 (seen .green l)
    let verdict := fun (s : State) (c : Crossing) =>
      ladder (s.geom 0).gateCount ((s.laps.setup.map LapSetup.missTolerance).getD 0) s.laps.minLap c (s.lap 0)
    let called := four fun l => { l with callMarker := true }
    (∀ s ∈ [called, four id], s.laps.view.state.afterGreen = true ∧ (s.lap 0).state = .lapping ∧
      (s.penLane 0).serving = none ∧ 2 ≤ (s.geom 0).gateCount) ∧
    verdict called (crossing 9999 0) = .ghost ∧
    verdict (four fun l => { l with expected := 2, last := 1 }) (crossing 500 1) = .repeated ∧
    verdict (four id) (crossing 500 3) = .fault ∧
    (verdict called (crossing 500 3) = .cut 2 ∧ (crossing 500 3).gate.val ≠ 0) ∧
    (verdict (four id) (crossing 500 2) = .miss 1 ∧ (crossing 500 2).gate.val ≠ 0) := by decide +kernel
/-- R67, R89: a MISS over gate 1 leaves sector 1 absent and closes sector 2 from the last crossing. -/
theorem test_miss_spans_two_sectors :
    let t := takeCrossing plainOrders (crossing 500 2) (track 4 (seen .green id))
    ((t.lap 0).splits, (t.lap 0).missMark, (t.lap 0).expected) =
      ({ one := none, two := some 500, three := none }, true, 3) := by decide +kernel
theorem witness_frozen :
    let l := { lapA with freezeOpen := true }
    l.freezeOpen = true ∧
    interval l.lastCrossing 100 + interval (100 : Stamp) 150 + interval (150 : Stamp) (2 ^ 39 - 1) < 2 ^ 39 ∧
    l.sectorFrozen ≤ interval l.lastCrossing 100 := by decide
theorem witness_lap_record :
    lapA.lapFrozen ≤ interval lapA.lapStart 0xFFFFFFFF ∧ interval lapA.lapStart 0xFFFFFFFF ≤ 0xFFFFFFFF ∧
    0xFFFFFFFF < interval lapA.lapStart 0x100000000 := by decide

/-- A held lap record, and a lane that holds so many. -/
def heldLap : HeldLap := { record := buildRecord 0 10000 11 7 1 false lapA, lost := 0 }
def books (n : Nat) (s : State) : State := s.onLapLane 0 fun l => { l with bookQueue := List.replicate n heldLap }
theorem witness_lap_held_lost_retried :
    let full := books 4 (inRace .green)
    let room := books 3 (inRace .green)
    let s := books 4 (lapping id)
    let other := bytesAt [(0x2800, 1)] (room.onLapLane 1 fun l => { l with bookQueue := [heldLap] })
    let stuck := fun (s : State) (j : Lane) =>
      (s.lap j).bookQueue = [] ∨ readByte s (pageAddr j (s.lap j).pageCursor) ≠ 1
    readByte full (pageAddr 0 (full.lap 0).pageCursor) ≠ 1 ∧ 4 ≤ (full.lap 0).bookQueue.length ∧ (∀ j, stuck full j) ∧
    readByte room (pageAddr 0 (room.lap 0).pageCursor) ≠ 1 ∧ (room.lap 0).bookQueue.length < 4 ∧ (∀ j, stuck room j) ∧
    (readByte other (pageAddr 0 (other.lap 0).pageCursor) ≠ 1 ∧ (other.lap 0).bookQueue.length < 4 ∧
      (∀ i, i ≠ 1 → stuck other i) ∧ (other.lap 1).bookQueue = [heldLap] ∧
      readByte other (pageAddr 1 (other.lap 1).pageCursor) = 1 ∧ other.port.turns = []) ∧
    (s.lap 0).bookQueue = heldLap :: List.replicate 3 heldLap ∧ readByte s (pageAddr 0 (s.lap 0).pageCursor) = 1 ∧
    s.port.turns = [] ∧ readByte s (pageAddr 0 ((s.lap 0).pageCursor + 1)) ≠ 1 := by decide +kernel

/-- A device in a race view with one change waiting since stamp 10. -/
def changed (r : RaceState) (k : ChangeKind) (tick : BitVec 32) : State :=
  let s := inRace r
  atTick tick { s with laps := { s.laps with changes := [{ kind := k, stamp := 10 }], freezeStamp := some 5 } }
theorem witness_change_taken :
    atOrAfter ((10 : Stamp) + 2) (now (changed .green .resuming 11)) = false ∧
    ((changed .green (.called .green) 12).laps.changes = [{ kind := .called .green, stamp := 10 }] ∧
      (changed .green (.called .green) 12).gates.queue = [] ∧
      atOrAfter ((10 : Stamp) + 2) (now (changed .green (.called .green) 12)) = true ∧
      (changed .green (.called .green) 12).laps.view.state ≠ .resuming) ∧
    (changed .resuming (.called .green) 12).laps.view.state = .resuming ∧
    (changed .called .resuming 12).laps.changes = [{ kind := .resuming, stamp := 10 }] ∧
    (changed .resuming (.resumed .green) 12).laps.changes = [{ kind := .resumed .green, stamp := 10 }] ∧
    (changed .resuming (.resumed .green) 12).laps.freezeStamp = some 5 := by decide +kernel

/-- RaceChangesMoveTheLanes: each kind of change that moves the lanes, due, in the views its clauses name. -/
theorem witness_lane_moves :
    (∀ k ∈ [ChangeKind.staging 7 true 100 heatA.racers, .countdown, .restaged, .green, .runout, .settle],
      (changed .green k 12).laps.changes = [{ kind := k, stamp := 10 }] ∧ (changed .green k 12).gates.queue = [] ∧
      atOrAfter ((10 : Stamp) + 2) (now (changed .green k 12)) = true) ∧
    ((changed .green .runout 12).laps.view.state ≠ .called ∧ (changed .green .runout 12).laps.view.state ≠ .resuming) ∧
    (changed .called .runout 12).laps.view.state = .called ∧ (changed .resuming .runout 12).laps.view.state = .resuming ∧
    (let grid := (changed .countdown .green 12).onLapLane 0 onGrid;
      (grid.lap 0).state = .grid ∧ grid.laps.gridOn = false ∧ (grid.lap 1).state = .lapping ∧
      (grid.lap 7).state = .vacant ∧ (grid.onLaps fun l => { l with gridOn := true }).laps.gridOn = true) := by
  decide +kernel
/-- R58: GREEN starts the first lap of a lane on the grid at its stamp, with the sector gate expected. -/
theorem test_green_starts_the_grid :
    let s := ((changed .countdown .green 12).onLapLane 0 onGrid).onLaps fun l => { l with gridOn := true }
    ((nextOf (exec (.raceChangeTake plainOrders) s)).map fun t =>
      ((t.lap 0).state, (t.lap 0).lapStart, (t.lap 0).expected)) = some (.lapping, 10, 1) := by decide +kernel
/-- CutsRetiresAndAbortsFinishLanes: each change due, with an unfinished and a finished lane. -/
theorem witness_cuts :
    (∀ k ∈ [ChangeKind.retire 0, .retire 7, .cutUnfinished, .abort],
      let s := changed .runout k 12
      s.laps.changes = [{ kind := k, stamp := 10 }] ∧ s.gates.queue = [] ∧
      atOrAfter ((10 : Stamp) + 2) (now s) = true) ∧
    Unfinished ((changed .runout .abort 12).lap 0) ∧ ¬ Unfinished ((changed .runout .abort 12).lap 7) := by
  unfold Unfinished; decide +kernel

/-- CrossingsBeforeAChangeComeFirst: one crossing before the change, one at it. -/
theorem witness_crossings_first :
    ∀ k ∈ [ChangeKind.runout, .abort],
      let u := changed .green k 12
      let s := { u with gates := { u.gates with queue := [crossing 9 0, crossing 10 0] } }
      s.laps.changes = [{ kind := k, stamp := 10 }] ∧ atOrAfter ((10 : Stamp) + 2) (now s) = true ∧
      isLater (9 : Stamp) 10 = true ∧ isLater (10 : Stamp) 10 = false := by decide +kernel

/-! The service tick and heats -/

/-- A device at a service tick. -/
def serving (s : State) : State := { s with time := { s.time with serviceDue := true, scanLeft := 8 } }
theorem witness_quiet_service :
    let just := fun (s : State) => { s with time := { s.time with idleNow := true } }
    let ready := just (bytesAt [(0x400, 1)] fresh)
    (∀ s ∈ [serving fresh, serving (inRace .green), serving ready],
      s.phase = .running ∧ s.time.serviceDue = true ∧ readByte s (slipAddr s.port.slipCursor) ≠ 1 ∧
      s.port.noticeQueue = [] ∧ (∀ k, (s.lap k).bookQueue = []) ∧ s.gates.queue = [] ∧ s.laps.changes = []) ∧
    (serving (inRace .green)).race.state ≠ .idle ∧ (serving ready).time.idleNow = true ∧
    readByte (serving fresh) (entryAddr (serving fresh).race.cardCursor) ≠ 1 := by decide +kernel

/-- CrossingWorkTakesChangesThenCrossings: before SUM.STARTED, in a soft reset. -/
theorem witness_crossing_work :
    let s := { serving (inRace .green) with phase := Phase.softReset }
    s.time.serviceDue = true ∧ s.phase ≠ .running := by decide +kernel
/-- R46: of nine crossings a service tick takes eight, after the change that is due. -/
theorem test_eight_of_nine_crossings :
    let u := changed .green .runout 12
    let s := { u with gates := { u.gates with queue := List.replicate 9 (crossing 20 1) } }
    let t := runJob plainOrders s .crossingTake
    (t.gates.queue.length, t.laps.changes.length, t.laps.view.state) = (1, 0, .runout) := by decide +kernel

/-- A READY entry 0, HELD with end mode TIME, a time limit of 100 ms and racer 11 on lane 1, each where asked; with a
setup that maps one gate of lane 1. -/
def ready (loaded limit racer : Bool) : State :=
  bytesAt [(0x400, 1), (0x402, 1), (0x40B, if limit then 100 else 0), (0x414, if racer then 11 else 0)]
    { fresh with
      port := { HostPort.reset with setupLoaded := loaded }
      laps := { LapEngine.reset with
        geometry := put LapEngine.reset.geometry 0 { gateCount := 1, pos1 := 0, pos2 := 0, pos3 := 0 } } }
theorem witness_ready_refused :
    (ready true true true).port.turns = [] ∧ (ready true true true).race.state = .idle ∧
    readByte (ready true true true) (entryAddr (ready true true true).race.cardCursor) = 1 ∧
    (ready false true true).port.setupLoaded = false ∧ (ready true true true).port.setupLoaded = true ∧
    ((readEntry (ready true false true) 0).endMode ≠ .laps ∧ (readEntry (ready true false true) 0).timeLimit = 0) ∧
    (0 < (readEntry (ready true true false) 0).timeLimit ∧ (readEntry (ready true true false) 0).endMode = .time ∧
      ∀ k, pick (readEntry (ready true true false) 0).racers k = 0) ∧
    refusalReason (ready true true false) (readEntry (ready true true false) 0) = some 6 := by decide +kernel
/-- The later checks: racer 11 on two lanes, on a lane with no gate, and with every tally entry but lane 1's taken. -/
theorem witness_ready_refused_late :
    let s := ready true true true
    let twice := bytesAt [(0x415, 11)] s
    let apart := bytesAt [(0x41B, 12)] s
    let full := bytesAt ((List.range 64).map fun i => (0x1600 + 32 * i, 2)) s
    (0 < (readEntry s 0).timeLimit ∧ (readEntry s 0).endMode = .time) ∧
    ((0 : Lane) < 1 ∧ pick (readEntry twice 0).racers 0 ≠ 0 ∧
      pick (readEntry twice 0).racers 0 = pick (readEntry twice 0).racers 1) ∧
    (∀ j k, j < k → pick (readEntry apart 0).racers j ≠ 0 →
      pick (readEntry apart 0).racers j ≠ pick (readEntry apart 0).racers k) ∧
    (pick (readEntry apart 0).racers 7 ≠ 0 ∧ (apart.geom 7).gateCount = 0) ∧
    (∀ k, pick (readEntry full 0).racers k ≠ 0 → (full.geom k).gateCount ≠ 0) ∧
    (tallyRoom full).length < (heatNewRacers full (readEntry full 0)).length := by decide +kernel
theorem witness_ready_staged :
    let s := ready true true true
    let auto := bytesAt [(0x402, 0)] s
    ¬ (tallyRoom s).length < (heatNewRacers s (readEntry s 0)).length ∧ pick (readEntry s 0).racers 0 ≠ 0 ∧
    (readEntry s 0).startHeld = true ∧ ((readEntry auto 0).startHeld = false ∧ (readEntry auto 0).gap = 0) ∧
    s.time.idleNow = false ∧ { s.time with idleNow := true }.idleNow = true := by decide +kernel
/-- R12, R105: modes their tables do not list, calls, a minimum lap and a card cap out of their ranges. -/
theorem test_entry_clamps :
    let h := readEntry (bytesAt [(0x402, 2), (0x404, 3), (0x406, 21), (0x411, 99), (0x41C, 101), (0x41D, 9)]
      (ready true true true)) 0
    (h.startHeld, h.endMode, h.callsAllowed, h.minLap, pick h.caps 0, pick h.caps 1) =
      (false, .both, 20, 100, 100, 10) := by decide +kernel
/-- R12, R143: HALT 499 ms, warn limit 10, escalation 1 with amount 7, fallback 2 of 99 ms. -/
theorem test_penalty_row_clamps :
    readRow (bytesAt [(0x100, 2), (0x101, 1), (0x102, 0xF3), (0x103, 95), (0x104, 10), (0x105, 1), (0x107, 7), (0x108, 5),
      (0x109, 2), (0x10B, 99)] fresh) 0 =
      { response := .halt, amount := 500, duty := 95, warnLimit := 9, escResponse := .laps, escAmount := 1, escDuty := 5,
        fbResponse := .time, fbAmount := 100 } := by decide +kernel
/-- R28, the worked sequence: a dropout in mid-lap, and the lap after it. -/
theorem test_degraded :
    let s := { fresh with time := { fresh.time with
      refState := .locked, lockStamp := some 5041655, unlockStamp := some 5030000 } }
    degraded 5000000 5480000 s = true ∧ degraded 5480000 5950000 s = false ∧ degraded 5041655 5950000 s = true := by
  decide +kernel
/-- R107: at staging the racer's tally entry is created, in the FREE entry of lowest index. -/
theorem test_staging_creates_the_tally_entry :
    let t := examineCard (bytesAt [(0x1600, 2)] (ready true true true))
    (readByte t 0x1600, readByte t 0x1620, readByte t 0x1621) = (2, 1, 11) := by decide +kernel
/-- R118: the service tick of the settle itself stages nothing; the next does. -/
theorem test_no_staging_at_the_tick_of_the_settle :
    let s := ready true true true
    (examineCard { s with time := { s.time with idleNow := true } }).race.state = .idle ∧
    (examineCard s).race.state = .staged := by decide +kernel

/-- LastFinishSettlesTheHeat: lane 1 finishes first of two, and last of two. -/
def lastOut (other : Bool) : State :=
  let s := bytesAt [(0x400, 2)] (inRace .runout)
  { s with race := { s.race with finishedSet := put s.race.finishedSet 1 other } }
theorem witness_last_finish :
    let s := lastOut true
    s.port.turns = [] ∧ s.race.state ≠ .idle ∧ s.race.snapshot = some heatA ∧ pick heatA.racers 0 ≠ 0 ∧
    pick s.race.finishedSet 0 = false ∧
    (∀ j, j ≠ 0 → pick heatA.racers j ≠ 0 → pick s.race.finishedSet j = true) ∧
    readByte s (entryAddr s.race.cardCursor) = 2 ∧
    readByte (bytesAt [(0x400, 1)] s) (entryAddr s.race.cardCursor) ≠ 2 ∧
    (∃ j, j ≠ 0 ∧ pick heatA.racers j ≠ 0 ∧ pick (lastOut false).race.finishedSet j = false) := by decide +kernel

/-- R118: the host has rewritten the entry READY: the settle leaves the state byte, and the race goes to IDLE. -/
theorem test_settle_of_a_rewritten_entry :
    let t := raceFinish 0 9 (bytesAt [(0x400, 1)] (lastOut true))
    (readByte t 0x400, readField t 0x42C 5, t.race.state, t.race.cardCursor) = (1, 9, .idle, 1) := by decide +kernel

/-! Slips -/

/-- A setup block with one gate of lane 1 on GI0, miss tolerance and auto-call as given, and lane 8's gate count. -/
def setupSlip (tolerance auto count8 : Byte) (r : RaceState) : State :=
  posted 1 0 0 (bytesAt [(0, 0x81), (64, 1), (120, count8), (130, tolerance), (133, auto)] (inRace r))
theorem witness_setup :
    SlipWaits 1 (setupSlip 1 1 0 .idle) ∧ SlipWaits 1 (setupSlip 0 0 0 .green) ∧
    (setupSlip 1 1 0 .idle).race.state = .idle ∧ (setupSlip 0 0 0 .green).race.state ≠ .idle ∧
    readField (setupSlip 1 1 0 .idle) 130 1 ≤ 1 ∧ readField (setupSlip 1 1 0 .idle) 133 1 ≤ 1 ∧
    1 < readField (setupSlip 2 0 0 .idle) 130 1 ∧ readField (setupSlip 1 2 0 .idle) 130 1 ≤ 1 ∧
    1 < readField (setupSlip 1 2 0 .idle) 133 1 := by unfold SlipWaits; decide +kernel
theorem track_of_one_gate (s : State) (hc : ∀ k, setupCount s k = if k = 0 then 1 else 0)
    (hm : ∀ n, setupMapLane s n = if n = 0 then 1 else 0) (hg : setupMapGate s 0 = 0) : SetupTrackValid s := by
  refine ⟨fun k => ⟨by rw [hc]; split <;> omega, fun i h1 h2 => ?_⟩, fun n => ?_, fun k g hlt => ?_⟩
  · rw [hc] at h2
    split at h2 <;> omega
  · by_cases e : n = 0
    · subst e
      exact Or.inr ⟨⟨0, by rw [hm]; rfl, by rw [hg, hc]; decide⟩, fun m h => absurd h (Fin.not_lt_zero m)⟩
    · exact Or.inl (by rw [hm, if_neg e])
  · rw [hc] at hlt
    by_cases e : k = 0
    · subst e
      exact ⟨0, by rw [hm]; rfl, by rw [hg]; simp at hlt; omega⟩
    · simp [e] at hlt
theorem witness_setup_track :
    SetupTrackValid (setupSlip 1 1 0 .idle) ∧ SetupTrackValid (setupSlip 2 0 0 .idle) ∧
    SetupTrackValid (setupSlip 1 2 0 .idle) := by
  refine ⟨track_of_one_gate _ ?_ ?_ ?_, track_of_one_gate _ ?_ ?_ ?_, track_of_one_gate _ ?_ ?_ ?_⟩ <;>
  first
    | (unfold setupCount; decide +kernel)
    | (unfold setupMapLane; decide +kernel)
    | (unfold setupMapGate; decide +kernel)
/-- R16: the first check that fails, at its boundary: lane 8's gate count, input 31 mapped to no gate, and a gate of lane 1
that no input maps. -/
theorem witness_setup_track_bad :
    SetupTrackFault (setupSlip 1 1 5 .idle) 8 ∧
    SetupTrackFault (bytesAt [(62, 0x0F)] (setupSlip 1 1 0 .idle)) 40 ∧
    SetupTrackFault (bytesAt [(0, 0)] (setupSlip 1 1 0 .idle)) 1 := by
  have geo : ∀ s, (∀ k, setupCount s k ≤ 1) → ∀ k, SetupGeometryValid s k := fun s h k =>
    ⟨by have := h k; omega, fun i h1 h2 => by have := h k; omega⟩
  have off : ∀ s n, setupMapLane s n = 0 → SetupMapValid s n := fun _ _ h => Or.inl h
  refine ⟨Or.inl ⟨7, fun j hj => ⟨?_, fun i h1 h2 => ?_⟩, fun h => ?_, rfl⟩,
    Or.inr (Or.inl ⟨geo _ ?_, 31, fun m hm => ?_, fun h => ?_, rfl⟩),
    Or.inr (Or.inr ⟨geo _ ?_, fun n => off _ n ?_, 0, fun j hj => absurd hj (Fin.not_lt_zero j), fun h => ?_, rfl⟩)⟩
  · exact (show ∀ j : Lane, j < 7 → setupCount (setupSlip 1 1 5 .idle) j ≤ 4 by unfold setupCount; decide +kernel) j hj
  · have := (show ∀ j : Lane, j < 7 → setupCount (setupSlip 1 1 5 .idle) j ≤ 1 by unfold setupCount; decide +kernel) j hj
    omega
  · exact absurd (h.1 : setupCount (setupSlip 1 1 5 .idle) 7 ≤ 4) (by unfold setupCount; decide +kernel)
  · unfold setupCount; decide +kernel
  · have e : ∀ m : GateIn, m < 31 → setupMapLane (bytesAt [(62, 0x0F)] (setupSlip 1 1 0 .idle)) m =
        if m = 0 then 1 else 0 := by unfold setupMapLane; decide +kernel
    by_cases z : m = 0
    · subst z
      exact Or.inr ⟨⟨0, by rw [e 0 hm]; rfl, by unfold setupMapGate setupCount; decide +kernel⟩,
        fun j hj => absurd hj (Fin.not_lt_zero j)⟩
    · exact off _ m (by rw [e m hm, if_neg z])
  · rcases h with h | ⟨⟨k, h, _⟩, _⟩
    · exact absurd h (by unfold setupMapLane; decide +kernel)
    · exact absurd h ((show ∀ k : Lane, setupMapLane (bytesAt [(62, 0x0F)] (setupSlip 1 1 0 .idle)) 31 ≠ laneNo k by
        unfold setupMapLane; decide +kernel) k)
  · unfold setupCount; decide +kernel
  · exact (show ∀ n, setupMapLane (bytesAt [(0, 0)] (setupSlip 1 1 0 .idle)) n = 0 by
      unfold setupMapLane; decide +kernel) n
  · obtain ⟨n, h1, _⟩ := h 0 (by unfold setupCount; decide +kernel)
    exact absurd h1 ((show ∀ n, setupMapLane (bytesAt [(0, 0)] (setupSlip 1 1 0 .idle)) n ≠ 1 by
      unfold setupMapLane; decide +kernel) n)
/-- R63: a SETUP that gives a lane one gate leaves it with last gate 0. -/
theorem test_setup_to_one_gate :
    let s := (setupSlip 1 1 0 .idle).onLapLane 0 fun l => { l with last := 3, expected := 1 }
    ((nextOf (exec .setup s)).map fun t => ((t.lap 0).last, (t.lap 0).expected)) = some (0, 0) := by decide +kernel
theorem witness_scan :
    let s := posted 12 0 0 fresh
    s.phase = .running ∧ s.time.serviceDue = true ∧ s.port.turns = [] ∧
    readByte (serving fresh) (slipAddr fresh.port.slipCursor) ≠ 1 ∧ readByte s (slipAddr s.port.slipCursor) = 1 ∧
    (scanSlips s.time.scanLeft s).port.slipCursor = 1 := by decide +kernel

/-- A slip posted in a race state. -/
def slipIn (kind lane arg : Byte) (r : RaceState) : State := posted kind lane arg (inRace r)
theorem witness_start_slip :
    ∀ r ∈ [RaceState.staged, .green],
      let s := slipIn 2 0 0 r
      SlipWaits 2 s ∧ s.port.setupLoaded = true ∧ RaceSound s ∧ PowerSound s ∧ s.race.state = r ∧
      s.race.snapshot = some heatA ∧ heatA.startHeld = true := by
  unfold SlipWaits RaceSound PowerSound; decide +kernel
theorem witness_start_slip_auto :
    let u := slipIn 2 0 0 .staged
    let s := { u with race := { u.race with snapshot := some { heatA with startHeld := false } } }
    SlipWaits 2 s ∧ s.port.setupLoaded = true ∧ RaceSound s ∧ PowerSound s ∧ s.race.state = .staged := by
  unfold SlipWaits RaceSound PowerSound; decide +kernel
theorem witness_end_heat_slip :
    ∀ r ∈ [RaceState.green, .runout],
      let s := slipIn 5 0 0 r
      SlipWaits 5 s ∧ s.port.setupLoaded = true ∧ RaceSound s ∧ PowerSound s ∧ s.race.state = r := by
  unfold SlipWaits RaceSound PowerSound; decide +kernel
/-- R15: START and END HEAT with no setup loaded. -/
theorem witness_no_setup :
    (SlipWaits 2 (posted 2 0 0 fresh) ∧ SlipWaits 5 (posted 5 0 0 fresh)) ∧ RaceSound (posted 2 0 0 fresh) ∧
    PowerSound (posted 2 0 0 fresh) ∧ RaceSound (posted 5 0 0 fresh) ∧ PowerSound (posted 5 0 0 fresh) ∧
    (posted 2 0 0 fresh).port.setupLoaded = false ∧ (posted 5 0 0 fresh).port.setupLoaded = false := by
  unfold SlipWaits RaceSound PowerSound; decide +kernel
theorem witness_call_slip :
    let expired := fun (ended : Bool) => { slipIn 3 0 0 .runout with
      race := { (slipIn 3 0 0 .runout).race with runoutWait := !ended } }
    (∀ r ∈ [RaceState.idle, .staged, .countdown, .green, .called, .resuming],
      SlipWaits 3 (slipIn 3 0 0 r) ∧ (slipIn 3 0 0 r).race.state = r) ∧
    ∀ ended, SlipWaits 3 (expired ended) ∧ (expired ended).race.state = .runout ∧
      (expired ended).race.runoutWait = !ended := by
  unfold SlipWaits; decide +kernel
theorem witness_resume_slip :
    ∀ r ∈ [RaceState.called, .green],
      let s := slipIn 4 0 0 r
      SlipWaits 4 s ∧ RaceSound s ∧ PowerSound s ∧ s.race.state = r := by
  unfold SlipWaits RaceSound PowerSound; decide +kernel
theorem witness_abort_slip :
    SlipWaits 6 (slipIn 6 0 0 .green) ∧ (slipIn 6 0 0 .green).port.setupLoaded = true ∧
    (slipIn 6 0 0 .green).race.state ≠ .idle ∧ (slipIn 6 0 0 .idle).race.state = .idle ∧
    SlipWaits 6 (posted 6 0 0 fresh) ∧ (posted 6 0 0 fresh).port.setupLoaded = false := by
  unfold SlipWaits; decide +kernel

/-- Lane 1 serving a HALT with serial 0, and with the entry pending instead. -/
def haltEntry : PenEntry := { serial := 0, trigger := 4, kind := .halt, amount := 1000, duty := 0, callStamp := 0 }
def withHalt (s : State) : State := s.onPenLane 0 fun l => { l with serving := some haltEntry }
def withPending (s : State) : State := s.onPenLane 0 fun l => { l with queue := [haltEntry] }
theorem witness_penalise_slip :
    let s := slipIn 7 1 3 .green
    SlipWaits 7 s ∧ (∃ t, exec .penalise s = .next t) ∧ s.port.setupLoaded = true ∧ s.race.state ≠ .idle ∧
    readField s (slipAddr s.port.slipCursor + 4) 1 = laneNo 0 ∧ currentRacer s 0 ≠ 0 ∧
    readField s (slipAddr s.port.slipCursor + 7) 1 ≤ 3 ∧
    3 < readField (slipIn 7 1 4 .green) (slipAddr s.port.slipCursor + 7) 1 ∧
    (∀ k, readField (slipIn 7 8 0 .green) (slipAddr s.port.slipCursor + 4) 1 = laneNo k →
      currentRacer (slipIn 7 8 0 .green) k = 0) ∧
    (posted 7 0 0 fresh).port.setupLoaded = false ∧ (slipIn 7 0 0 .idle).race.state = .idle := by
  exact ⟨by unfold SlipWaits; decide +kernel, ⟨_, rfl⟩, by decide +kernel⟩
theorem witness_pardon_slip :
    let s := slipIn 8 1 0 .green
    SlipWaits 8 (withHalt s) ∧ SlipWaits 8 (withPending s) ∧ SlipWaits 8 s ∧
    (0 : Half).toNat = readField s (slipAddr s.port.slipCursor + 7) 2 ∧
    ((withHalt s).penLane 0).serving = some haltEntry ∧ haltEntry.serial = 0 ∧
    ((withPending s).penLane 0).serving = none ∧ ((withPending s).penLane 0).queue = [] ++ haltEntry :: [] ∧
    (s.penLane 0).queue = [] := by
  unfold SlipWaits; decide +kernel
theorem witness_adjust_slip :
    ∀ d ∈ [(5 : Int), -5, 6, -6],
      let s := slipIn 9 1 (BitVec.ofInt 8 d) .green
      SlipWaits 9 s ∧ s.port.setupLoaded = true ∧ s.race.state.afterGreen = true ∧
      readField s (slipAddr s.port.slipCursor + 4) 1 = laneNo 0 ∧
      (readByte s (slipAddr s.port.slipCursor + 7)).toInt = d ∧ (s.lap 0).state ≠ .vacant ∧
      (s.lap 7).state = .vacant ∧ (slipIn 9 0 0 .staged).race.state.afterGreen = false := by
  unfold SlipWaits; decide +kernel
theorem witness_adjust_no_lane (k : Lane) :
    readField (slipIn 9 9 0 .green) (slipAddr (slipIn 9 9 0 .green).port.slipCursor + 4) 1 ≠ laneNo k := by
  revert k; decide +kernel
theorem witness_retire_slip :
    let s := slipIn 10 1 0 .green
    SlipWaits 10 s ∧ s.port.setupLoaded = true ∧ s.race.state.afterGreen = true ∧
    readField s (slipAddr s.port.slipCursor + 4) 1 = laneNo 0 ∧ currentRacer s 0 ≠ 0 ∧
    (s.standLane 0).retireMark = false ∧ (s.lap 0).state ≠ .finished ∧ currentRacer s 7 = 0 := by
  unfold SlipWaits; decide +kernel
theorem witness_clear_tally_slip :
    SlipWaits 11 (posted 11 0 0 fresh) ∧ (posted 11 0 0 fresh).race.state = .idle ∧
    SlipWaits 11 (slipIn 11 0 0 .green) ∧ (slipIn 11 0 0 .green).race.state ≠ .idle := by
  unfold SlipWaits; decide +kernel
theorem witness_bad_kind_slip :
    SlipWaits 0 (posted 0 0 0 fresh) ∧ SlipWaits 12 (posted 12 0 0 fresh) ∧ SlipWaits 255 (posted 255 0 0 fresh) := by
  unfold SlipWaits; decide +kernel

/-! Events in time -/

/-- A HELD heat made AUTO with a gap of 1 s. -/
def auto (s : State) : State :=
  { s with race := { s.race with snapshot := some { heatA with startHeld := false, gap := 1000 } } }
theorem witness_gap :
    let s := atTick 100000 (auto (inRace .staged))
    RaceSound s ∧ PowerSound s ∧ s.race.state = .staged ∧
    100 * 1000 ≤ interval s.race.stagedStamp (now s) ∧
    interval s.race.stagedStamp (now (atTick 99999 s)) < 100 * 1000 := by
  unfold RaceSound PowerSound; decide +kernel

/-- A countdown of step 500 ms with so many steps done and a hold. -/
def countingDown (n hold : Nat) (tick : BitVec 32) : State :=
  let s := inRace .countdown
  atTick tick { s with race := { s.race with countdownStep := n, hold := hold } }
theorem witness_countdown :
    let s := countingDown 4 0 250000
    RaceSound s ∧ PowerSound s ∧ s.race.state = .countdown ∧ s.race.countdownStamp = some 0 ∧
    s.race.countdownStep + 1 = 5 ∧ s.race.hold = 0 ∧
    100 * (5 * (raceTimes s).countdownStep) ≤ interval 0 (now s) ∧
    interval 0 (now (countingDown 4 0 249999)) < 100 * (5 * (raceTimes s).countdownStep) ∧
    0 < (countingDown 4 1 250000).race.hold ∧ (countingDown 0 0 0).race.countdownStep + 1 < 5 ∧
    (countingDown 5 1 250100).race.countdownStep = 5 ∧
    100 * (5 * (raceTimes s).countdownStep + 1) ≤ interval 0 (now (countingDown 5 1 250100)) ∧
    interval 0 (now (countingDown 5 1 250099)) < 100 * (5 * (raceTimes s).countdownStep + 1) := by
  unfold RaceSound PowerSound; decide +kernel

/-- A heat in a race state with so many racing ticks, its time limit and a run-out deadline of 1,100 ms watched. -/
def racing (r : RaceState) (ticks : Nat) : State :=
  let s := inRace r
  { s with
    race := { s.race with timeLimitWatch := true, runoutWait := true, runoutDeadline := some 1100 }
    time := { s.time with racingTicks := ticks } }
theorem witness_limits :
    let s := racing .green 100000
    let u := racing .runout 110000
    RaceSound s ∧ PowerSound s ∧ s.race.snapshot = some heatA ∧ s.race.state = .green ∧
    s.race.timeLimitWatch = true ∧ heatA.timeLimit ≤ heatClock s ∧
    heatClock (racing .green 99999) < heatA.timeLimit ∧ RaceSound u ∧ PowerSound u ∧ u.race.state = .runout ∧
    u.race.runoutDeadline = some 1100 ∧ 1100 ≤ heatClock u ∧ u.race.runoutWait = true ∧
    heatClock (racing .runout 109999) < 1100 ∧
    { u.race with runoutWait := false }.runoutWait = false := by
  unfold RaceSound PowerSound; decide +kernel
/-- R36, R116: a lap limit reached at stamp 100 with a run-out limit of 1 ms, taken at tick 250 when the heat clock has
passed the deadline: the cut carries the stamp at which the clock reached it. -/
theorem test_late_expiry_stamp :
    let s := inRace .green
    let u := atTick 250 { s with
      race := { s.race with snapshot := some { heatA with runoutLimit := 1 } }
      time := { s.time with racingTicks := 250 } }
    (enterRunout 100 2 none u).laps.changes = [{ kind := .runout, stamp := 100 }, { kind := .cutUnfinished, stamp := 200 }] := by
  decide +kernel
theorem witness_resume_done :
    let s := atTick 100000 (inRace .resuming)
    let u := { s with race := { s.race with calledFrom := CalledFrom.runout } }
    RaceSound s ∧ PowerSound s ∧ s.race.state = .resuming ∧ s.race.resumeStart = some 0 ∧ s.race.calledFrom = .green ∧
    RaceSound u ∧ PowerSound u ∧ u.race.calledFrom = .runout ∧
    100 * (raceTimes s).resumeDelay ≤ interval 0 (now s) ∧
    interval 0 (now (atTick 99999 s)) < 100 * (raceTimes s).resumeDelay := by
  unfold RaceSound PowerSound; decide +kernel
theorem witness_halt_expiry :
    let s := powerServing 0 (some .halt) 0 0 (withHalt (racing .green 0))
    RaceSound s ∧ PowerSound s ∧ (s.penLane 0).serving = some haltEntry ∧ haltEntry.kind = .halt ∧
    s.race.state.racing = true ∧ (s.penLane 0).haltEnd ≤ heatClock s ∧
    (withHalt (inRace .called)).race.state.racing = false := by
  unfold RaceSound PowerSound; decide +kernel
/-- R152: lane 1's HALT ends at this tick, 1,000 ms on the heat clock, and a press of lane 2's button is due. -/
def haltAtCall : State :=
  let s := racing .green 100000
  let s := s.onPenLane 0 fun l => { l with serving := some haltEntry, haltEnd := 1000 }
  { s with gates := { s.gates with driver := put s.gates.driver 1 { level := false, run := 2001 } } }
/-- R35, R152: the call taken first leaves the tick counted and the HALT serving; log 14. -/
theorem test_call_before_halt_end :
    ((nextOf (exec (.driverCallPress 1) haltAtCall)).bind fun t => (nextOf (exec (.haltExpiry 0) t)).map fun u =>
      (u.race.state, heatClock u, servingHalt u 0, servingRemaining u 0)) = some (.called, 1000, true, 0) := by
  decide +kernel
/-- R152: at the resume's end the HALT ends. -/
theorem test_halt_ends_after_resume :
    ((nextOf (exec (.driverCallPress 1) haltAtCall)).bind fun t =>
      (nextOf (exec .resumeDone (atTick 100000 { t with race := { t.race with
        state := .resuming, resumeStart := some 0 } }))).bind fun u => (nextOf (exec (.haltExpiry 0) u)).map fun v =>
          (v.race.state, v.time.racingTicks, heatClock v, servingHalt v 0)) = some (.green, 100000, 1000, false) := by
  decide +kernel
/-- R142: the device reads bytes 0 to 11 of each row of the penalty table and no byte from 12 to 15. -/
theorem test_penalty_bytes_read :
    penaltyBytes.length = 96 ∧ ∀ a ∈ penaltyBytes, 0x100 ≤ a ∧ a < 0x180 ∧ a % 16 < 12 := by decide +kernel
theorem witness_stall :
    let s := racing .green 200000
    let hidden := { s with race := { s.race with state := .called }, time := { s.time with raced := true } }
    (∀ v ∈ [s, hidden], v.laps.setup = some { missTolerance := 1, stallTime := 2000, autoCall := true } ∧
      (v.race.state.racing = true ∨ v.time.raced = true) ∧ v.laps.view.state = .green ∧ (v.lap 0).state = .lapping ∧
      servingHalt v 0 = false ∧ (v.lap 0).stalled = false ∧
      (v.lap 0).stallRef + 2000 ≤ heatClock v) ∧
    heatClock (racing .green 199999) < ((racing .green 199999).lap 0).stallRef + 2000 := by
  decide +kernel
/-- R81: two lanes stall at one heat clock value; the first calls, and the second is reported and its call merges. -/
theorem test_two_stalls_at_one_value :
    let s := racing .green 200000
    let u := { s with time := { s.time with raced := true } }
    ((nextOf (exec (.stall 0) u)).bind fun t => (nextOf (exec (.stall 1) t)).map fun w =>
      ((w.lap 1).stalled, w.race.state, w.race.callCount)) = some (true, .called, 2) := by decide +kernel
/-- LaneEvaluated and DutyFollows: a ramp of 200 ms at its last millisecond and at its end, no ramp, a lane that turns on
with a ramp time and with none, and one that is off. -/
theorem witness_lane_evaluated :
    let s := inRace .green
    let l := s.powerLane 0
    LaneFree s l ∧ l.cond = true ∧ l.rampStart = some 0 ∧ s.power.rampTime = some 200 ∧
    interval 0 (now (atTick 19999 s)) / 100 < 200 ∧ 200 ≤ interval 0 (now (atTick 20000 s)) / 100 ∧
    { l with rampStart := none }.rampStart = none ∧ { l with cond := false }.cond = false ∧
    { s.power with rampTime := none }.rampTime.getD 0 = 0 ∧ ¬ LaneFree s { l with finished := true } := by
  unfold LaneFree; decide +kernel
/-- R166, R168: a CAP that begins in mid-ramp keeps the milliseconds elapsed: half of 50 at 100 ms of 200. -/
theorem test_cap_in_a_ramp :
    ((powerServing 0 (some .cap) 50 10000 (atTick 10000 (inRace .green))).powerLane 0).duty = 25 := by decide +kernel
theorem witness_lamp_ramp_chop :
    let s := inRace .called
    let u := inRace .green
    let c := { u with power := { u.power with
      chopDue := true, lanes := put u.power.lanes 0 { u.powerLane 0 with nextPin := some 100 } } }
    s.race.state = .called ∧ s.race.flashStart = some 0 ∧ 25000 ≤ interval 0 (now (atTick 25000 s)) ∧
    interval 0 (now (atTick 24999 s)) < 25000 ∧ (u.powerLane 0).cond = true ∧ (u.powerLane 0).rampStart = some 0 ∧
    interval 0 (now (atTick 19999 u)) / 100 < u.power.rampTime.getD 0 ∧
    u.power.rampTime.getD 0 ≤ interval 0 (now (atTick 20000 u)) / 100 ∧ c.power.chopDue = true ∧
    (c.powerLane 7).nextPin = none ∧ (c.powerLane 0).nextPin = some 100 ∧ 100 ≤ 100 := by decide +kernel

/-! Penalties and standings -/

def warnRow (r : Response) : PenaltyRow :=
  { response := .warn, amount := 0, duty := 0, warnLimit := 2, escResponse := r, escAmount := 1000, escDuty := 0,
    fbResponse := .time, fbAmount := 1000 }
/-- TriggersDrawTheirRowsResponse: every response, of the row's own and by escalation, at the warn limit and below it; a
full queue and a finished lane; and held serials that are passed over. -/
def tabled (row : PenaltyRow) (warnings : Nat) : State :=
  let s := inRace .green
  { s with pen := { s.pen with
    table := some (Vector.replicate 8 row)
    lanes := put s.pen.lanes 0 { s.penLane 0 with warnings := Vector.replicate 8 warnings } } }
theorem witness_triggers :
    let own := fun r => { warnRow .time with response := r }
    (∀ r ∈ [Response.none, .halt, .cap, .laps, .time], (tabled (own r) 0).pen.heatStaged = true ∧
      ((tabled (own r) 0).penLane 0).racer ≠ 0 ∧ (tabled (own r) 0).pen.table = some (Vector.replicate 8 (own r)) ∧
      (pick (Vector.replicate 8 (own r)) 4).response = r ∧ r ≠ .warn) ∧
    (∀ r ∈ [Response.halt, .cap, .laps, .time], (pick (Vector.replicate 8 (warnRow r)) 4).escResponse = r ∧
      (pick (Vector.replicate 8 (warnRow r)) 4).response = .warn ∧
      pick ((tabled (warnRow r) 0).penLane 0).warnings 4 + 1 < (warnRow r).warnLimit ∧
      (warnRow r).warnLimit ≤ pick ((tabled (warnRow r) 1).penLane 0).warnings 4 + 1) ∧
    (((tabled (own .halt) 0).penLane 0).finished = false ∧ ((tabled (own .halt) 0).penLane 0).queue.length < 8) ∧
    fresh.pen.heatStaged = false ∧ ((inRace .green).penLane 7).racer = 0 := by decide +kernel
theorem witness_serial_passed_over :
    let s := (tabled (warnRow .time) 0).onPen fun p => { p with serial := 0xFFFF }
    let u := s.onPenLane 1 fun l => { l with
      serving := some { haltEntry with serial := 1 }, queue := [{ haltEntry with serial := 2 }] }
    QueuesSound u ∧ nextSerial u.pen = 3 ∧ (u.penLane 1).serving = some { haltEntry with serial := 1 } := by
  unfold QueuesSound; decide +kernel
/-- R145: the first WARN of a row reports response 1 and warning 1. -/
theorem test_warn_notice :
    let t := trigger 4 0 0 (bytesAt [(0xE00, 1)] (tabled (warnRow .time) 0))
    readField t 0xE0B 2 = 256 + 1 ∧ pick (t.penLane 0).warnings 4 = 1 := by decide +kernel
/-! ServiceAtTheLine and FinishEndsServiceAndConverts: entries called at stamp 5, and the line crossed at 10. -/

def called5 (kind : ServiceKind) (amount : Nat) : PenEntry :=
  { serial := 3, trigger := 4, kind := kind, amount := amount, duty := 50, callStamp := 5 }
/-- Lane 1 with a queue and a serving entry, served since stamp 0. -/
def owing (q : List PenEntry) (e : Option PenEntry) (left : Nat) : State :=
  (inRace .green).onPenLane 0 fun l => { l with queue := q, serving := e, capRemaining := left }
theorem witness_service_begins :
    let q := [called5 .cap 2, called5 .halt 1000]
    let s := owing q none 0
    let cap := owing [{ called5 .halt 9 with callStamp := 10 }, called5 .cap 2] none 0
    (s.penLane 0).serving = none ∧ (s.penLane 0).finished = false ∧ s.pen.heatStaged = true ∧
    (s.penLane 0).queue = [called5 .cap 2] ++ called5 .halt 1000 :: [] ∧ (called5 .halt 1000).kind = .halt ∧
    isLater (called5 .halt 1000).callStamp 10 = true ∧ (∀ d ∈ [called5 .cap 2], d.kind ≠ .halt) ∧
    (cap.penLane 0).queue = [{ called5 .halt 9 with callStamp := 10 }] ++ called5 .cap 2 :: [] ∧
    isLater (10 : Stamp) 10 = false ∧ isLater (called5 .cap 2).callStamp 10 = true ∧
    LaneFree (inRace .green) { (inRace .green).powerLane 0 with serving := some .cap, capDuty := 50 } ∧
    (inRace .green).power.state.racing = true ∧
    ¬ LaneFree (writeLanesOff true (inRace .green)) ((inRace .green).powerLane 0) ∧
    ((owing [] none 0).penLane 0).queue = [] := by unfold LaneFree; decide +kernel
theorem witness_service_runs :
    let e := called5 .cap 2
    let h := called5 .halt 1000
    let view : RaceView := { state := .green, calledFrom := .none, goneGreen := true }
    let s := owing [] (some h) 0
    ((owing [] (some e) 2).penLane 0).serving = some e ∧ e.kind = .cap ∧
    1 < ((owing [] (some e) 2).penLane 0).capRemaining ∧ ((owing [] (some e) 1).penLane 0).capRemaining ≤ 1 ∧
    (s.penLane 0).serving = some h ∧ h.kind = .halt ∧ (s.penLane 0).pushMark = false ∧ view.state.frozen = false ∧
    isLater (s.penLane 0).serveStamp 50001 = true ∧
    100 * s.pen.coastGrace.getD 0 < interval (s.penLane 0).serveStamp 50001 ∧
    ¬ 100 * s.pen.coastGrace.getD 0 < interval (s.penLane 0).serveStamp 50000 := by decide +kernel

/-- The table of a heat whose row 4 falls back to a response. -/
def withTable (r : Response) (s : State) : State :=
  { s with pen := { s.pen with table := some (Vector.replicate 8 { warnRow .time with fbResponse := r }) } }
theorem witness_finish :
    let h := called5 .halt 1000
    let pend := withTable .time (owing [h, called5 .cap 2] none 0)
    let serve := withTable .time (owing [] (some h) 0)
    let one := withTable .laps (owing [h] none 0)
    let gone := pend.onPenLane 0 fun l => { l with finished := true }
    let many := withTable .time (owing (List.replicate 8 h) none 0)
    (∀ s ∈ [pend, serve, gone, many], s.pen.table = some (Vector.replicate 8 (warnRow .time)) ∧ QueuesSound s) ∧
    (one.pen.table ≠ none ∧ QueuesSound one ∧ (one.penLane 0).queue = [h] ∧ (one.penLane 0).finished = false ∧
      (one.penLane 0).serving = none) ∧
    ((pend.penLane 0).finished = false ∧ (pend.penLane 0).serving = none) ∧ (serve.penLane 0).serving = some h ∧
    (gone.penLane 0).finished = true ∧ 8 ≤ (many.penLane 0).queue.length ∧
    (warnRow .time).fbResponse = .time := by unfold QueuesSound; decide +kernel

/-- R149, R156: at its finish a lane that owes a HALT is charged the fallback of its row instead. -/
theorem test_pending_halt_converts :
    let t := penFinish 0 10 (withTable .time (owing [called5 .halt 5000] none 0))
    (t.penLane 0).queue = [] ∧ (t.penLane 0).timePenalty = 1000 := by decide +kernel

/-- TallyFoldAddsTheHeat: no racer, no entry and none free, no entry but one free, and an entry that holds the racer. -/
theorem witness_fold_tally :
    let s := inRace .green
    let full := bytesAt ((List.range 64).map fun i => (0x1600 + 32 * i, 2)) s
    let holds := fun (v : State) (j : Fin 64) =>
      readByte v (tallyAddr j) = 1 ∧ readByte v (tallyAddr j + 1) = pick v.stand.racers 0
    let best := fun n => (bytesAt [(0x1620, 1), (0x1621, 11)] s).onLapLane 0 fun l => { l with bestLap := n }
    pick s.stand.racers 7 = 0 ∧ pick s.stand.racers 0 = 11 ∧ (∀ j, ¬ holds full j) ∧
    (∀ j, readByte full (tallyAddr j) ≠ 0) ∧ (∀ j, ¬ holds s j) ∧ readByte s (tallyAddr 0) = 0 ∧
    (holds (best 5) 1 ∧ ∀ j, j < 1 → ¬ holds (best 5) j) ∧
    (((best 5).lap 0).bestLap ≠ 0 ∧ readField (best 5) (tallyAddr 1 + 12) 4 = 0) ∧
    ((best 0).lap 0).bestLap = 0 := by decide +kernel
theorem witness_running_order :
    let s := inRace .green
    let u := { s with laps := { s.laps with lanes := put s.laps.lanes 1 { lapA with lastLine := some (2 ^ 39 - 1) } } }
    u.stand.order.Nodup ∧ u.stand.order = [0, 1] ∧ (u.lap 1).lastLine = some (2 ^ 39 - 1) ∧
    interval 0 (2 ^ 39 - 1) < 2 ^ 39 ∧ (u.lap 0).lastLine = none ∧
    ∀ k, interval 0 (u.lap k).lastCrossing < 2 ^ 39 := by decide +kernel
/-- R181, the worked figures: heat 18 settles with lanes 3, 1, 5, 8. -/
theorem test_final_order :
    let s := inRace .runout
    let lane := fun (k : Lane) laps part (x : Stamp) (s : State) =>
      (s.onLapLane k fun l => { l with laps := laps, lastCrossing := x }).onStandLane k fun l => { l with
        partialDist := part }
    let s := { s with stand := { s.stand with order := [0, 2, 4, 7] } }
    finalOrder (lane 0 52 0 90400000 (lane 2 52 0 90120000 (lane 4 51 812 90310000 (lane 7 49 812 89900000 s)))) =
      [2, 0, 4, 7] := by decide +kernel
theorem witness_partial :
    let g : Geometry := { gateCount := 4, pos1 := 1, pos2 := 2, pos3 := 999 }
    let c : CutData := { before := .lapping, last := 3, lastCrossing := 0, sectorFrozen := 0, bestSplit := none,
                         bestLap := 1000, haltInSector := false, instant := 5 }
    geometryGood g = true ∧ c.last < g.gateCount ∧ c.before = .lapping ∧ c.haltInSector = false ∧
    c.bestLap * (1000 - 999) / 1000 ≠ 0 := by decide

end Sys2Proof.Tests
end

