-- ==== Sys2Proof/Proofs/Irq.lean ====
section
/-! PROOFS. IRQ# and the two register writes it depends on (section 1.2, R3 to R5), and the statement O17. -/

namespace Sys2Proof.Machine

/-! ### The bits of SUM and SUMEN -/

theorem registerValue_sum (p : HostPort) : registerValue 0 p = sumValue p := rfl
theorem registerValue_sumen (p : HostPort) : registerValue 1 p = p.sumen := rfl

theorem byte_ne_zero_iff (b : Byte) : b ≠ 0 ↔ ∃ i < 8, b.getLsbD i = true := by
  constructor
  · intro h
    refine Classical.byContradiction fun hclear => h (BitVec.eq_of_getLsbD_eq fun i hi => ?_)
    have hbit : b.getLsbD i = false := Bool.eq_false_iff.mpr fun hset => hclear ⟨i, hi, hset⟩
    simpa using hbit
  · rintro ⟨i, -, hset⟩ rfl
    simp at hset

theorem sumFault_getLsbD : ∀ i < 8, sumFault.getLsbD i = decide (i = 4) := by decide

/-- The bits that SUMEN holds: 0 to 4 (R5). -/
theorem enables_getLsbD : ∀ i < 8, (0x1F : Byte).getLsbD i = decide (i < 5) := by decide

/-- SUM as read: a direct cause, or FAULT at bit 4 (R4). -/
theorem sumValue_getLsbD (p : HostPort) {i : Nat} (hi : i < 8) :
    (sumValue p).getLsbD i = (p.sum.getLsbD i || (faultSummary p && decide (i = 4))) := by
  cases hf : faultSummary p <;> simp [sumValue, hf, sumFault_getLsbD i hi]

theorem irqLow_iff (p : HostPort) :
    irqLow p = true ↔ ∃ i < 8, (sumValue p).getLsbD i = true ∧ p.sumen.getLsbD i = true := by
  rw [irqLow, decide_eq_true_iff, byte_ne_zero_iff]
  simp only [BitVec.getLsbD_and, Bool.and_eq_true]

/-! ### The writes of SUM and SUMEN -/

theorem exec_sumWrite_of_ne_inReset {s : State} (d : Byte) (h : s.phase ≠ .inReset) :
    exec (.sumWrite d) s = .next ((driveData none s).onPort (HostPort.clearSum d)) := by
  have hexec : exec (.sumWrite d) s = .next (hostRegister 0 d s) := rfl
  simp [hexec, hostRegister, h, writeRegister]

theorem exec_sumenWrite_of_ne_inReset {s : State} (d : Byte) (h : s.phase ≠ .inReset) :
    exec (.sumenWrite d) s = .next ((driveData none s).onPort fun p => { p with sumen := d &&& 0x1F }) := by
  have hexec : exec (.sumenWrite d) s = .next (hostRegister 1 d s) := rfl
  simp [hexec, hostRegister, h, writeRegister]

/-- SUM reads alike at two ports with the same causes and the same faults: it hangs on nothing else. -/
theorem sumValue_congr {p q : HostPort} (hsum : p.sum = q.sum) (hflt : p.flt = q.flt) (hflten : p.flten = q.flten) :
    sumValue p = sumValue q := by
  simp [sumValue, faultSummary, hsum, hflt, hflten]

@[simp] theorem sumValue_driveData (b : Option Byte) (s : State) :
    sumValue (driveData b s).port = sumValue s.port :=
  sumValue_congr (by simp) (by simp) (by simp)

@[simp] theorem sumValue_setSumen (d : Byte) (p : HostPort) : sumValue { p with sumen := d } = sumValue p :=
  sumValue_congr rfl rfl rfl

@[simp] theorem faultSummary_clearSum (d : Byte) (p : HostPort) :
    faultSummary (p.clearSum d) = faultSummary p := rfl

@[simp] theorem clearSum_sumen (d : Byte) (p : HostPort) : (p.clearSum d).sumen = p.sumen := rfl

/-- A cause still set after a write of SUM was set before, and is no direct cause that the write clears (R4). -/
theorem of_sumValue_clearSum {d : Byte} {p : HostPort} {i : Nat} (hi : i < 8)
    (h : (sumValue (p.clearSum d)).getLsbD i = true) :
    (sumValue p).getLsbD i = true ∧ ¬ (i < 4 ∧ d.getLsbD i = true) := by
  rw [sumValue_getLsbD _ hi, faultSummary_clearSum, Bool.or_eq_true] at h
  rw [sumValue_getLsbD _ hi, Bool.or_eq_true]
  rcases h with hdirect | hfault
  · simp only [HostPort.clearSum, BitVec.getLsbD_and, BitVec.getLsbD_not, Bool.and_eq_true,
      Bool.not_eq_true'] at hdirect
    obtain ⟨⟨hset, -, hkept⟩, -⟩ := hdirect
    exact ⟨.inl hset, fun hcleared => by simp [hkept] at hcleared⟩
  · have hbit : i = 4 := by simp at hfault; exact hfault.2
    exact ⟨.inr hfault, fun hcleared => by omega⟩

/-- A write of SUM that clears every cause that holds IRQ# low releases it. -/
theorem irqLow_clearSum_of_cleared {d : Byte} {p : HostPort}
    (h : ∀ i < 8, (sumValue p).getLsbD i = true → p.sumen.getLsbD i = true → i < 4 ∧ d.getLsbD i = true) :
    irqLow (p.clearSum d) = false := by
  rw [Bool.eq_false_iff, ne_eq, irqLow_iff]
  rintro ⟨i, hi, hsum, hen⟩
  rw [clearSum_sumen] at hen
  obtain ⟨hwas, hnot⟩ := of_sumValue_clearSum hi hsum
  exact hnot (h i hi hwas hen)

/-- After a write of SUMEN only the causes that the byte written selects hold IRQ# low (R5). -/
theorem irqLow_setSumen_iff (d : Byte) (p : HostPort) :
    irqLow { p with sumen := d &&& 0x1F } = true ↔
      ∃ i < 5, (sumValue p).getLsbD i = true ∧ d.getLsbD i = true := by
  rw [irqLow_iff, sumValue_setSumen]
  constructor
  · rintro ⟨i, hi, hsum, hen⟩
    rw [BitVec.getLsbD_and, enables_getLsbD i hi, Bool.and_eq_true, decide_eq_true_iff] at hen
    exact ⟨i, hen.2, hsum, hen.1⟩
  · rintro ⟨i, hi, hsum, hd⟩
    have hi8 : i < 8 := by omega
    refine ⟨i, hi8, hsum, ?_⟩
    rw [BitVec.getLsbD_and, enables_getLsbD i hi8, hd, Bool.true_and, decide_eq_true_iff]
    exact hi

/-- Settles O17: IRQ# bit by bit, and what the writes of SUM and of SUMEN make of its bits. -/
theorem irqFollowsEnabledCauses : Obligations.IrqFollowsEnabledCauses := by
  simp only [Obligations.IrqFollowsEnabledCauses, registerValue_sum, registerValue_sumen]
  refine ⟨irqLow_iff, fun s d h => ?_, fun s d h => ?_⟩
  · refine ⟨_, exec_sumWrite_of_ne_inReset d h, fun hcleared => ?_⟩
    rw [State.onPort_port]
    exact irqLow_clearSum_of_cleared (by simpa using hcleared)
  · refine ⟨_, exec_sumenWrite_of_ne_inReset d h, ?_⟩
    rw [State.onPort_port, irqLow_setSumen_iff, sumValue_driveData]

end Sys2Proof.Machine
end

/-! PROOFS. The classification ladder (R62 to R65), and the statement O29. -/

namespace Sys2Proof.Machine

/-! ### The gates a skip passes over

On a lane of n gates with gate e expected, a crossing of gate g passes over (g + n - e) % n gates, from e on. -/

theorem gatesPassed_of_le {n e g : Nat} (heg : e ≤ g) (hg : g < n) : (g + n - e) % n = g - e := by
  rw [Nat.sub_add_comm heg, Nat.add_mod_right, Nat.mod_eq_of_lt (by omega)]

theorem gatesPassed_of_lt {n e g : Nat} (hge : g < e) (he : e < n) : (g + n - e) % n = g + n - e :=
  Nat.mod_eq_of_lt (by omega)

/-- A crossing neither of the gate expected nor of the one before it passes over 1 to n - 2 gates (R65). -/
theorem gatesPassed_bounds {n e g : Nat} (he : e < n) (hg : g < n) (hne : g ≠ e) (hlast : g ≠ (e + n - 1) % n) :
    1 ≤ (g + n - e) % n ∧ (g + n - e) % n + 2 ≤ n := by
  obtain hge | heg := Nat.lt_or_gt_of_ne hne
  · have hbefore : (e + n - 1) % n = e - 1 := gatesPassed_of_le (by omega) he
    rw [gatesPassed_of_lt hge he]
    omega
  · have hpassed := gatesPassed_of_le heg.le hg
    obtain rfl | hpos := Nat.eq_zero_or_pos e
    · have hbefore : (0 + n - 1) % n = 0 + n - 1 := gatesPassed_of_lt Nat.one_pos (by omega)
      omega
    · omega

/-- The line is among the gates passed over where the crossing's gate lies past it and before the expected gate, or where
the expected gate is the line. -/
theorem linePassed_iff {n e g : Nat} (he : e < n) (hg : g < n) (hne : g ≠ e) :
    (∃ j, j < (g + n - e) % n ∧ (e + j) % n = 0) ↔ g ≠ 0 ∧ g < e ∨ e = 0 := by
  obtain hge | heg := Nat.lt_or_gt_of_ne hne
  · rw [gatesPassed_of_lt hge he]
    constructor
    · rintro ⟨j, hj, hline⟩
      refine .inl ⟨?_, hge⟩
      rintro rfl
      rw [Nat.mod_eq_of_lt (by omega)] at hline
      omega
    · intro _
      refine ⟨n - e, by omega, ?_⟩
      rw [Nat.add_sub_cancel' he.le, Nat.mod_self]
  · rw [gatesPassed_of_le heg.le hg]
    constructor
    · rintro ⟨j, hj, hline⟩
      rw [Nat.mod_eq_of_lt (by omega)] at hline
      omega
    · intro h
      obtain rfl : e = 0 := by omega
      exact ⟨0, by omega, Nat.zero_mod n⟩

/-! ### The rungs of the ladder -/

theorem isGhost_iff (minLap : Nat) (c : Crossing) (l : LapLane) :
    isGhost minLap c l = true ↔ c.gate.val = 0 ∧ interval l.lapStart c.stamp < 100 * minLap := by
  rw [isGhost, Bool.and_eq_true, decide_eq_true_iff, decide_eq_true_iff, Fin.ext_iff]
  rfl

section
variable {n tol minLap : Nat} {c : Crossing} {l : LapLane}

theorem ladder_of_ghost (hghost : isGhost minLap c l = true) : ladder n tol minLap c l = .ghost := by
  simp [ladder, hghost]

theorem ladder_of_expected (hghost : ¬ isGhost minLap c l = true) (hexp : c.gate.val = l.expected) :
    ladder n tol minLap c l = .inOrder := by
  simp [ladder, hghost, hexp]

theorem ladder_of_last (hghost : ¬ isGhost minLap c l = true) (hexp : c.gate.val ≠ l.expected)
    (hlast : c.gate.val = l.last) : ladder n tol minLap c l = .repeated := by
  rw [ladder, if_neg hghost, if_neg hexp, if_pos hlast]

/-- Below GHOST, IN ORDER and REPEAT, a skip over the line is a FAULT (R65). -/
theorem ladder_of_linePassed (hghost : ¬ isGhost minLap c l = true) (he : l.expected < n) (hg : c.gate.val < n)
    (hexp : c.gate.val ≠ l.expected) (hlast : c.gate.val ≠ l.last)
    (hline : ∃ j, j < (c.gate.val + n - l.expected) % n ∧ (l.expected + j) % n = 0) :
    ladder n tol minLap c l = .fault := by
  rw [ladder, if_neg hghost, if_neg hexp, if_neg hlast, if_pos ((linePassed_iff he hg hexp).mp hline)]

/-- A skip short of the line is judged by the call marker, the number of gates and the miss tolerance (R65). -/
theorem ladder_of_not_linePassed (hghost : ¬ isGhost minLap c l = true) (he : l.expected < n) (hg : c.gate.val < n)
    (hexp : c.gate.val ≠ l.expected) (hlast : c.gate.val ≠ l.last)
    (hline : ¬ ∃ j, j < (c.gate.val + n - l.expected) % n ∧ (l.expected + j) % n = 0) :
    ladder n tol minLap c l =
      if l.callMarker then .cut ((c.gate.val + n - l.expected) % n)
      else if (c.gate.val + n - l.expected) % n = 1 ∧ tol = 1 then .miss ((c.gate.val + n - l.expected) % n)
      else .fault := by
  rw [ladder, if_neg hghost, if_neg hexp, if_neg hlast, if_neg (mt (linePassed_iff he hg hexp).mpr hline)]

end

/-- Settles O29, rung by rung; a skip by whether the line is among the gates it passes over. -/
theorem ladderDecidesBySkippedGates : Obligations.LadderDecidesBySkippedGates := by
  intro n tol minLap c l _ _ he hg hbefore
  simp only [← isGhost_iff]
  refine ⟨ladder_of_ghost, ladder_of_expected, ladder_of_last, fun hghost hexp hlast => ?_⟩
  obtain ⟨hone, htwo⟩ := gatesPassed_bounds he hg hexp (hbefore ▸ hlast)
  have hshort := ladder_of_not_linePassed (tol := tol) hghost he hg hexp hlast
  refine ⟨hone, htwo, ladder_of_linePassed hghost he hg hexp hlast, fun hline hmark => ?_,
    fun hline hmark hk htol => ?_, fun hline hmark hkt => ?_⟩
  · rw [hshort hline, if_pos hmark]
  · rw [hshort hline, if_neg (by simp [hmark]), if_pos ⟨hk, htol⟩]
  · rw [hshort hline, if_neg (by simp [hmark]), if_neg (by omega)]

end Sys2Proof.Machine

/-! PROOFS. Work of the device that moves no gate: what every such work keeps (the queue of commands, the gates and the
geometry, the canonical form of record memory, the unused register bits, the sizes of the queues, the bytes of the host's
regions), said once for each operation. The invariants of the next files are read off it. -/

namespace Sys2Proof.Machine

open Config

/-! ### The relation -/

/-- A byte of a host region (R8). -/
def HostOwned (j : Nat) : Prop := j < 0x180 ∨ Within 0x1C0 0x40 j ∨ Within 0x1E00 0x200 j ∨ 0x6000 ≤ j

/-- So many bytes from an address that lie in the device's blocks: race status, the slip list to the racer tally, or the
lap books (section 1.3). -/
def DeviceOwned (a len : Nat) : Prop :=
  0x180 ≤ a ∧ a + len ≤ 0x1C0 ∨ 0x200 ≤ a ∧ a + len ≤ 0x1E00 ∨ 0x2000 ≤ a ∧ a + len ≤ 0x6000

/-- From s the device has come to t with no gate moved, by work that keeps every invariant of record memory, of the
registers and of the queues, and that writes to no host region. -/
structure Tame (s t : State) : Prop where
  pending : t.pending = s.pending
  phase : t.phase = s.phase
  gates : t.gates = s.gates
  geometry : t.laps.geometry = s.laps.geometry
  places : ∀ k, (t.lap k).expected = (s.lap k).expected ∧ (t.lap k).last = (s.lap k).last
  memory : MemorySound s → MemorySound t
  registers : RegistersSound s → RegistersSound t
  queues : QueuesSound s → QueuesSound t
  spared : s.port.turns = [] → t.port.turns = [] ∧ ∀ j, HostOwned j → readByte t j = readByte s j

theorem Tame.refl (s : State) : Tame s s :=
  ⟨rfl, rfl, rfl, rfl, fun _ => ⟨rfl, rfl⟩, id, id, id, fun h => ⟨h, fun _ _ => rfl⟩⟩

theorem Tame.trans {s t u : State} (h : Tame s t) (g : Tame t u) : Tame s u where
  pending := g.pending.trans h.pending
  phase := g.phase.trans h.phase
  gates := g.gates.trans h.gates
  geometry := g.geometry.trans h.geometry
  places k := ⟨(g.places k).1.trans (h.places k).1, (g.places k).2.trans (h.places k).2⟩
  memory := g.memory ∘ h.memory
  registers := g.registers ∘ h.registers
  queues := g.queues ∘ h.queues
  spared hq := by
    obtain ⟨ht, hb⟩ := h.spared hq
    obtain ⟨hu, hc⟩ := g.spared ht
    exact ⟨hu, fun j hj => (hc j hj).trans (hb j hj)⟩

/-- A host port changed within its ranges, with no host access given or left waiting. -/
structure PortTame (p q : HostPort) : Prop where
  sum : p.sum &&& 0xF0 = 0 → q.sum &&& 0xF0 = 0
  sumen : q.sumen = p.sumen
  flt : p.flt &&& 0xF0 = 0 → q.flt &&& 0xF0 = 0
  flten : q.flten = p.flten
  ctl : q.ctl = p.ctl
  queue : p.noticeQueue.length ≤ 8 → q.noticeQueue.length ≤ 8
  lost : p.noticeLost ≤ 65535 → q.noticeLost ≤ 65535
  turns : q.turns = p.turns

/-- A lane of the lap engine changed with its gates as they were and its lap book within its size. -/
structure LapTame (l m : LapLane) : Prop where
  expected : m.expected = l.expected
  last : m.last = l.last
  queue : l.bookQueue.length ≤ 4 → m.bookQueue.length ≤ 4
  lost : l.bookLost ≤ 65535 → m.bookLost ≤ 65535

/-- A lane of the penalty unit changed within its ranges. -/
structure PenTame (l m : PenLane) : Prop where
  queue : l.queue.length ≤ 8 → m.queue.length ≤ 8
  deducted : l.deducted ≤ 65535 → m.deducted ≤ 65535
  time : l.timePenalty ≤ 0xFFFFFFFF → m.timePenalty ≤ 0xFFFFFFFF

theorem PortTame.refl (p : HostPort) : PortTame p p := ⟨id, rfl, id, rfl, rfl, id, id, rfl⟩

theorem LapTame.refl (l : LapLane) : LapTame l l := ⟨rfl, rfl, id, id⟩

theorem PenTame.refl (l : PenLane) : PenTame l l := ⟨id, id, id⟩

/-! ### One block changed -/

section
variable {s t : State} (h : Tame s t)
include h

theorem Tame.onTime (f : Timebase → Timebase) : Tame s (t.onTime f) :=
  h.trans ⟨rfl, rfl, rfl, rfl, fun _ => ⟨rfl, rfl⟩, id, id, id, fun hq => ⟨hq, fun _ _ => rfl⟩⟩

theorem Tame.onRace (f : RaceControl → RaceControl) : Tame s (t.onRace f) :=
  h.trans ⟨rfl, rfl, rfl, rfl, fun _ => ⟨rfl, rfl⟩, id, id, id, fun hq => ⟨hq, fun _ _ => rfl⟩⟩

theorem Tame.onPower (f : LanePower → LanePower) : Tame s (t.onPower f) :=
  h.trans ⟨rfl, rfl, rfl, rfl, fun _ => ⟨rfl, rfl⟩, id, id, id, fun hq => ⟨hq, fun _ _ => rfl⟩⟩

theorem Tame.onPowerLane (k : Lane) (f : PowerLane → PowerLane) : Tame s (t.onPowerLane k f) := h.onPower _

theorem Tame.onStand (f : Standings → Standings) : Tame s (t.onStand f) :=
  h.trans ⟨rfl, rfl, rfl, rfl, fun _ => ⟨rfl, rfl⟩, id, id, id, fun hq => ⟨hq, fun _ _ => rfl⟩⟩

theorem Tame.onStandLane (k : Lane) (f : StandLane → StandLane) : Tame s (t.onStandLane k f) := h.onStand _

theorem Tame.onPort {f : HostPort → HostPort} (hf : PortTame t.port (f t.port)) : Tame s (t.onPort f) :=
  h.trans
    { pending := rfl, phase := rfl, gates := rfl, geometry := rfl, places := fun _ => ⟨rfl, rfl⟩, memory := id
      registers := fun ⟨hsum, hsumen, hflt, hflten, hctl⟩ =>
        ⟨hf.sum hsum, hf.sumen ▸ hsumen, hf.flt hflt, hf.flten ▸ hflten, hf.ctl ▸ hctl⟩
      queues := fun ⟨hgates, hqueue, hlost, hlanes⟩ => ⟨hgates, hf.queue hqueue, hf.lost hlost, hlanes⟩
      spared := fun hq => ⟨hf.turns.trans hq, fun _ _ => rfl⟩ }

theorem Tame.onLaps {f : LapEngine → LapEngine} (hg : (f t.laps).geometry = t.laps.geometry)
    (hf : ∀ k, LapTame (t.lap k) (pick (f t.laps).lanes k)) : Tame s (t.onLaps f) :=
  h.trans
    { pending := rfl, phase := rfl, gates := rfl, geometry := hg
      places := fun k => ⟨(hf k).expected, (hf k).last⟩, memory := id, registers := id
      queues := fun ⟨hgates, hqueue, hlost, hlanes⟩ => ⟨hgates, hqueue, hlost, fun k => by
        obtain ⟨hbook, hbookLost, hpen⟩ := hlanes k
        exact ⟨(hf k).queue hbook, (hf k).lost hbookLost, hpen⟩⟩
      spared := fun hq => ⟨hq, fun _ _ => rfl⟩ }

theorem Tame.onLapLane {k : Lane} {f : LapLane → LapLane} (hf : LapTame (t.lap k) (f (t.lap k))) :
    Tame s (t.onLapLane k f) :=
  h.onLaps rfl fun j => by
    by_cases hj : j = k
    · subst hj
      simpa [State.lap] using hf
    · simpa only [pick_amend_ne _ _ hj] using ⟨rfl, rfl, id, id⟩

theorem Tame.onPen {f : PenaltyUnit → PenaltyUnit} (hf : ∀ k, PenTame (t.penLane k) (pick (f t.pen).lanes k)) :
    Tame s (t.onPen f) :=
  h.trans
    { pending := rfl, phase := rfl, gates := rfl, geometry := rfl, places := fun _ => ⟨rfl, rfl⟩, memory := id
      registers := id
      queues := fun ⟨hgates, hqueue, hlost, hlanes⟩ => ⟨hgates, hqueue, hlost, fun k => by
        obtain ⟨hbook, hbookLost, hpen, hdeducted, htime⟩ := hlanes k
        exact ⟨hbook, hbookLost, (hf k).queue hpen, (hf k).deducted hdeducted, (hf k).time htime⟩⟩
      spared := fun hq => ⟨hq, fun _ _ => rfl⟩ }

theorem Tame.onPenLane {k : Lane} {f : PenLane → PenLane} (hf : PenTame (t.penLane k) (f (t.penLane k))) :
    Tame s (t.onPenLane k f) :=
  h.onPen fun j => by
    by_cases hj : j = k
    · subst hj
      simpa [State.penLane] using hf
    · simpa only [pick_amend_ne _ _ hj] using ⟨id, id, id⟩

end

theorem or_and_eq_zero {x b m : Byte} (hx : x &&& m = 0) (hb : b &&& m = 0) : (x ||| b) &&& m = 0 := by
  rw [BitVec.and_or_distrib_right, hx, hb]
  rfl

theorem PortTame.setFlt (p : HostPort) {c : Byte} (hc : c &&& 0xF0 = 0) : PortTame p (p.setFlt c) :=
  { PortTame.refl p with flt := fun hf => or_and_eq_zero hf hc }

/-! ### Record memory and the arbiter (R2) -/

/-- Work on record memory alone: it keeps every block but memory, and of the port all but the turns and the data pins. -/
structure BytesOnly (t u : State) : Prop where
  pending : u.pending = t.pending
  phase : u.phase = t.phase
  gates : u.gates = t.gates
  laps : u.laps = t.laps
  pen : u.pen = t.pen
  sum : u.port.sum = t.port.sum
  sumen : u.port.sumen = t.port.sumen
  flt : u.port.flt = t.port.flt
  flten : u.port.flten = t.port.flten
  ctl : u.port.ctl = t.port.ctl
  queue : u.port.noticeQueue = t.port.noticeQueue
  lost : u.port.noticeLost = t.port.noticeLost

theorem BytesOnly.tame {t u : State} (h : BytesOnly t u) (hm : MemorySound t → MemorySound u)
    (hs : t.port.turns = [] → u.port.turns = [] ∧ ∀ j, HostOwned j → readByte u j = readByte t j) : Tame t u where
  pending := h.pending
  phase := h.phase
  gates := h.gates
  geometry := by rw [h.laps]
  places k := by simp only [State.lap, h.laps, and_self]
  memory := hm
  registers := by
    simp only [RegistersSound, h.sum, h.sumen, h.flt, h.flten, h.ctl]
    exact id
  queues := by
    simp only [QueuesSound, State.lap, State.penLane, h.gates, h.laps, h.pen, h.queue, h.lost]
    exact id
  spared := hs

section
variable {s t : State} (h : Tame s t)
include h

theorem giveWay_tame : Tame s (giveWay t) :=
  h.trans <| BytesOnly.tame (by constructor <;> simp) (giveWay_wf t) fun hq => by
    rw [giveWay_idle t hq]
    exact ⟨hq, fun _ _ => rfl⟩

theorem landAll_tame : Tame s (landAll t) :=
  h.trans <| BytesOnly.tame (by constructor <;> simp) (landAll_wf t) fun hq => by
    rw [landAll_idle t hq]
    exact ⟨hq, fun _ _ => rfl⟩

theorem deviceRead_tame (a : Nat) : Tame s (deviceRead a t).1 := giveWay_tame h

theorem recheck_tame (a : Nat) (mask expect : Byte) : Tame s (recheck a mask expect t).1 := giveWay_tame h

theorem gather_tame (addrs : List Nat) : Tame s (gather addrs t).state :=
  h.trans <| BytesOnly.tame (by constructor <;> simp) (gather_wf addrs t) fun hq => by
    rw [gather_idle t hq]
    exact ⟨hq, fun _ _ => rfl⟩

theorem deviceWrite_tame {a : Nat} {bs : List Byte} (ha : DeviceOwned a bs.length) : Tame s (deviceWrite a bs t) :=
  h.trans <| BytesOnly.tame (by constructor <;> simp) (deviceWrite_wf a bs t) fun hq => by
    rw [deviceWrite_idle t hq]
    refine ⟨hq, fun j hj => readByte_writeBytes_outside _ _ _ _ ?_⟩
    simp only [HostOwned, Within, DeviceOwned] at hj ha
    omega

theorem foldl_deviceWrite_tame {fields : List (Nat × List Byte)} (hf : ∀ f ∈ fields, DeviceOwned f.1 f.2.length) :
    Tame s (fields.foldl (fun t f => deviceWrite f.1 f.2 t) t) := by
  induction fields generalizing t with
  | nil => exact h
  | cons f fs ih =>
    exact ih (deviceWrite_tame h (hf f List.mem_cons_self)) fun g hg => hf g (List.mem_cons_of_mem f hg)

theorem updateBlock_tame {c : Nat} {fields : List (Nat × List Byte)} (hc : DeviceOwned c 1)
    (hf : ∀ f ∈ fields, DeviceOwned f.1 f.2.length) : Tame s (updateBlock c fields t) :=
  deviceWrite_tame (foldl_deviceWrite_tame (deviceWrite_tame (deviceRead_tame h c) hc) hf) hc

end

end Sys2Proof.Machine

/-! PROOFS. Notices, the clocks, lane power, standings, the racer tally and the penalty unit move no gate. -/

namespace Sys2Proof.Machine

open Config

section
variable {s t : State} (h : Tame s t)
include h

/-! ### Notices -/

theorem noticeEntryEmpty_tame : Tame s (noticeEntryEmpty t).1 := recheck_tame h _ _ _

theorem writeNotice_tame (n : HeldNotice) : Tame s (writeNotice n t).1 := by
  have hb := noticeAddr_bounds t.port.noticeCursor
  have hl : ∀ z, (noticeBytes n z).length = 15 := noticeBytes_length n
  have checked := recheck_tame (deviceWrite_tame h (a := noticeAddr t.port.noticeCursor + 1)
    (bs := noticeBytes n (t.port.noticeSerial + 1)) (by simp only [DeviceOwned, hl]; omega))
    (noticeAddr t.port.noticeCursor) 0x0F 1
  unfold writeNotice
  dsimp only
  split
  · dsimp only
    refine Tame.onPort (deviceWrite_tame checked ?_) ?_
    · simp only [DeviceOwned, List.length_singleton]
      omega
    · exact { PortTame.refl _ with sum := fun hs => or_and_eq_zero hs (by decide) }
  · exact checked

theorem acceptNotice_tame (n : Notice) : Tame s (acceptNotice n t).1 := by
  unfold acceptNotice
  dsimp only
  refine Tame.onPort h ?_
  exact { PortTame.refl _ with lost := fun hl => by dsimp only; omega }

theorem holdNotice_tame (n : HeldNotice) (hq : t.port.noticeQueue.length < 8) : Tame s (holdNotice n t) := by
  refine h.onPort ?_
  exact { PortTame.refl _ with queue := fun _ => by simp only [List.length_append, List.length_singleton]; omega }

end

/-- A notice written leaves the hold queue as it is. -/
theorem writeNotice_noticeQueue (n : HeldNotice) (s : State) :
    (writeNotice n s).1.port.noticeQueue = s.port.noticeQueue := by
  unfold writeNotice
  dsimp only
  split <;> simp

theorem retryHeld_tame {s t : State} {q : List HeldNotice} (h : Tame s t) (hq : t.port.noticeQueue = q) :
    Tame s (retryHeld q t) := by
  induction q generalizing t with
  | nil => exact h
  | cons n rest ih =>
    have empty := noticeEntryEmpty_tame h
    have written := writeNotice_tame empty n
    have queue : (writeNotice n (noticeEntryEmpty t).1).1.port.noticeQueue = n :: rest := by
      rw [writeNotice_noticeQueue]
      simpa using hq
    unfold retryHeld
    dsimp only
    split
    · split
      · refine ih (written.onPort { PortTame.refl _ with queue := fun hl => ?_ }) rfl
        rw [queue, List.length_cons] at hl
        dsimp only
        omega
      · exact written
    · exact empty

section
variable {s t : State} (h : Tame s t)
include h

theorem retryNotices_tame : Tame s (retryNotices t) := retryHeld_tame h rfl

theorem deliver_tame (n : Notice) : Tame s (deliver n t) := by
  have retried := retryNotices_tame h
  unfold deliver
  dsimp only
  split
  next hq =>
    have accepted := acceptNotice_tame retried n
    have queue : (acceptNotice n (retryNotices t)).1.port.noticeQueue.length < 8 := by simp [acceptNotice, hq]
    have empty := noticeEntryEmpty_tame accepted
    split
    · split
      · exact writeNotice_tame empty _
      · exact holdNotice_tame (writeNotice_tame empty _) _ (by rw [writeNotice_noticeQueue]; simpa using queue)
    · exact holdNotice_tame empty _ (by simpa using queue)
  next hq =>
    split
    next hlen =>
      exact holdNotice_tame (acceptNotice_tame retried n) _ hlen
    · refine retried.onPort ?_
      exact { PortTame.refl _ with
        flt := fun hf => or_and_eq_zero hf (by decide), lost := fun _ => by dsimp only [raise]; omega }

theorem penNotice_tame (kind : NoticeKind) (sub : Nat) (k : Lane) (x : Stamp) (a b : Nat) :
    Tame s (penNotice kind sub k x a b t) := deliver_tame h _

theorem heatNotice_tame (sub : Nat) (label : Byte) (x : Stamp) (b : Nat) : Tame s (heatNotice sub label x b t) :=
  deliver_tame h _

theorem resumeNotice_tame (sub : Nat) (x : Stamp) (b : Nat) : Tame s (resumeNotice sub x b t) := deliver_tame h _

theorem clockNotice_tame (sub a b : Nat) : Tame s (clockNotice sub a b t) := deliver_tame h _

theorem anomaly_tame (sub : Nat) (c : Crossing) (a b : Nat) : Tame s (anomaly sub c a b t) := deliver_tame h _

theorem runoutNotice_tame (cause : Nat) (by_ : Option Lane) (x : Stamp) : Tame s (runoutNotice cause by_ x t) := by
  cases by_ <;> exact deliver_tame h _

theorem callNotice_tame (o : CallOrigin) (outcome : Nat) (c : Stamp) : Tame s (callNotice o outcome c t) := by
  unfold callNotice
  cases o.lane <;> exact deliver_tame h _

theorem gateNotice_tame (sub : Nat) (n : GateIn) (x : Stamp) (b : Nat) : Tame s (gateNotice sub n x b t) := by
  unfold gateNotice
  split
  · exact h
  · exact deliver_tame h _

/-! ### Clocks and race changes handed on -/

theorem stopRacing_tame (x : Stamp) : Tame s (stopRacing x t) := h.onTime _
theorem startRacing_tame (x : Stamp) : Tame s (startRacing x t) := h.onTime _
theorem timeIdle_tame (x : Stamp) : Tame s (timeIdle x t) := (stopRacing_tame h x).onTime _

theorem handChange_tame (kind : ChangeKind) (x : Stamp) : Tame s (handChange kind x t) :=
  h.onLaps rfl fun _ => ⟨rfl, rfl, id, id⟩

/-! ### Lane power -/

theorem evalLane_tame (x : Stamp) (k : Lane) : Tame s (evalLane x k t) := by
  unfold evalLane
  dsimp only
  split
  · split <;> exact h.onPowerLane k _
  · exact h.onPowerLane k _

theorem evalAll_tame (x : Stamp) : Tame s (evalAll x t) := by
  have each : ∀ (ks : List Lane) {t : State}, Tame s t → Tame s (ks.foldl (fun s k => evalLane x k s) t) := by
    intro ks
    induction ks with
    | nil => exact id
    | cons k ks ih => exact fun h => ih (evalLane_tame h x k)
  exact each _ h

theorem powerRace_tame (r : RaceState) (x : Stamp) : Tame s (powerRace r x t) := evalAll_tame (h.onPower _) x
theorem powerStaging_tame (p : HeatSnapshot) (x : Stamp) : Tame s (powerStaging p x t) :=
  powerRace_tame (h.onPower _) _ x
theorem powerIdle_tame (x : Stamp) : Tame s (powerIdle x t) := powerRace_tame (h.onPower _) _ x
theorem powerServing_tame (k : Lane) (kind : Option ServiceKind) (duty : Nat) (x : Stamp) :
    Tame s (powerServing k kind duty x t) := evalLane_tame (h.onPowerLane k _) x k
theorem powerFinished_tame (k : Lane) (x : Stamp) : Tame s (powerFinished k x t) :=
  evalLane_tame (h.onPowerLane k _) x k

/-! ### Standings and the racer tally -/

theorem setOrder_tame (order : List Lane) : Tame s (setOrder order t) := h.onStand _
theorem resort_tame : Tame s (resort t) := setOrder_tame h _
theorem standStaging_tame (p : HeatSnapshot) : Tame s (standStaging p t) := setOrder_tame (h.onStand _) _

theorem standCut_tame (k : Lane) (byRetire : Bool) (c : CutData) : Tame s (standCut k byRetire c t) := by
  cases byRetire
  · exact h.onStandLane k _
  · exact resort_tame (h.onStandLane k _)

theorem standFinish_tame (k : Lane) (afterCut : Bool) : Tame s (standFinish k afterCut t) := by
  unfold standFinish
  split
  · exact h
  · exact h.onStandLane k _

end

theorem tallyAddr_bounds (i : Fin 64) : 0x1600 ≤ tallyAddr i ∧ tallyAddr i + 32 ≤ 0x1E00 := by
  unfold tallyAddr tallyBase
  omega

section
variable {s t : State} (h : Tame s t)
include h

theorem writeTallyZero_tame (state racer : Byte) (i : Fin 64) : Tame s (writeTallyZero state racer i t) := by
  have hb := tallyAddr_bounds i
  refine updateBlock_tame h (by simp only [DeviceOwned]; omega) fun f hf => ?_
  simp only [List.mem_cons, List.not_mem_nil, or_false] at hf
  obtain rfl | rfl | rfl | rfl := hf <;>
    simp only [DeviceOwned, List.length_singleton, List.length_replicate] <;> omega

theorem foldTarget_tame (racer : Byte) : Tame s (foldTarget racer t).2 := by
  have read := gather_tame h tallyHeads
  unfold foldTarget
  dsimp only
  split
  · exact read
  · split
    · exact writeTallyZero_tame read _ _ _
    · exact read

theorem foldLane_tame (label : Byte) (k : Lane) : Tame s (foldLane label t k) := by
  have target := foldTarget_tame h (pick t.stand.racers k)
  unfold foldLane
  dsimp only
  split
  · exact h
  · split
    next heq => rwa [heq] at target
    next i u heq =>
      rw [heq] at target
      have hb := tallyAddr_bounds i
      refine updateBlock_tame (gather_tame target _) (by simp only [DeviceOwned]; omega) fun f hf => ?_
      simp only [List.mem_cons, List.not_mem_nil, or_false] at hf
      obtain rfl | rfl := hf
      · simp only [DeviceOwned, bytesOf_length]
        omega
      · simp only [DeviceOwned, List.length_append, bytesOf_length]
        split <;> simp only [List.length_append, List.length_singleton, bytesOf_length] <;> omega

theorem foldTally_tame (label : Byte) : Tame s (foldTally label t) := by
  have each : ∀ (ks : List Lane) {t : State}, Tame s t → Tame s (ks.foldl (foldLane label) t) := by
    intro ks
    induction ks with
    | nil => exact id
    | cons k ks ih => exact fun h => ih (foldLane_tame h label k)
  exact each _ h

/-! ### The penalty unit -/

theorem penStaging_tame (p : HeatSnapshot) : Tame s (penStaging p t) := by
  unfold penStaging
  refine (gather_tame h penaltyBytes).onPen fun k => ?_
  exact { queue := fun _ => by simp [PenLane.reset], deducted := fun _ => by simp [PenLane.reset]
          time := fun _ => by simp [PenLane.reset] }

theorem penIdle_tame : Tame s (penIdle t) := h.onPen fun _ => ⟨id, id, id⟩

theorem actAtOnce_tame (r : Response) (k : Lane) (amount : Nat) : Tame s (actAtOnce r k amount t) := by
  unfold actAtOnce
  split
  · exact resort_tame (h.onPenLane { PenTame.refl _ with deducted := fun _ => by dsimp only [raise]; omega })
  · exact h.onPenLane { PenTame.refl _ with time := fun _ => by dsimp only [raise]; omega }
  · exact h

theorem convert_tame (k : Lane) (e : PenEntry) (x : Stamp) : Tame s (convert k e x t) :=
  actAtOnce_tame (penNotice_tame h _ _ _ _ _ _) _ _ _

theorem enqueuePenalty_tame (k : Lane) (e : PenEntry) : Tame s (enqueuePenalty k e t) := by
  unfold enqueuePenalty
  split
  · exact convert_tame h k e _
  next hfull =>
    have room : (t.penLane k).queue.length < 8 := Nat.lt_of_not_le fun hle => hfull (by simp [pendingHold, hle])
    exact h.onPenLane { PenTame.refl _ with queue := fun _ => by simpa using room }

theorem issue_tame (tr : Fin 8) (k : Lane) (x : Stamp) (r : Response) (amount duty warning : Nat) :
    Tame s (issue tr k x r amount duty warning t) := by
  have noted := fun sub a b => penNotice_tame (h.onPen (f := fun p => { p with serial := nextSerial t.pen })
    fun _ => ⟨id, id, id⟩) .penalty sub k x a b
  unfold issue
  dsimp only
  split
  · exact enqueuePenalty_tame (noted _ _ _) k _
  · exact enqueuePenalty_tame (noted _ _ _) k _
  · exact actAtOnce_tame (noted _ _ _) _ k _

theorem trigger_tame (tr : Fin 8) (k : Lane) (x : Stamp) : Tame s (trigger tr k x t) := by
  unfold trigger
  split
  · exact h
  · dsimp only
    split
    · exact h
    · split
      · exact issue_tame (h.onPenLane ⟨id, id, id⟩) _ _ _ _ _ _ _
      · exact issue_tame (h.onPenLane ⟨id, id, id⟩) _ _ _ _ _ _ _
    · exact issue_tame h _ _ _ _ _ _ _

theorem lapHaltBegins_tame (k : Lane) : Tame s (lapHaltBegins k t) := h.onLapLane ⟨rfl, rfl, id, id⟩
theorem lapHaltEnds_tame (k : Lane) : Tame s (lapHaltEnds k t) := h.onLapLane ⟨rfl, rfl, id, id⟩

theorem dropServing_tame (k : Lane) (x : Stamp) : Tame s (dropServing k x t) := by
  have none := h.onPenLane (k := k) (f := fun l => { l with serving := none }) ⟨id, id, id⟩
  unfold dropServing
  split
  · exact h
  · dsimp only
    split
    · exact powerServing_tame (lapHaltEnds_tame none k) k _ _ x
    · exact powerServing_tame none k _ _ x

theorem endService_tame (k : Lane) (x : Stamp) (sub remaining : Nat) : Tame s (endService k x sub remaining t) := by
  unfold endService
  split
  · exact h
  · exact penNotice_tame (dropServing_tame h k x) _ _ _ _ _ _

theorem beginService_tame (k : Lane) (x : Stamp) : Tame s (beginService k x t) := by
  unfold beginService
  split
  · exact h
  next e _ =>
    have begun := h.onPenLane (k := k) (f := fun l => { l with
      queue := l.queue.erase e, serving := some e, serveStamp := x, pushMark := false })
      { PenTame.refl _ with queue := fun hq => Nat.le_trans (List.length_erase_le ..) hq }
    dsimp only
    split
    · exact penNotice_tame (powerServing_tame (lapHaltBegins_tame (begun.onPenLane ⟨id, id, id⟩) k) _ _ _ _) _ _ _ _ _ _
    · exact penNotice_tame (powerServing_tame (begun.onPenLane ⟨id, id, id⟩) _ _ _ _) _ _ _ _ _ _

theorem pushCheck_tame (k : Lane) (y : Stamp) (view : RaceView) : Tame s (pushCheck k y view t) := by
  unfold pushCheck
  dsimp only
  split
  · exact trigger_tame (h.onPenLane ⟨id, id, id⟩) _ _ _
  · exact h

theorem advanceCap_tame (k : Lane) (x : Stamp) : Tame s (advanceCap k x t) := by
  unfold advanceCap
  dsimp only
  split
  · exact endService_tame (h.onPenLane ⟨id, id, id⟩) _ _ _ _
  · exact h.onPenLane ⟨id, id, id⟩

theorem penAcceptedLine_tame (k : Lane) (x : Stamp) (completion finishing : Bool) (view : RaceView) :
    Tame s (penAcceptedLine k x completion finishing view t) := by
  have pushed := pushCheck_tame h k x view
  have advanced : Tame s (if servingCap (pushCheck k x view t) k && completion then
      advanceCap k x (pushCheck k x view t) else pushCheck k x view t) := by
    split
    · exact advanceCap_tame pushed k x
    · exact pushed
  unfold penAcceptedLine
  extract_lets served pushed' advanced'
  split
  · exact beginService_tame advanced k x
  · exact advanced

end

theorem convert_penQueue (k j : Lane) (e : PenEntry) (x : Stamp) (s : State) :
    ((convert k e x s).penLane j).queue = (s.penLane j).queue := by
  have act : ∀ (r : Response) (n : Nat) (t : State), ((actAtOnce r k n t).penLane j).queue = (t.penLane j).queue := by
    intro r n t
    unfold actAtOnce
    split
    · show ((t.onPenLane k _).penLane j).queue = _
      rw [State.onPenLane_penLane]
      split <;> rfl
    · rw [State.onPenLane_penLane]
      split <;> rfl
    · rfl
  unfold convert
  dsimp only
  rw [act]
  simp [State.penLane]

theorem convertAll_tame {s t : State} {q : List PenEntry} (h : Tame s t) (k : Lane) (x : Stamp)
    (hq : (t.penLane k).queue = q) : Tame s (convertAll k x q t) := by
  induction q generalizing t with
  | nil => exact h
  | cons e rest ih =>
    refine ih (convert_tame (h.onPenLane { PenTame.refl _ with queue := fun hl => ?_ }) k e x) ?_
    · rw [hq, List.length_cons] at hl
      dsimp only
      omega
    · rw [convert_penQueue, State.onPenLane_penLane_same]

section
variable {s t : State} (h : Tame s t)
include h

theorem penFinish_tame (k : Lane) (x : Stamp) : Tame s (penFinish k x t) := by
  unfold penFinish
  split
  · exact h
  · exact convertAll_tame (endService_tame (h.onPenLane ⟨id, id, id⟩) _ _ _ _) k x rfl

theorem penAbortFinish_tame (k : Lane) (x : Stamp) : Tame s (penAbortFinish k x t) :=
  (dropServing_tame (h.onPenLane ⟨id, id, id⟩) k x).onPenLane { PenTame.refl _ with queue := fun _ => by simp }

end

end Sys2Proof.Machine

/-! PROOFS. Lap books, staging, the end of a heat, calls, lap assembly and the refresh move no gate. -/

namespace Sys2Proof.Machine

open Config

/-! ### Where the blocks lie, and how long the status fields are -/

theorem entryAddr_bounds (i : Fin 32) : 0x400 ≤ entryAddr i ∧ entryAddr i + 64 ≤ 0xC00 := by
  unfold entryAddr cardBase
  omega

theorem servingBytes_length (l : PenLane) : (servingBytes l).length = 3 := by
  unfold servingBytes
  split <;> simp

theorem stampBytes_length (x : Stamp) : (stampBytes x).length = 5 := bytesOf_length _ _

theorem splitsBytes_length (x : Splits) : (splitsBytes x).length = 9 := by
  simp only [splitsBytes, splitBytes, List.length_append, bytesOf_length]

theorem laneStatusBytes_length (s : State) (k : Lane) : (laneStatusBytes s k).length = 59 := by
  unfold laneStatusBytes
  simp only [List.length_append, List.length_cons, List.length_nil, bytesOf_length, stampBytes_length,
    splitsBytes_length, servingBytes_length]

theorem raceStatusBytes_length (s : State) : (raceStatusBytes s).length = 28 := by
  simp only [raceStatusBytes, List.length_append, List.length_cons, List.length_nil, bytesOf_length]

/-! ### Staging, up to its notice -/

/-- A heat staged (R106), before an AUTO heat with a gap of 0 enters its countdown (R108). -/
def stageHeat (h : HeatSnapshot) (fresh : List (Byte × Fin 64)) (x : Stamp) (s : State) : State :=
  let s := s.onRace fun r => { r with
    snapshot := some h, state := .staged, stagedStamp := x, finishedSet := Vector.replicate 8 false,
    runoutDeadline := none, runoutWait := false }
  let s := (handChange (.staging h.label h.gridOn h.minLap h.racers) x (createTally fresh s)).onTime fun t => { t with
    racingTicks := 0 }
  let s := (powerStaging h x (standStaging h (penStaging h s))).onRace fun r => { r with
    callCount := 0, callsUsed := Vector.replicate 8 0, lastCallSource := none, lastCallWho := 0 }
  heatNotice 1 h.label x h.occupied.length s

theorem stage_eq (h : HeatSnapshot) (fresh : List (Byte × Fin 64)) (x : Stamp) (s : State) :
    stage h fresh x s =
      if !h.startHeld && decide (h.gap = 0) then enterCountdown x (stageHeat h fresh x s) else stageHeat h fresh x s :=
  rfl

/-- A lost lap record counted (R99). -/
theorem LapTame.countLost (l : LapLane) : LapTame l { l with bookLost := raise 65535 l.bookLost 1 } :=
  ⟨rfl, rfl, id, fun _ => by dsimp only [raise]; omega⟩

section
variable {s t : State} (h : Tame s t)
include h

/-! ### Lap books -/

theorem pageOpen_tame (k : Lane) : Tame s (pageOpen k t).1 := recheck_tame h _ _ _

theorem writePage_tame (k : Lane) (l : HeldLap) : Tame s (writePage k l t).1 := by
  have hb := pageAddr_bounds k (t.lap k).pageCursor
  have checked := recheck_tame (deviceWrite_tame h (a := pageAddr k (t.lap k).pageCursor + 1) (bs := lapBytes l)
    (by simp only [DeviceOwned, lapBytes_length]; omega)) (pageAddr k (t.lap k).pageCursor) 0xFF 1
  unfold writePage
  dsimp only
  split
  · dsimp only
    refine Tame.onPort (Tame.onLapLane (deviceWrite_tame checked ?_) ⟨rfl, rfl, id, id⟩) ?_
    · simp only [DeviceOwned, List.length_singleton]
      omega
    · exact { PortTame.refl _ with sum := fun hs => or_and_eq_zero hs (by decide) }
  · exact checked

theorem acceptLap_tame (k : Lane) (r : LapRecord) : Tame s (acceptLap k r t).1 := by
  unfold acceptLap
  dsimp only
  refine Tame.onLapLane h ?_
  exact { LapTame.refl _ with lost := fun hl => by dsimp only; omega }

theorem holdLap_tame (k : Lane) (l : HeldLap) (hq : (t.lap k).bookQueue.length < 4) : Tame s (holdLap k l t) := by
  refine Tame.onLapLane h ?_
  exact { LapTame.refl _ with queue := fun _ => by simpa using hq }

end

/-- A page written leaves the hold queue of its book as it is. -/
theorem writePage_bookQueue (k : Lane) (l : HeldLap) (s : State) :
    ((writePage k l s).1.lap k).bookQueue = (s.lap k).bookQueue := by
  unfold writePage
  dsimp only
  split
  · simp only [State.onPort_lap, State.onLapLane_lap_same]
    simp [State.lap]
  · simp [State.lap]

theorem retryLaps_tame {s t : State} {q : List HeldLap} (h : Tame s t) (k : Lane) (hq : (t.lap k).bookQueue = q) :
    Tame s (retryLaps k q t) := by
  induction q generalizing t with
  | nil => exact h
  | cons l rest ih =>
    have empty := pageOpen_tame h k
    have written := writePage_tame empty k l
    have queue : ((writePage k l (pageOpen k t).1).1.lap k).bookQueue = l :: rest := by
      rw [writePage_bookQueue]
      simpa [State.lap] using hq
    unfold retryLaps
    dsimp only
    split
    · split
      · refine ih (written.onLapLane { LapTame.refl _ with queue := fun hl => ?_ }) (by simp)
        rw [queue, List.length_cons] at hl
        dsimp only
        omega
      · exact written
    · exact empty

section
variable {s t : State} (h : Tame s t)
include h

theorem retryBook_tame (k : Lane) : Tame s (retryBook k t) := retryLaps_tame h k rfl

theorem retryBooks_tame : Tame s (retryBooks t) := by
  have each : ∀ (ks : List Lane) {t : State}, Tame s t → Tame s (ks.foldl (fun s k => retryBook k s) t) := by
    intro ks
    induction ks with
    | nil => exact id
    | cons k ks ih => exact fun h => ih (retryBook_tame h k)
  exact each _ h

theorem arriveLap_tame (k : Lane) (r : LapRecord) : Tame s (arriveLap k r t) := by
  have retried := retryBooks_tame h
  unfold arriveLap
  dsimp only
  split
  next hq =>
    have accepted := acceptLap_tame retried k r
    have queue : ((acceptLap k r (retryBooks t)).1.lap k).bookQueue.length < 4 := by simp [acceptLap, hq]
    have empty := pageOpen_tame accepted k
    split
    · split
      · exact writePage_tame empty _ _
      · exact holdLap_tame (writePage_tame empty _ _) _ _ (by
          rw [writePage_bookQueue]
          simpa [State.lap] using queue)
    · exact holdLap_tame empty _ _ (by simpa [State.lap] using queue)
  next hq =>
    split
    next hlen => exact holdLap_tame (acceptLap_tame retried k r) _ _ (by simpa [acceptLap, lapHold] using hlen)
    · refine Tame.onPort (Tame.onLapLane retried ?_) ?_
      · exact LapTame.countLost _
      · exact PortTame.setFlt _ (by decide)

theorem markServices_tame (k : Lane) : Tame s (markServices k t) := h.onLapLane ⟨rfl, rfl, id, id⟩

theorem countDiscard_tame (k : Lane) : Tame s (t.onLapLane k countDiscard) := by
  refine h.onLapLane ?_
  unfold countDiscard
  split <;> exact ⟨rfl, rfl, id, id⟩

/-! ### Race control -/

theorem setLamps_tame (v : BitVec 7) : Tame s (setLamps v t) := h.onRace _

theorem writeEntry_tame (i : Fin 32) (n : Nat) (bs : List Byte) (hn : n + bs.length ≤ 64) :
    Tame s (deviceWrite (entryAddr i + n) bs t) := by
  have hb := entryAddr_bounds i
  exact deviceWrite_tame h (by simp only [DeviceOwned]; omega)

theorem refuseEntry_tame (reason : Nat) (label : Byte) : Tame s (refuseEntry reason label t) := by
  have checked := recheck_tame (writeEntry_tame h t.race.cardCursor 7 [BitVec.ofNat 8 reason] (by simp))
    (entryAddr t.race.cardCursor) 0xFF 1
  unfold refuseEntry
  dsimp only
  split
  · exact heatNotice_tame (writeEntry_tame checked _ 0 _ (by simp)) _ _ _ _
  · exact checked

theorem createTally_tame (entries : List (Byte × Fin 64)) : Tame s (createTally entries t) := by
  have each : ∀ (es : List (Byte × Fin 64)) {t : State}, Tame s t → Tame s (es.foldl createEntry t) := by
    intro es
    induction es with
    | nil => exact id
    | cons e es ih => exact fun h => ih (writeTallyZero_tame h _ _ _)
  exact each _ h

theorem enterCountdown_tame (e : Stamp) : Tame s (enterCountdown e t) := by
  unfold enterCountdown
  exact (heatNotice_tame (setLamps_tame (powerRace_tame (handChange_tame (h.onRace _) _ _) _ _) _) _ _ _ _).onRace _

theorem enterGreen_tame (g : Stamp) : Tame s (enterGreen g t) :=
  heatNotice_tame ((powerRace_tame (startRacing_tame (handChange_tame (setLamps_tame (h.onRace _) _) _ _) _) _ _).onRace
    _) _ _ _ _

theorem jumpOnce_tame (k : Lane) (x : Stamp) : Tame s (jumpOnce k x t) := by
  unfold jumpOnce
  split
  · exact h
  · exact trigger_tame (h.onRace _) _ _ _

theorem jumpCrossing_tame (k : Lane) (x : Stamp) : Tame s (jumpCrossing k x t) := by
  unfold jumpCrossing
  split
  · exact h
  · split
    · split
      · exact trigger_tame h _ _ _
      · exact jumpOnce_tame h _ _
    · exact jumpOnce_tame h _ _

theorem stageHeat_tame (p : HeatSnapshot) (fresh : List (Byte × Fin 64)) (x : Stamp) :
    Tame s (stageHeat p fresh x t) := by
  unfold stageHeat
  exact heatNotice_tame (Tame.onRace (powerStaging_tame (standStaging_tame (penStaging_tame (Tame.onTime (handChange_tame
    (createTally_tame (h.onRace _) fresh) _ _) _) p) p) p x) _) _ _ _ _

theorem stage_tame (p : HeatSnapshot) (fresh : List (Byte × Fin 64)) (x : Stamp) : Tame s (stage p fresh x t) := by
  have staged := stageHeat_tame h p fresh x
  rw [stage_eq]
  split
  · exact enterCountdown_tame staged x
  · exact staged

theorem stageEntry_tame (p : HeatSnapshot) (fresh : List (Byte × Fin 64)) : Tame s (stageEntry p fresh t) := by
  have checked := recheck_tame (writeEntry_tame (writeEntry_tame h t.race.cardCursor 7 [0] (by simp)) t.race.cardCursor
    36 (List.replicate 13 0) (by simp)) (entryAddr t.race.cardCursor) 0xFF 1
  unfold stageEntry
  dsimp only
  split
  · exact stage_tame (writeEntry_tame checked _ 0 _ (by simp)) _ _ _
  · exact checked

theorem examineEntry_tame : Tame s (examineEntry t) := by
  have read := gather_tame h (span (entryAddr t.race.cardCursor + 1) 35 ++ tallyHeads)
  unfold examineEntry
  dsimp only
  split
  · exact refuseEntry_tame read _ _
  · exact stageEntry_tame read _ _

theorem examineCard_tame : Tame s (examineCard t) := by
  have read := deviceRead_tame h (entryAddr t.race.cardCursor)
  unfold examineCard
  split
  · exact h
  · dsimp only
    split
    · exact examineEntry_tame read
    · exact read

theorem expireRunout_tame (x : Stamp) : Tame s (expireRunout x t) := handChange_tame (h.onRace _) _ _

theorem enterRunout_tame (x : Stamp) (cause : Nat) (by_ : Option Lane) : Tame s (enterRunout x cause by_ t) := by
  have noted := fun f => runoutNotice_tame (setLamps_tame (powerRace_tame (handChange_tame (h.onRace f) .runout x)
    .runout x) (lampsFor .runout)) cause by_ x
  unfold enterRunout
  dsimp only
  split
  · exact expireRunout_tame (noted _) _
  · exact noted _

theorem limitInCall_tame (x : Stamp) (k : Lane) : Tame s (limitInCall x k t) :=
  handChange_tame (runoutNotice_tame (h.onRace _) _ _ _) _ _

theorem lapCompleted_tame (k : Lane) (x : Stamp) (view : RaceView) : Tame s (lapCompleted k x view t).1 := by
  unfold lapCompleted
  split
  · exact h
  · split
    · exact h
    · split
      · dsimp only
        split
        · exact enterRunout_tame h _ _ _
        · split
          · exact limitInCall_tame h _ _
          · exact h
      · exact h

/-- The state byte of a heat entry rechecked, and the entry handed over where it still reads as expected (R9). -/
theorem handEntry_tame (i : Fin 32) (expect b : Byte) :
    Tame s (if (recheck (entryAddr i) 0xFF expect t).2 then deviceWrite (entryAddr i) [b] (recheck (entryAddr i) 0xFF expect t).1
      else (recheck (entryAddr i) 0xFF expect t).1) := by
  have checked := recheck_tame h (entryAddr i) 0xFF expect
  split
  · exact writeEntry_tame checked i 0 [b] (by simp)
  · exact checked

theorem settle_tame (x : Stamp) : Tame s (settle x t) := by
  have folded := foldTally_tame h t.stand.label
  have ordered := writeEntry_tame folded (foldTally t.stand.label t).race.cardCursor 36
    (orderBytes (finalOrder t) ++ stampBytes x) (by
      simp only [orderBytes, List.length_append, List.length_take, stampBytes_length]
      omega)
  have ended := handEntry_tame ordered (foldTally t.stand.label t).race.cardCursor 2 3
  unfold settle
  dsimp only
  exact powerIdle_tame (penIdle_tame (handChange_tame (Tame.onRace
    (timeIdle_tame (heatNotice_tame ended _ _ _ _) x) _) _ _)) x

theorem raceFinish_tame (k : Lane) (x : Stamp) : Tame s (raceFinish k x t) := by
  have marked := fun f => h.onRace f
  unfold raceFinish
  split
  · exact h
  · dsimp only
    split
    · exact settle_tame (marked _) x
    · exact marked _

theorem abortHeat_tame (x : Stamp) : Tame s (abortHeat x t) := by
  unfold abortHeat
  extract_lets label idle raced dropped cut a r voided noted
  have hcut : Tame s cut :=
    powerIdle_tame (penIdle_tame (handChange_tame (((timeIdle_tame h x).onRace _).onLaps rfl fun _ =>
      ⟨rfl, rfl, id, id⟩) _ _)) x
  have hvoided : Tame s voided :=
    handEntry_tame (writeEntry_tame hcut cut.race.cardCursor 7 [8] (by simp)) cut.race.cardCursor 2 4
  exact (heatNotice_tame hvoided 7 label x 8).onRace _

/-! ### Calls and resumes -/

theorem countCall_tame (o : CallOrigin) : Tame s (countCall o t) := h.onRace _

theorem chargeCall_tame (o : CallOrigin) (outcome : Nat) (c : Stamp) : Tame s (chargeCall o outcome c t) := by
  unfold chargeCall
  split
  · exact callNotice_tame h _ _ _
  · dsimp only
    split
    · exact trigger_tame (callNotice_tame (h.onRace _) _ _ _) _ _ _
    · exact callNotice_tame (h.onRace _) _ _ _

theorem callRestage_tame (o : CallOrigin) (c : Stamp) : Tame s (callRestage o c t) :=
  chargeCall_tame (powerRace_tame (handChange_tame (setLamps_tame (h.onRace _) _) _ _) _ _) _ _ _

theorem callStart_tame (o : CallOrigin) (c : Stamp) : Tame s (callStart o c t) :=
  chargeCall_tame (powerRace_tame (handChange_tame ((stopRacing_tame h c).onRace _) _ _) _ _) _ _ _

theorem callMerge_tame (o : CallOrigin) (c : Stamp) : Tame s (callMerge o c t) := callNotice_tame h _ _ _

theorem callAgain_tame (o : CallOrigin) (c : Stamp) : Tame s (callAgain o c t) :=
  chargeCall_tame (powerRace_tame (handChange_tame (h.onRace _) _ _) _ _) _ _ _

theorem takeCall_tame (o : CallOrigin) (c : Stamp) : Tame s (takeCall o c t) := by
  have counted := countCall_tame h o
  unfold takeCall
  split
  · exact h
  · exact h
  · exact callRestage_tame counted _ _
  · exact callStart_tame counted _ _
  · split
    · exact h
    · exact callStart_tame counted _ _
  · exact callMerge_tame counted _ _
  · exact callAgain_tame counted _ _

theorem beginResume_tame (x : Stamp) : Tame s (beginResume x t) :=
  resumeNotice_tame (powerRace_tame (handChange_tame (h.onRace _) _ _) _ _) _ _ _

theorem finishResume_tame (c1 : Stamp) : Tame s (finishResume c1 t) :=
  resumeNotice_tame (powerRace_tame (startRacing_tame (handChange_tame (setLamps_tame (h.onRace _) _) _ _) _) _ _) _ _ _

/-! ### Lap assembly, but for the crossings that move a gate -/

theorem finishLane_tame (k : Lane) (x : Stamp) (afterCut : Bool) : Tame s (finishLane k x afterCut t) :=
  raceFinish_tame (standFinish_tame (penFinish_tame (powerFinished_tame (h.onLapLane ⟨rfl, rfl, id, id⟩) k x) k x)
    k afterCut) k x

theorem startLap_tame (k : Lane) (x : Stamp) : Tame s (startLap k x t) :=
  markServices_tame (h.onLapLane ⟨rfl, rfl, id, id⟩) k

theorem completeLap_tame (c : Crossing) (view : RaceView) : Tame s (completeLap c view t) := by
  have answered := fun f (hf : LapTame (t.lap c.lane) (f (t.lap c.lane))) =>
    resort_tame (lapCompleted_tame (h.onLapLane (f := f) hf) c.lane c.stamp view)
  unfold completeLap
  extract_lets k counted r sorted l lap bested booked handed
  have hhanded : Tame s handed :=
    penAcceptedLine_tame (arriveLap_tame (Tame.onLapLane (answered _ ⟨rfl, rfl, id, id⟩) ⟨rfl, rfl, id, id⟩) k lap)
      k c.stamp true r.2 view
  split
  · exact finishLane_tame hhanded _ _ _
  · exact startLap_tame hhanded _ _

theorem takeJump_tame (c : Crossing) : Tame s (takeJump c t) := by
  have counted : Tame s (t.onLapLane c.lane fun l => { countDiscard l with jumpMark := true }) := by
    refine h.onLapLane ?_
    unfold countDiscard
    split <;> exact ⟨rfl, rfl, id, id⟩
  unfold takeJump
  dsimp only
  split
  · exact jumpCrossing_tame counted _ _
  · exact counted

theorem cutLane_tame (byRetire : Bool) (x : Stamp) (k : Lane) : Tame s (cutLane byRetire x t k) := by
  unfold cutLane
  split
  · exact finishLane_tame (standCut_tame h _ _ _) _ _ _
  · exact h

theorem cutLanes_tame (byRetire : Bool) (x : Stamp) (ks : List Lane) : Tame s (ks.foldl (cutLane byRetire x) t) := by
  induction ks generalizing t with
  | nil => exact h
  | cons k ks ih => exact ih (cutLane_tame h byRetire x k)

theorem abortLane_tame (x : Stamp) (k : Lane) : Tame s (abortLane x t k) := by
  unfold abortLane
  split
  · exact penAbortFinish_tame (powerFinished_tame (h.onLapLane ⟨rfl, rfl, id, id⟩) k x) k x
  · exact h

theorem abortLanes_tame (x : Stamp) (ks : List Lane) : Tame s (ks.foldl (abortLane x) t) := by
  induction ks generalizing t with
  | nil => exact h
  | cons k ks ih => exact ih (abortLane_tame h x k)

theorem lapIdle_tame : Tame s (lapIdle t) :=
  h.onLaps rfl fun k => by
    simp only [dropFreeze, pick_map]
    exact ⟨rfl, rfl, id, id⟩

theorem lapCalled_tame (callFrom : CalledFrom) (c : Stamp) : Tame s (lapCalled callFrom c t) := by
  refine h.onLaps (by dsimp only; split <;> rfl) fun k => ?_
  dsimp only
  split <;> simp only [openFreeze, pick_map] <;> exact ⟨rfl, rfl, id, id⟩

theorem closeFreeze_tame (c1 : Stamp) (v : RaceView) : Tame s (t.onLaps fun l => { closeFreeze c1 l with view := v }) :=
  h.onLaps rfl fun k => by
    simp only [closeFreeze, pick_map]
    exact ⟨rfl, rfl, id, id⟩

/-! ### The refresh (R11) -/

theorem refreshLane_tame (k : Lane) : Tame s (refreshLane t k) := by
  refine updateBlock_tame h ?_ fun f hf => ?_
  · simp only [DeviceOwned, laneStatusAddr, laneStatusBase]
    omega
  · obtain rfl := List.mem_singleton.mp hf
    simp only [DeviceOwned, laneStatusAddr, laneStatusBase, laneStatusBytes_length]
    omega

theorem refreshStatus_tame : Tame s (refreshStatus t) := by
  have each : ∀ (ks : List Lane) {t : State}, Tame s t → Tame s (ks.foldl refreshLane t) := by
    intro ks
    induction ks with
    | nil => exact id
    | cons k ks ih => exact fun h => ih (refreshLane_tame h k)
  refine each _ (updateBlock_tame h ?_ fun f hf => ?_)
  · simp only [DeviceOwned, raceStatusBase]
    omega
  · obtain rfl := List.mem_singleton.mp hf
    simp only [DeviceOwned, raceStatusBase, raceStatusBytes_length]
    omega

end

end Sys2Proof.Machine

/-! PROOFS. Lane power agrees with its inputs after an evaluation, and what leaves the race where it stands. -/

namespace Sys2Proof.Machine

open Config

/-! ### Lane power at an evaluation (R162 to R166) -/

theorem setDuty_cond (ramp : Nat) (t : Stamp) (l : PowerLane) : (setDuty ramp t l).cond = l.cond := by
  unfold setDuty
  split
  · rfl
  · dsimp only
    split <;> rfl

theorem targetDuty_congr {l m : PowerLane} (hs : m.serving = l.serving) (hc : m.cardCap = l.cardCap)
    (hd : m.capDuty = l.capDuty) : targetDuty m = targetDuty l := by
  simp only [targetDuty, hs, hc, hd]

theorem setDuty_duty_le (ramp : Nat) (t : Stamp) (l : PowerLane) :
    (setDuty ramp t l).duty ≤ targetDuty (setDuty ramp t l) := by
  unfold setDuty
  split
  · exact (targetDuty_congr rfl rfl rfl).ge
  · dsimp only
    split
    · exact (targetDuty_congr rfl rfl rfl).ge
    next hramp =>
      refine le_trans (Nat.div_le_of_le_mul ?_) (targetDuty_congr (l := l) rfl rfl rfl).ge
      rw [Nat.mul_comm]
      exact Nat.mul_le_mul_right _ (by omega)

/-- A lane agrees with its condition (R163, R165, R166). -/
def LaneAgrees (cond : Bool) (l : PowerLane) : Prop :=
  l.cond = cond ∧ (l.cond = false → l.mode = .off ∧ l.rampStart = none ∧ l.nextPin = none) ∧
    (l.cond = true → l.duty ≤ targetDuty l)

theorem powerSound_iff (s : State) : PowerSound s ↔ ∀ k, LaneAgrees (laneCondition s k) (s.powerLane k) := Iff.rfl

theorem laneAgrees_turnOff (l : PowerLane) : LaneAgrees false (turnOff l) :=
  ⟨rfl, fun _ => ⟨rfl, rfl, rfl⟩, fun h => by simp [turnOff] at h⟩

theorem laneAgrees_turnOn (race : RaceState) (ramp : Nat) (x : Stamp) (l : PowerLane) :
    LaneAgrees true (turnOn race ramp x l) := by
  unfold turnOn
  split
  · exact ⟨rfl, fun h => by simp at h, fun _ => Nat.zero_le _⟩
  · exact ⟨rfl, fun h => by simp at h, fun _ => (targetDuty_congr rfl rfl rfl).ge⟩

theorem laneAgrees_setDuty (ramp : Nat) (t : Stamp) {l : PowerLane} (h : l.cond = true) :
    LaneAgrees true (setDuty ramp t l) :=
  ⟨(setDuty_cond ..).trans h, fun hf => by simp [setDuty_cond, h] at hf, fun _ => setDuty_duty_le ..⟩

theorem laneAgrees_evalOf (x : Stamp) (s : State) (k : Lane) : LaneAgrees (laneCondition s k) (evalOf x s k) := by
  unfold evalOf
  split
  next hc =>
    rw [hc]
    split
    next hon => exact laneAgrees_setDuty _ _ hon
    · exact laneAgrees_turnOn _ _ _ _
  next hc =>
    rw [Bool.eq_false_iff.mpr hc]
    exact laneAgrees_turnOff _

/-- The condition of a lane hangs on LANES_OFF, the race state and live grid at lane power, and what the lane itself holds. -/
theorem laneCondition_congr {s t : State} {k : Lane} (hctl : t.port.ctl = s.port.ctl)
    (hstate : t.power.state = s.power.state) (hgrid : t.power.liveGrid = s.power.liveGrid)
    (ho : (t.powerLane k).occupied = (s.powerLane k).occupied) (hf : (t.powerLane k).finished = (s.powerLane k).finished)
    (hs : (t.powerLane k).serving = (s.powerLane k).serving) : laneCondition t k = laneCondition s k := by
  simp only [laneCondition, HostPort.lanesOff, hctl, hstate, hgrid, ho, hf, hs]

theorem powerSound_congr {s t : State} (hpower : t.power = s.power) (hctl : t.port.ctl = s.port.ctl)
    (h : PowerSound s) : PowerSound t := by
  intro k
  have lane : t.powerLane k = s.powerLane k := by simp only [State.powerLane, hpower]
  have cond : laneCondition t k = laneCondition s k := laneCondition_congr hctl (by rw [hpower]) (by rw [hpower])
    (by rw [lane]) (by rw [lane]) (by rw [lane])
  rw [lane, cond]
  exact h k

theorem setDuty_inputs (ramp : Nat) (t : Stamp) (l : PowerLane) : (setDuty ramp t l).occupied = l.occupied ∧
    (setDuty ramp t l).finished = l.finished ∧ (setDuty ramp t l).serving = l.serving := by
  unfold setDuty
  split
  · exact ⟨rfl, rfl, rfl⟩
  · dsimp only
    split <;> exact ⟨rfl, rfl, rfl⟩

/-- An evaluation leaves what the condition hangs on. -/
theorem evalOf_inputs (x : Stamp) (s : State) (k : Lane) : (evalOf x s k).occupied = (s.powerLane k).occupied ∧
    (evalOf x s k).finished = (s.powerLane k).finished ∧ (evalOf x s k).serving = (s.powerLane k).serving := by
  unfold evalOf
  split
  · split
    · exact setDuty_inputs _ _ _
    · unfold turnOn
      split <;> exact ⟨rfl, rfl, rfl⟩
  · exact ⟨rfl, rfl, rfl⟩

/-- Every lane evaluated agrees with its inputs, whatever it was before (R162). -/
theorem powerSound_evalAll (x : Stamp) (s : State) : PowerSound (evalAll x s) := by
  intro k
  obtain ⟨ho, hf, hs⟩ := evalOf_inputs x s k
  have lane : (evalAll x s).powerLane k = evalOf x s k := by
    rw [evalAll_eq]
    exact pick_tabulate _ _
  have cond : laneCondition (evalAll x s) k = laneCondition s k := by
    refine laneCondition_congr (by simp) ?_ ?_ (by rw [lane, ho]) (by rw [lane, hf]) (by rw [lane, hs]) <;>
      rw [evalAll_eq]
  rw [lane, cond]
  exact laneAgrees_evalOf x s k

theorem powerSound_powerRace (r : RaceState) (x : Stamp) (s : State) : PowerSound (powerRace r x s) :=
  powerSound_evalAll x _

theorem evalLane_powerLane (x : Stamp) (k j : Lane) (s : State) :
    (evalLane x k s).powerLane j = if j = k then evalOf x s k else s.powerLane j := by
  rw [evalLane_eq]
  exact pick_put _ _ _ _

theorem evalLane_power (x : Stamp) (k : Lane) (s : State) :
    (evalLane x k s).power.state = s.power.state ∧ (evalLane x k s).power.liveGrid = s.power.liveGrid := by
  rw [evalLane_eq]
  exact ⟨rfl, rfl⟩

/-- A lane of lane power changed and evaluated, the others agreeing as they did. -/
theorem powerSound_evalLane (x : Stamp) (k : Lane) (f : PowerLane → PowerLane) {s : State} (h : PowerSound s) :
    PowerSound (evalLane x k (s.onPowerLane k f)) := by
  intro j
  obtain ⟨hstate, hgrid⟩ := evalLane_power x k (s.onPowerLane k f)
  by_cases hj : j = k
  · subst hj
    obtain ⟨ho, hf, hs⟩ := evalOf_inputs x (s.onPowerLane j f) j
    have lane : (evalLane x j (s.onPowerLane j f)).powerLane j = evalOf x (s.onPowerLane j f) j := by
      rw [evalLane_powerLane, if_pos rfl]
    rw [lane, laneCondition_congr (by simp) hstate hgrid (by rw [lane, ho]) (by rw [lane, hf]) (by rw [lane, hs])]
    exact laneAgrees_evalOf x _ j
  · have lane : (evalLane x k (s.onPowerLane k f)).powerLane j = s.powerLane j := by
      rw [evalLane_powerLane, if_neg hj, State.onPowerLane_powerLane_ne k f s hj]
    rw [lane, laneCondition_congr (s := s) (by simp) hstate hgrid (by rw [lane]) (by rw [lane]) (by rw [lane])]
    exact h j

/-! ### Work that leaves the race where it stands -/

/-- From s the device has come to t with the race, as race control, the penalty unit and lane power know it, where it
was, and with lane power in agreement if it was. -/
structure Steady (s t : State) : Prop where
  state : t.race.state = s.race.state
  calledFrom : t.race.calledFrom = s.race.calledFrom
  snapshot : t.race.snapshot = s.race.snapshot
  heatStaged : t.pen.heatStaged = s.pen.heatStaged
  powerState : t.power.state = s.power.state
  power : PowerSound s → PowerSound t

theorem Steady.refl (s : State) : Steady s s := ⟨rfl, rfl, rfl, rfl, rfl, id⟩

theorem Steady.trans {s t u : State} (h : Steady s t) (g : Steady t u) : Steady s u :=
  ⟨g.state.trans h.state, g.calledFrom.trans h.calledFrom, g.snapshot.trans h.snapshot,
    g.heatStaged.trans h.heatStaged, g.powerState.trans h.powerState, g.power ∘ h.power⟩

theorem Steady.race {s t : State} (h : Steady s t) (hr : RaceSound s) : RaceSound t := by
  unfold RaceSound at hr ⊢
  rwa [h.state, h.calledFrom, h.snapshot, h.heatStaged, h.powerState]

/-- Work that leaves race control, the penalty unit, lane power and CTL alone is steady. -/
theorem Steady.of_keeps {s t : State} (hrace : t.race = s.race) (hpen : t.pen = s.pen) (hpower : t.power = s.power)
    (hctl : t.port.ctl = s.port.ctl) : Steady s t :=
  ⟨by rw [hrace], by rw [hrace], by rw [hrace], by rw [hpen], by rw [hpower], powerSound_congr hpower hctl⟩

section
variable {s t : State} (h : Steady s t)
include h

theorem Steady.onTime (f : Timebase → Timebase) : Steady s (t.onTime f) := h.trans (.of_keeps rfl rfl rfl rfl)
theorem Steady.onLaps (f : LapEngine → LapEngine) : Steady s (t.onLaps f) := h.trans (.of_keeps rfl rfl rfl rfl)
theorem Steady.onLapLane (k : Lane) (f : LapLane → LapLane) : Steady s (t.onLapLane k f) := h.onLaps _
theorem Steady.onStand (f : Standings → Standings) : Steady s (t.onStand f) := h.trans (.of_keeps rfl rfl rfl rfl)
theorem Steady.onStandLane (k : Lane) (f : StandLane → StandLane) : Steady s (t.onStandLane k f) := h.onStand _
theorem Steady.onGates (f : GateFront → GateFront) : Steady s (t.onGates f) := h.trans (.of_keeps rfl rfl rfl rfl)

theorem Steady.onPenLane (k : Lane) (f : PenLane → PenLane) : Steady s (t.onPenLane k f) :=
  h.trans ⟨rfl, rfl, rfl, rfl, rfl, id⟩

theorem Steady.onRace {f : RaceControl → RaceControl} (hstate : (f t.race).state = t.race.state)
    (hfrom : (f t.race).calledFrom = t.race.calledFrom) (hsnap : (f t.race).snapshot = t.race.snapshot) :
    Steady s (t.onRace f) :=
  h.trans ⟨hstate, hfrom, hsnap, rfl, rfl, id⟩

theorem Steady.onPort {f : HostPort → HostPort} (hctl : (f t.port).ctl = t.port.ctl) : Steady s (t.onPort f) :=
  h.trans (.of_keeps rfl rfl rfl hctl)

theorem deviceRead_steady (a : Nat) : Steady s (deviceRead a t).1 :=
  h.trans (.of_keeps (by simp) (by simp) (by simp) (by simp))

theorem recheck_steady (a : Nat) (mask expect : Byte) : Steady s (recheck a mask expect t).1 := deviceRead_steady h a

theorem gather_steady (addrs : List Nat) : Steady s (gather addrs t).state :=
  h.trans (.of_keeps (by simp) (by simp) (by simp) (by simp))

theorem deviceWrite_steady (a : Nat) (bs : List Byte) : Steady s (deviceWrite a bs t) :=
  h.trans (.of_keeps (by simp) (by simp) (by simp) (by simp))

theorem deliver_steady (n : Notice) : Steady s (deliver n t) :=
  h.trans (.of_keeps (by simp) (by simp) (by simp) (by simp))

theorem retryNotices_steady : Steady s (retryNotices t) :=
  h.trans (.of_keeps (by simp) (by simp) (by simp) (by simp))

theorem retryBooks_steady : Steady s (retryBooks t) :=
  h.trans (.of_keeps (by simp) (by simp) (by simp) (by simp))

theorem refreshStatus_steady : Steady s (refreshStatus t) :=
  h.trans (.of_keeps (by simp) (by simp) (by simp) (by simp))

theorem penNotice_steady (kind : NoticeKind) (sub : Nat) (k : Lane) (x : Stamp) (a b : Nat) :
    Steady s (penNotice kind sub k x a b t) := deliver_steady h _

theorem heatNotice_steady (sub : Nat) (label : Byte) (x : Stamp) (b : Nat) : Steady s (heatNotice sub label x b t) :=
  deliver_steady h _

theorem writeTallyZero_steady (state racer : Byte) (i : Fin 64) : Steady s (writeTallyZero state racer i t) :=
  h.trans (.of_keeps (by simp) (by simp) (by simp) (by simp [writeTallyZero]))

theorem powerServing_steady (k : Lane) (kind : Option ServiceKind) (duty : Nat) (x : Stamp) :
    Steady s (powerServing k kind duty x t) :=
  h.trans ⟨by simp, by simp, by simp, by simp, by unfold powerServing; rw [evalLane_eq]; rfl,
    powerSound_evalLane x k _⟩

theorem powerFinished_steady (k : Lane) (x : Stamp) : Steady s (powerFinished k x t) :=
  h.trans ⟨by simp, by simp, by simp, by simp, by unfold powerFinished; rw [evalLane_eq]; rfl,
    powerSound_evalLane x k _⟩

/-! ### The penalty unit -/

theorem setOrder_steady (order : List Lane) : Steady s (setOrder order t) := h.onStand _

theorem resort_steady : Steady s (resort t) := setOrder_steady h _

theorem actAtOnce_steady (r : Response) (k : Lane) (amount : Nat) : Steady s (actAtOnce r k amount t) := by
  unfold actAtOnce
  split
  · exact resort_steady (h.onPenLane k _)
  · exact h.onPenLane k _
  · exact h

theorem convert_steady (k : Lane) (e : PenEntry) (x : Stamp) : Steady s (convert k e x t) :=
  actAtOnce_steady (penNotice_steady h _ _ _ _ _ _) _ _ _

theorem enqueuePenalty_steady (k : Lane) (e : PenEntry) : Steady s (enqueuePenalty k e t) := by
  unfold enqueuePenalty
  split
  · exact convert_steady h _ _ _
  · exact h.onPenLane k _

theorem issue_steady (tr : Fin 8) (k : Lane) (x : Stamp) (r : Response) (amount duty warning : Nat) :
    Steady s (issue tr k x r amount duty warning t) := by
  have counted : Steady s (t.onPen fun p => { p with serial := nextSerial t.pen }) :=
    h.trans ⟨rfl, rfl, rfl, rfl, rfl, id⟩
  have noted := fun sub a b => penNotice_steady counted .penalty sub k x a b
  unfold issue
  dsimp only
  split
  · exact enqueuePenalty_steady (noted _ _ _) k _
  · exact enqueuePenalty_steady (noted _ _ _) k _
  · exact actAtOnce_steady (noted _ _ _) _ k _

theorem trigger_steady (tr : Fin 8) (k : Lane) (x : Stamp) : Steady s (trigger tr k x t) := by
  unfold trigger
  split
  · exact h
  · dsimp only
    split
    · exact h
    · split
      · exact issue_steady (h.onPenLane k _) _ _ _ _ _ _ _
      · exact issue_steady (h.onPenLane k _) _ _ _ _ _ _ _
    · exact issue_steady h _ _ _ _ _ _ _

theorem dropServing_steady (k : Lane) (x : Stamp) : Steady s (dropServing k x t) := by
  unfold dropServing
  split
  · exact h
  · dsimp only
    split
    · exact powerServing_steady ((h.onPenLane k _).onLapLane k _) k _ _ x
    · exact powerServing_steady (h.onPenLane k _) k _ _ x

theorem endService_steady (k : Lane) (x : Stamp) (sub remaining : Nat) : Steady s (endService k x sub remaining t) := by
  unfold endService
  split
  · exact h
  · exact penNotice_steady (dropServing_steady h k x) _ _ _ _ _ _

theorem beginService_steady (k : Lane) (x : Stamp) : Steady s (beginService k x t) := by
  unfold beginService
  split
  · exact h
  · dsimp only
    split
    · exact penNotice_steady (powerServing_steady (((h.onPenLane k _).onPenLane k _).onLapLane k _) _ _ _ _) _ _ _ _ _ _
    · exact penNotice_steady (powerServing_steady ((h.onPenLane k _).onPenLane k _) _ _ _ _) _ _ _ _ _ _

theorem pushCheck_steady (k : Lane) (y : Stamp) (view : RaceView) : Steady s (pushCheck k y view t) := by
  unfold pushCheck
  dsimp only
  split
  · exact trigger_steady (h.onPenLane k _) _ _ _
  · exact h

theorem advanceCap_steady (k : Lane) (x : Stamp) : Steady s (advanceCap k x t) := by
  unfold advanceCap
  dsimp only
  split
  · exact endService_steady (h.onPenLane k _) _ _ _ _
  · exact h.onPenLane k _

theorem penAcceptedLine_steady (k : Lane) (x : Stamp) (completion finishing : Bool) (view : RaceView) :
    Steady s (penAcceptedLine k x completion finishing view t) := by
  have pushed := pushCheck_steady h k x view
  have advanced : Steady s (if servingCap (pushCheck k x view t) k && completion then
      advanceCap k x (pushCheck k x view t) else pushCheck k x view t) := by
    split
    · exact advanceCap_steady pushed k x
    · exact pushed
  unfold penAcceptedLine
  extract_lets served pushed' advanced'
  split
  · exact beginService_steady advanced k x
  · exact advanced

theorem convertAll_steady (k : Lane) (x : Stamp) (q : List PenEntry) : Steady s (convertAll k x q t) := by
  induction q generalizing t with
  | nil => exact h
  | cons e rest ih => exact ih (convert_steady (h.onPenLane k _) k e x)

theorem penFinish_steady (k : Lane) (x : Stamp) : Steady s (penFinish k x t) := by
  unfold penFinish
  split
  · exact h
  · exact convertAll_steady (endService_steady (h.onPenLane k _) _ _ _ _) k x _

theorem penAbortFinish_steady (k : Lane) (x : Stamp) : Steady s (penAbortFinish k x t) :=
  (dropServing_steady (h.onPenLane k _) k x).onPenLane k _

/-! ### Standings, and the parts of race control that leave the race state -/

theorem standCut_steady (k : Lane) (byRetire : Bool) (c : CutData) : Steady s (standCut k byRetire c t) := by
  cases byRetire
  · exact h.onStandLane k _
  · exact resort_steady (h.onStandLane k _)

theorem standFinish_steady (k : Lane) (afterCut : Bool) : Steady s (standFinish k afterCut t) := by
  unfold standFinish
  split
  · exact h
  · exact h.onStandLane k _

theorem setLamps_steady (v : BitVec 7) : Steady s (setLamps v t) := h.onRace rfl rfl rfl

theorem handChange_steady (kind : ChangeKind) (x : Stamp) : Steady s (handChange kind x t) := h.onLaps _

theorem jumpOnce_steady (k : Lane) (x : Stamp) : Steady s (jumpOnce k x t) := by
  unfold jumpOnce
  split
  · exact h
  · exact trigger_steady (h.onRace rfl rfl rfl) _ _ _

theorem jumpCrossing_steady (k : Lane) (x : Stamp) : Steady s (jumpCrossing k x t) := by
  unfold jumpCrossing
  split
  · exact h
  · split
    · split
      · exact trigger_steady h _ _ _
      · exact jumpOnce_steady h _ _
    · exact jumpOnce_steady h _ _

theorem refuseEntry_steady (reason : Nat) (label : Byte) : Steady s (refuseEntry reason label t) := by
  have checked := recheck_steady (deviceWrite_steady h (entryAddr t.race.cardCursor + 7) [BitVec.ofNat 8 reason])
    (entryAddr t.race.cardCursor) 0xFF 1
  unfold refuseEntry
  dsimp only
  split
  · exact heatNotice_steady (deviceWrite_steady checked _ _) _ _ _ _
  · exact checked

theorem expireRunout_steady (x : Stamp) : Steady s (expireRunout x t) :=
  handChange_steady (h.onRace rfl rfl rfl) _ _

theorem runoutNotice_steady (cause : Nat) (by_ : Option Lane) (x : Stamp) :
    Steady s (runoutNotice cause by_ x t) := by
  cases by_ <;> exact deliver_steady h _

theorem countCall_steady (o : CallOrigin) : Steady s (countCall o t) := h.onRace rfl rfl rfl

theorem callNotice_steady (o : CallOrigin) (outcome : Nat) (c : Stamp) : Steady s (callNotice o outcome c t) := by
  unfold callNotice
  cases o.lane <;> exact deliver_steady h _

theorem chargeCall_steady (o : CallOrigin) (outcome : Nat) (c : Stamp) : Steady s (chargeCall o outcome c t) := by
  unfold chargeCall
  split
  · exact callNotice_steady h _ _ _
  · dsimp only
    split
    · exact trigger_steady (callNotice_steady (h.onRace rfl rfl rfl) _ _ _) _ _ _
    · exact callNotice_steady (h.onRace rfl rfl rfl) _ _ _

end

end Sys2Proof.Machine

/-! PROOFS. What every step keeps, and the changes of race state from the countdown to the return to IDLE. -/

namespace Sys2Proof.Machine

open Config

/-! ### What every step keeps -/

/-- From s the device has come to t with the waiting commands untouched and every invariant kept. -/
structure Sound (s t : State) : Prop where
  pending : t.pending = s.pending
  memory : MemorySound s → MemorySound t
  registers : RegistersSound s → RegistersSound t
  queues : QueuesSound s → QueuesSound t
  gates : GatesSound s → GatesSound t
  race : RaceSound s → RaceSound t
  power : PowerSound s → PowerSound t

/-- Besides, no byte of a host region is written outside a memory clear. -/
structure Kept (s t : State) : Prop extends Sound s t where
  spared : s.port.turns = [] → s.phase ≠ .clearing →
    t.port.turns = [] ∧ t.phase ≠ .clearing ∧ ∀ j, HostOwned j → readByte t j = readByte s j

theorem Kept.refl (s : State) : Kept s s := ⟨⟨rfl, id, id, id, id, id, id⟩, fun h g => ⟨h, g, fun _ _ => rfl⟩⟩

theorem Kept.trans {s t u : State} (h : Kept s t) (g : Kept t u) : Kept s u where
  pending := g.pending.trans h.pending
  memory := g.memory ∘ h.memory
  registers := g.registers ∘ h.registers
  queues := g.queues ∘ h.queues
  gates := g.gates ∘ h.gates
  race := g.race ∘ h.race
  power := g.power ∘ h.power
  spared hq hp := by
    obtain ⟨ht, hpt, hb⟩ := h.spared hq hp
    obtain ⟨hu, hpu, hc⟩ := g.spared ht hpt
    exact ⟨hu, hpu, fun j hj => (hc j hj).trans (hb j hj)⟩

theorem Tame.gatesSound {s t : State} (h : Tame s t) (hs : GatesSound s) : GatesSound t := by
  have geom : ∀ k, t.geom k = s.geom k := fun k => by simp only [State.geom, h.geometry]
  have input : ∀ n, t.input n = s.input n := fun n => by simp only [State.input, h.gates]
  obtain ⟨hlanes, hqueue, hinputs⟩ := hs
  refine ⟨fun k => ?_, ?_, fun n m => ?_⟩
  · rw [geom, (h.places k).1, (h.places k).2]
    exact hlanes k
  · simpa only [h.gates, geom] using hqueue
  · rw [input, geom]
    exact hinputs n m

section
variable {s t u : State} (h : Kept s t)
include h

/-- Tame work keeps every invariant where it keeps those of the race and of lane power. -/
theorem Kept.tame (ht : Tame t u) (hrace : RaceSound t → RaceSound u) (hpower : PowerSound t → PowerSound u) : Kept s u :=
  h.trans
    { pending := ht.pending, memory := ht.memory, registers := ht.registers, queues := ht.queues
      gates := ht.gatesSound, race := hrace, power := hpower
      spared := fun hq hp => ⟨(ht.spared hq).1, ht.phase ▸ hp, (ht.spared hq).2⟩ }

theorem Kept.steady (ht : Tame t u) (hs : Steady t u) : Kept s u := h.tame ht hs.race hs.power

end

/-! ### Changes of the race state -/

/-- Where lane power is handed the race state that race control now has, and the rest agrees with it, the race is
consistent and lane power in agreement. -/
theorem raceSound_powerRace {r : RaceState} {x : Stamp} {v : State} (hstate : v.race.state = r)
    (hfrom : v.race.calledFrom ≠ .none ↔ r.frozen = true) (hsnap : v.race.snapshot = none ↔ r = .idle)
    (hheat : v.pen.heatStaged = true ↔ r ≠ .idle) : RaceSound (powerRace r x v) := by
  have power : (powerRace r x v).power.state = r := by
    unfold powerRace
    rw [evalAll_eq]
    rfl
  simp only [RaceSound, power, (powerRace_keeps r x v).2.2.2.2.2.2.1, (powerRace_keeps r x v).2.2.2.2.2.2.2.2.1, hstate]
  exact ⟨hfrom, hsnap, hheat, trivial⟩

/-- A race sound in a state other than IDLE has its heat snapshotted and staged. -/
theorem RaceSound.staged {s : State} (h : RaceSound s) (hs : s.race.state ≠ .idle) :
    s.race.snapshot ≠ none ∧ s.pen.heatStaged = true :=
  ⟨fun e => hs (h.2.1.mp e), h.2.2.1.mpr hs⟩

/-- A change of race state, then work that leaves the race where it stands. The change keeps the heat staged. -/
theorem Kept.raceChange {s t v u : State} {r : RaceState} {x : Stamp} (h : Kept s t) (ht : Tame t u)
    (hu : Steady (powerRace r x v) u) (hactive : t.race.state ≠ .idle) (hr : r ≠ .idle)
    (hstate : v.race.state = r) (hfrom : RaceSound t → (v.race.calledFrom ≠ .none ↔ r.frozen = true))
    (hsnap : v.race.snapshot = t.race.snapshot) (hheat : v.pen.heatStaged = t.pen.heatStaged) : Kept s u :=
  h.tame ht
    (fun hs => hu.race (raceSound_powerRace hstate (hfrom hs)
      (by simp only [hsnap, (hs.staged hactive).1, hr]) (by simp only [hheat, (hs.staged hactive).2, hr, ne_eq, not_false_eq_true])))
    (fun _ => hu.power (powerSound_powerRace r x v))

theorem RaceSound.not_called {s : State} (h : RaceSound s) (hs : s.race.state.frozen = false) : s.race.calledFrom = .none := by
  by_contra hc
  simp [h.1.mp hc] at hs

/-- A return to IDLE: whatever the race was before, it is consistent, and every lane is off. -/
theorem raceSound_idle {x : Stamp} {v : State} (hstate : v.race.state = .idle) (hfrom : v.race.calledFrom = .none)
    (hsnap : v.race.snapshot = none) (hheat : v.pen.heatStaged = false) : RaceSound (powerRace .idle x v) :=
  raceSound_powerRace hstate (by simp [hfrom, RaceState.frozen]) (by simp [hsnap]) (by simp [hheat])

section
variable {s t : State} (h : Kept s t)
include h

theorem enterCountdown_kept (e : Stamp) (hs : t.race.state = .staged) : Kept s (enterCountdown e t) := by
  have tame := enterCountdown_tame (.refl t) e
  unfold enterCountdown at tame ⊢
  dsimp only at tame ⊢
  refine h.raceChange tame (Steady.onRace (heatNotice_steady (setLamps_steady (.refl _) _) _ _ _ _) ?_ ?_ ?_)
    (by simp [hs]) (by simp) rfl (fun hr => ?_) rfl rfl
  · rfl
  · rfl
  · rfl
  · simp [handChange, hr.not_called (by rw [hs]; rfl), RaceState.frozen]

theorem enterGreen_kept (g : Stamp) (hs : t.race.state = .countdown) : Kept s (enterGreen g t) := by
  refine h.raceChange (enterGreen_tame (.refl t) g) (heatNotice_steady (Steady.onRace (.refl _) rfl rfl rfl) _ _ _ _)
    (by simp [hs]) (by simp) rfl (fun hr => ?_) rfl rfl
  simp [setLamps, hr.not_called (by rw [hs]; rfl), RaceState.frozen]

theorem enterRunout_kept (x : Stamp) (cause : Nat) (by_ : Option Lane) (hs : t.race.state = .green) :
    Kept s (enterRunout x cause by_ t) := by
  have noted := fun v => runoutNotice_steady (setLamps_steady (.refl (powerRace .runout x v)) (lampsFor .runout)) cause by_ x
  have tame := enterRunout_tame (.refl t) x cause by_
  have from_ : ∀ f : RaceControl → RaceControl, (∀ r, (f r).calledFrom = r.calledFrom) → RaceSound t →
      ((handChange .runout x (t.onRace f)).race.calledFrom ≠ .none ↔ RaceState.runout.frozen = true) := fun f hf hr => by
    simp [hf, hr.not_called (by rw [hs]; rfl), RaceState.frozen]
  unfold enterRunout at tame ⊢
  dsimp only at tame ⊢
  split at tame
  next hd =>
    rw [if_pos hd]
    exact h.raceChange tame (expireRunout_steady (noted _) _) (by simp [hs]) (by simp) rfl (from_ _ fun _ => rfl) rfl rfl
  next hd =>
    rw [if_neg hd]
    exact h.raceChange tame (noted _) (by simp [hs]) (by simp) rfl (from_ _ fun _ => rfl) rfl rfl

theorem limitInCall_kept (x : Stamp) (k : Lane) (hs : t.race.state.frozen = true) : Kept s (limitInCall x k t) := by
  refine h.tame (limitInCall_tame (.refl t) x k) (fun hr => ?_) fun hp => ?_
  · refine (handChange_steady (runoutNotice_steady (.refl _) 2 (some k) x) .runout x).race ?_
    obtain ⟨-, hsnap, hheat, hpower⟩ := hr
    exact ⟨by simp [hs], hsnap, hheat, hpower⟩
  · exact (handChange_steady (runoutNotice_steady (.refl _) 2 (some k) x) .runout x).power (powerSound_congr rfl rfl hp)

theorem lapCompleted_kept (k : Lane) (x : Stamp) (view : RaceView) : Kept s (lapCompleted k x view t).1 := by
  unfold lapCompleted
  split
  · exact h
  · split
    · exact h
    · split
      · dsimp only
        split
        next hs => exact enterRunout_kept h _ _ _ hs
        · split
          next hs => exact limitInCall_kept h _ _ (Bool.and_eq_true .. ▸ hs).1
          · exact h
      · exact h

theorem settle_kept (x : Stamp) : Kept s (settle x t) := by
  have tame := settle_tame (.refl t) x
  unfold settle at tame ⊢
  dsimp only at tame ⊢
  refine h.tame tame (fun _ => ?_) fun _ => ?_
  · exact raceSound_idle (by simp [raceIdle]) (by simp [raceIdle]) (by simp) (by simp [penIdle])
  · exact powerSound_powerRace .idle x _

theorem raceFinish_kept (k : Lane) (x : Stamp) : Kept s (raceFinish k x t) := by
  have marked : Kept s (t.onRace fun r => { r with finishedSet := put r.finishedSet k true }) :=
    h.steady (Tame.onRace (.refl t) _) (Steady.onRace (.refl t) rfl rfl rfl)
  unfold raceFinish
  split
  · exact h
  · dsimp only
    split
    · exact settle_kept marked x
    · exact marked

end

/-! ### The abort (R120) -/

/-- The abort up to the return to IDLE of every block, before the heat entry is written. -/
def abortIdle (x : Stamp) (s : State) : State :=
  powerIdle x (penIdle (handChange .abort x (((timeIdle x s).onRace raceIdle).onLaps fun l => { l with
    changes := l.changes.filter fun c =>
      match c.kind with
      | .retire _ => false
      | .cutUnfinished => false
      | _ => true })))

/-- The heat entry at the card cursor voided, with reason ABORTED, if it reads RUNNING. -/
def voidAborted (s : State) : State :=
  let a := entryAddr s.race.cardCursor
  let r := recheck a 0xFF 2 (deviceWrite (a + 7) [8] s)
  if r.2 then deviceWrite a [4] r.1 else r.1

theorem abortHeat_eq (x : Stamp) (s : State) : abortHeat x s =
    (heatNotice 7 (currentLabel s) x 8 (voidAborted (abortIdle x s))).onRace fun r => { r with
      cardCursor := r.cardCursor + 1, snapshot := none } := rfl

theorem abortIdle_race (x : Stamp) (s : State) : (abortIdle x s).race = raceIdle s.race ∧
    (abortIdle x s).pen.heatStaged = false ∧ (abortIdle x s).power.state = .idle := by
  refine ⟨by simp [abortIdle], by simp [abortIdle, penIdle], ?_⟩
  unfold abortIdle powerIdle powerRace
  rw [evalAll_eq]
  rfl

theorem powerSound_abortIdle (x : Stamp) (s : State) : PowerSound (abortIdle x s) := by
  unfold abortIdle powerIdle
  exact powerSound_powerRace .idle x _

theorem voidAborted_steady {s t : State} (h : Steady s t) : Steady s (voidAborted t) := by
  have checked := recheck_steady (deviceWrite_steady h (entryAddr t.race.cardCursor + 7) [8])
    (entryAddr t.race.cardCursor) 0xFF 2
  unfold voidAborted
  dsimp only
  split
  · exact deviceWrite_steady checked _ _
  · exact checked

section
variable {s t : State} (h : Kept s t)
include h

theorem abortHeat_kept (x : Stamp) : Kept s (abortHeat x t) := by
  have noted := heatNotice_steady (voidAborted_steady (.refl (abortIdle x t))) 7 (currentLabel t) x 8
  obtain ⟨hrace, hheat, hpower⟩ := abortIdle_race x t
  refine h.tame (abortHeat_tame (.refl t) x) (fun _ => ?_) fun _ => ?_
  · rw [abortHeat_eq]
    simp only [RaceSound, State.onRace_race, State.onRace_pen, State.onRace_power, noted.state, noted.calledFrom,
      noted.heatStaged, noted.powerState, hrace, hheat, hpower]
    simp [raceIdle, RaceState.frozen]
  · rw [abortHeat_eq]
    exact powerSound_congr rfl rfl (noted.power (powerSound_abortIdle x t))

end

end Sys2Proof.Machine

/-! PROOFS. Calls, resumes, staging, and the finishes of lanes keep every invariant. -/

namespace Sys2Proof.Machine

open Config

/-! ### Calls and resumes (R129 to R138) -/

theorem RaceSound.called_of_frozen {s : State} (h : RaceSound s) (hs : s.race.state.frozen = true) :
    s.race.calledFrom ≠ .none := h.1.mpr hs

theorem RaceState.ne_idle_of_frozen {r : RaceState} (h : r.frozen = true) : r ≠ .idle := by
  rintro rfl
  simp [RaceState.frozen] at h

theorem RaceState.ne_idle_of_racing {r : RaceState} (h : r.racing = true) : r ≠ .idle := by
  rintro rfl
  simp [RaceState.racing] at h

theorem stageHeat_state (p : HeatSnapshot) (fresh : List (Byte × Fin 64)) (x : Stamp) (t : State) :
    (stageHeat p fresh x t).race.state = .staged := by
  simp [stageHeat]

theorem target_racing (f : CalledFrom) : f.target.racing = true := by cases f <;> rfl

section
variable {s t : State} (h : Kept s t)
include h

theorem callRestage_kept (o : CallOrigin) (c : Stamp) (hs : t.race.state = .countdown) : Kept s (callRestage o c t) := by
  refine h.raceChange (callRestage_tame (.refl t) o c) (chargeCall_steady (.refl _) _ _ _) (by simp [hs]) (by simp) rfl
    (fun hr => ?_) rfl rfl
  simp [setLamps, hr.not_called (by rw [hs]; rfl), RaceState.frozen]

theorem callStart_kept (o : CallOrigin) (c : Stamp) (hs : t.race.state.racing = true) : Kept s (callStart o c t) := by
  refine h.raceChange (callStart_tame (.refl t) o c) (chargeCall_steady (.refl _) _ _ _) (RaceState.ne_idle_of_racing hs)
    (by simp) rfl (fun _ => ?_) rfl rfl
  simp only [handChange_keeps, State.onRace_race, RaceState.frozen, iff_true]
  split <;> simp

theorem callMerge_kept (o : CallOrigin) (c : Stamp) : Kept s (callMerge o c t) :=
  h.steady (callMerge_tame (.refl t) o c) (callNotice_steady (.refl t) o 3 c)

theorem callAgain_kept (o : CallOrigin) (c : Stamp) (hs : t.race.state.frozen = true) : Kept s (callAgain o c t) := by
  refine h.raceChange (callAgain_tame (.refl t) o c) (chargeCall_steady (.refl _) _ _ _) (RaceState.ne_idle_of_frozen hs)
    (by simp) rfl (fun hr => ?_) rfl rfl
  simpa [RaceState.frozen] using hr.called_of_frozen hs

theorem takeCall_kept (o : CallOrigin) (c : Stamp) : Kept s (takeCall o c t) := by
  have counted : Kept s (countCall o t) := h.steady (countCall_tame (.refl t) o) (countCall_steady (.refl t) o)
  have same : (countCall o t).race.state = t.race.state := rfl
  unfold takeCall
  split
  · exact h
  · exact h
  next hs => exact callRestage_kept counted o c (same.trans hs)
  next hs => exact callStart_kept counted o c (by rw [same, hs]; rfl)
  next hs =>
    split
    · exact h
    · exact callStart_kept counted o c (by rw [same, hs]; rfl)
  · exact callMerge_kept counted o c
  next hs => exact callAgain_kept counted o c (by rw [same, hs]; rfl)

theorem beginResume_kept (x : Stamp) (hs : t.race.state = .called) : Kept s (beginResume x t) := by
  refine h.raceChange (beginResume_tame (.refl t) x) (deliver_steady (.refl _) _) (by simp [hs]) (by simp) rfl
    (fun hr => ?_) rfl rfl
  simpa [RaceState.frozen] using hr.called_of_frozen (by rw [hs]; rfl)

theorem finishResume_kept (c1 : Stamp) (hs : t.race.state = .resuming) : Kept s (finishResume c1 t) := by
  refine h.raceChange (finishResume_tame (.refl t) c1) (deliver_steady (.refl _) _) (by simp [hs])
    (RaceState.ne_idle_of_racing (target_racing _)) rfl (fun _ => ?_) rfl rfl
  cases hf : t.race.calledFrom <;> simp [CalledFrom.target, RaceState.frozen, startRacing, setLamps]

/-! ### Staging (R106) -/

theorem stageHeat_kept (p : HeatSnapshot) (fresh : List (Byte × Fin 64)) (x : Stamp) (hs : t.race.state = .idle) :
    Kept s (stageHeat p fresh x t) := by
  have tame := stageHeat_tame (.refl t) p fresh x
  unfold stageHeat powerStaging at tame ⊢
  dsimp only at tame ⊢
  have noted := fun v => heatNotice_steady (Steady.onRace (.refl (powerRace .staged x v)) (f := fun r => { r with
    callCount := 0, callsUsed := Vector.replicate 8 0, lastCallSource := none, lastCallWho := 0 }) rfl rfl rfl) 1 p.label x
    p.occupied.length
  refine h.tame tame (fun hr => (noted _).race (raceSound_powerRace ?_ ?_ ?_ ?_)) fun _ =>
    (noted _).power (powerSound_powerRace .staged x _)
  · simp
  · simp [hr.not_called (by rw [hs]; rfl), RaceState.frozen]
  · simp
  · simp [penStaging]

theorem stage_kept (p : HeatSnapshot) (fresh : List (Byte × Fin 64)) (x : Stamp) (hs : t.race.state = .idle) :
    Kept s (stage p fresh x t) := by
  have staged := stageHeat_kept h p fresh x hs
  rw [stage_eq]
  split
  · exact enterCountdown_kept staged x (stageHeat_state p fresh x t)
  · exact staged

theorem deviceRead_kept (a : Nat) : Kept s (deviceRead a t).1 :=
  h.steady (deviceRead_tame (.refl t) a) (deviceRead_steady (.refl t) a)

theorem recheck_kept (a : Nat) (mask expect : Byte) : Kept s (recheck a mask expect t).1 := deviceRead_kept h a

theorem gather_kept (addrs : List Nat) : Kept s (gather addrs t).state :=
  h.steady (gather_tame (.refl t) addrs) (gather_steady (.refl t) addrs)

theorem writeEntry_kept (i : Fin 32) (n : Nat) (bs : List Byte) (hn : n + bs.length ≤ 64) :
    Kept s (deviceWrite (entryAddr i + n) bs t) :=
  h.steady (writeEntry_tame (.refl t) i n bs hn) (deviceWrite_steady (.refl t) _ _)

theorem stageEntry_kept (p : HeatSnapshot) (fresh : List (Byte × Fin 64)) (hs : t.race.state = .idle) :
    Kept s (stageEntry p fresh t) := by
  have checked := recheck_kept (writeEntry_kept (writeEntry_kept h t.race.cardCursor 7 [0] (by simp)) t.race.cardCursor
    36 (List.replicate 13 0) (by simp)) (entryAddr t.race.cardCursor) 0xFF 1
  unfold stageEntry
  dsimp only
  split
  · exact stage_kept (writeEntry_kept checked _ 0 _ (by simp)) _ _ _ (by simp [hs])
  · exact checked

theorem examineEntry_kept (hs : t.race.state = .idle) : Kept s (examineEntry t) := by
  have read := gather_kept h (span (entryAddr t.race.cardCursor + 1) 35 ++ tallyHeads)
  unfold examineEntry
  dsimp only
  split
  · exact read.steady (refuseEntry_tame (.refl _) _ _) (refuseEntry_steady (.refl _) _ _)
  · exact stageEntry_kept read _ _ (by simp [hs])

theorem examineCard_kept : Kept s (examineCard t) := by
  have read := deviceRead_kept h (entryAddr t.race.cardCursor)
  unfold examineCard
  split
  · exact h
  next hidle =>
    dsimp only
    split
    · exact examineEntry_kept read (by simp [not_not.mp (not_or.mp hidle).1])
    · exact read

/-! ### The lap engine's lanes -/

theorem finishLane_kept (k : Lane) (x : Stamp) (afterCut : Bool) : Kept s (finishLane k x afterCut t) :=
  raceFinish_kept (h.steady
    (standFinish_tame (penFinish_tame (powerFinished_tame ((Tame.refl t).onLapLane ⟨rfl, rfl, id, id⟩) k x) k x) k afterCut)
    (standFinish_steady (penFinish_steady (powerFinished_steady ((Steady.refl t).onLapLane k _) k x) k x) k afterCut)) k x

theorem cutLane_kept (byRetire : Bool) (x : Stamp) (k : Lane) : Kept s (cutLane byRetire x t k) := by
  unfold cutLane
  split
  · exact finishLane_kept (h.steady (standCut_tame (.refl t) k byRetire _) (standCut_steady (.refl t) k byRetire _)) k x true
  · exact h

theorem cutLanes_kept (byRetire : Bool) (x : Stamp) (ks : List Lane) : Kept s (ks.foldl (cutLane byRetire x) t) := by
  induction ks generalizing t with
  | nil => exact h
  | cons k ks ih => exact ih (cutLane_kept h byRetire x k)

end

end Sys2Proof.Machine

/-! PROOFS. A crossing taken keeps every invariant where its lane has the gate it names. -/

namespace Sys2Proof.Machine

open Config

/-! ### The abort at the lanes (R79) -/

theorem abortLane_steady {s t : State} (h : Steady s t) (x : Stamp) (k : Lane) : Steady s (abortLane x t k) := by
  unfold abortLane
  split
  · exact penAbortFinish_steady (powerFinished_steady (h.onLapLane k _) k x) k x
  · exact h

theorem abortLanes_steady {s t : State} (h : Steady s t) (x : Stamp) (ks : List Lane) :
    Steady s (ks.foldl (abortLane x) t) := by
  induction ks generalizing t with
  | nil => exact h
  | cons k ks ih => exact ih (abortLane_steady h x k)

theorem arriveLap_steady {s t : State} (h : Steady s t) (k : Lane) (r : LapRecord) : Steady s (arriveLap k r t) :=
  h.trans (.of_keeps (by simp) (by simp) (by simp) (by simp))

theorem markServices_steady {s t : State} (h : Steady s t) (k : Lane) : Steady s (markServices k t) := h.onLapLane _ _

theorem startLap_steady {s t : State} (h : Steady s t) (k : Lane) (x : Stamp) : Steady s (startLap k x t) :=
  markServices_steady (h.onLapLane _ _) k

theorem takeJump_steady {s t : State} (h : Steady s t) (c : Crossing) : Steady s (takeJump c t) := by
  unfold takeJump
  dsimp only
  split
  · exact jumpCrossing_steady (h.onLapLane _ _) _ _
  · exact h.onLapLane _ _

theorem faulted_tame {s t : State} (h : Tame s t) (k : Lane) :
    Tame s (t.onLapLane k fun l => { countDiscard l with state := .hunt, huntFlag := true, unverified := true }) := by
  refine h.onLapLane ?_
  unfold countDiscard
  split <;> exact ⟨rfl, rfl, id, id⟩

/-! ### A gate crossed -/

/-- A lane that has crossed gate g of its n gates: its last gate is g and its expected gate the next. -/
structure GateCrossed (g n : Nat) (l m : LapLane) : Prop where
  expected : m.expected = (g + 1) % n
  last : m.last = g
  queue : m.bookQueue = l.bookQueue
  lost : m.bookLost = l.bookLost

section
variable {s t : State} (h : Kept s t)
include h

theorem Kept.crossGate {k : Lane} {g : GateNo} {f : LapLane → LapLane}
    (hc : GatesSound s → g.val < (t.geom k).gateCount)
    (hf : GateCrossed g.val (t.geom k).gateCount (t.lap k) (f (t.lap k))) : Kept s (t.onLapLane k f) where
  pending := h.pending
  memory := h.memory
  registers := h.registers
  race := h.race
  power := h.power
  spared := h.spared
  queues hs := by
    obtain ⟨hgates, hqueue, hlost, hlanes⟩ := h.queues hs
    refine ⟨hgates, hqueue, hlost, fun j => ?_⟩
    obtain ⟨hbook, hbookLost, hpen⟩ := hlanes j
    by_cases hj : j = k
    · subst hj
      rw [State.onLapLane_lap_same, hf.queue, hf.lost]
      exact ⟨hbook, hbookLost, hpen⟩
    · rw [State.onLapLane_lap_ne _ _ _ hj]
      exact ⟨hbook, hbookLost, hpen⟩
  gates hs := by
    have hg := hc hs
    obtain ⟨hlanes, hrest⟩ := h.gates hs
    refine ⟨fun j => ?_, hrest⟩
    by_cases hj : j = k
    · subst hj
      rw [State.onLapLane_lap_same, hf.expected, hf.last]
      exact ⟨fun hn => Nat.mod_lt _ hn, fun hn => by change (t.geom j).gateCount = 1 at hn; omega⟩
    · rw [State.onLapLane_lap_ne _ _ _ hj]
      exact hlanes j

theorem completeLap_kept (c : Crossing) (view : RaceView) : Kept s (completeLap c view t) := by
  have counted : Kept s (t.onLapLane c.lane fun l => { l with laps := raise 65535 l.laps 1 }) :=
    h.steady ((Tame.refl t).onLapLane ⟨rfl, rfl, id, id⟩) ((Steady.refl t).onLapLane _ _)
  have answered := lapCompleted_kept counted c.lane c.stamp view
  unfold completeLap
  extract_lets k counted' r sorted l lap bested booked handed
  have hhanded : Kept s handed := Kept.steady answered
    (penAcceptedLine_tame (arriveLap_tame (Tame.onLapLane (resort_tame (.refl r.1)) ⟨rfl, rfl, id, id⟩) k lap)
      k c.stamp true r.2 view)
    (penAcceptedLine_steady (arriveLap_steady (Steady.onLapLane (resort_steady (.refl r.1)) k _) k lap) k c.stamp true r.2
      view)
  split
  · exact finishLane_kept hhanded _ _ _
  · exact hhanded.steady (startLap_tame (.refl _) _ _) (startLap_steady (.refl _) _ _)

/-- What a mark of a lap's crossing may change: not the gates and not the lap book. -/
structure MarksLap (mark : LapLane → LapLane) : Prop where
  expected : ∀ l, (mark l).expected = l.expected
  last : ∀ l, (mark l).last = l.last
  queue : ∀ l, (mark l).bookQueue = l.bookQueue
  lost : ∀ l, (mark l).bookLost = l.bookLost

theorem acceptCrossing_kept (c : Crossing) (how : Accepted) (mark : LapLane → LapLane) (hmark : MarksLap mark)
    (hc : GatesSound s → c.gate.val < (t.geom c.lane).gateCount) : Kept s (acceptCrossing c how mark t) := by
  have crossed : ∀ heat halted freeze, Kept s (t.onLapLane c.lane fun l => mark (accept (t.geom c.lane).gateCount c heat
      halted (closeSector (t.geom c.lane).gateCount c.gate.val how freeze c.stamp l))) := fun heat halted freeze =>
    h.crossGate hc
      { expected := hmark.expected _, last := hmark.last _, queue := hmark.queue _, lost := hmark.lost _ }
  unfold acceptCrossing
  dsimp only
  split
  · exact completeLap_kept (crossed _ _ _) _ _
  · exact crossed _ _ _

theorem startGrid_kept (c : Crossing) (hc : GatesSound s → c.gate.val < (t.geom c.lane).gateCount) :
    Kept s (startGrid c t) := by
  unfold startGrid
  dsimp only
  exact Kept.steady (h.crossGate hc ⟨rfl, rfl, rfl, rfl⟩)
    (markServices_tame (penAcceptedLine_tame (.refl _) _ _ _ _ _) _)
    (markServices_steady (penAcceptedLine_steady (.refl _) _ _ _ _ _) _)

theorem finishGrid_kept (c : Crossing) (hc : GatesSound s → c.gate.val < (t.geom c.lane).gateCount) :
    Kept s (finishGrid c t) := by
  unfold finishGrid
  dsimp only
  exact finishLane_kept (Kept.steady (h.crossGate hc ⟨rfl, rfl, rfl, rfl⟩) (penAcceptedLine_tame (.refl _) _ _ _ _ _)
    (penAcceptedLine_steady (.refl _) _ _ _ _ _)) _ _ _

theorem countDiscard_kept (k : Lane) : Kept s (t.onLapLane k countDiscard) :=
  h.steady (countDiscard_tame (.refl t) k) ((Steady.refl t).onLapLane _ _)

theorem applyVerdict_kept (v : Verdict) (c : Crossing) (hc : GatesSound s → c.gate.val < (t.geom c.lane).gateCount) :
    Kept s (applyVerdict v c t) := by
  unfold applyVerdict
  dsimp only
  split
  · exact h
  · exact h.steady (deliver_tame (.refl t) _) (deliver_steady (.refl t) _)
  · exact countDiscard_kept h _
  · exact countDiscard_kept h _
  · exact countDiscard_kept h _
  · exact h.steady (takeJump_tame (.refl t) c) (takeJump_steady (.refl t) c)
  · exact startGrid_kept h c hc
  · exact finishGrid_kept h c hc
  · exact acceptCrossing_kept h c _ _ ⟨fun _ => rfl, fun _ => rfl, fun _ => rfl, fun _ => rfl⟩ hc
  · refine Kept.steady (acceptCrossing_kept h c _ _ ?_ hc) (anomaly_tame (trigger_tame (.refl _) _ _ _) _ _ _ _)
      (deliver_steady (trigger_steady (.refl _) _ _ _) _)
    exact ⟨fun _ => rfl, fun _ => rfl, fun _ => rfl, fun _ => rfl⟩
  · exact acceptCrossing_kept h c _ _ ⟨fun _ => rfl, fun _ => rfl, fun _ => rfl, fun _ => rfl⟩ hc
  · exact h.steady (anomaly_tame (faulted_tame (.refl t) _) _ _ _ _) (deliver_steady ((Steady.refl t).onLapLane _ _) _)
  · exact acceptCrossing_kept h c _ _ ⟨fun _ => rfl, fun _ => rfl, fun _ => rfl, fun _ => rfl⟩ hc

theorem pushCheck_kept (k : Lane) (y : Stamp) (view : RaceView) : Kept s (pushCheck k y view t) :=
  h.steady (pushCheck_tame (.refl t) k y view) (pushCheck_steady (.refl t) k y view)

theorem takeCrossing_kept (o : Orders) (c : Crossing) (hc : GatesSound s → c.gate.val < (t.geom c.lane).gateCount) :
    Kept s (takeCrossing o c t) := by
  unfold takeCrossing
  dsimp only
  split
  · exact applyVerdict_kept h _ c hc
  · split
    · refine applyVerdict_kept (pushCheck_kept h _ _ _) _ c fun hs => ?_
      simpa only [State.geom, (pushCheck_tame (.refl t) c.lane c.stamp t.laps.view).geometry] using hc hs
    · exact pushCheck_kept (applyVerdict_kept h _ c hc) _ _ _

end

end Sys2Proof.Machine

/-! PROOFS. Race changes taken, and the crossing work of a service tick, keep every invariant. -/

namespace Sys2Proof.Machine

open Config

/-! ### Race changes taken (R54) -/

/-- A lane of n gates whose lap book is as it was, and whose gates are as they were or fit n (R63, R72). -/
structure LaneFits (n : Nat) (l m : LapLane) : Prop where
  gates : m.expected = l.expected ∧ m.last = l.last ∨ (1 ≤ n → m.expected < n) ∧ m.last = 0
  queue : m.bookQueue = l.bookQueue
  lost : m.bookLost = l.bookLost

theorem lapGreen_fits (gridOn : Bool) (n : Nat) (g : Stamp) (l : LapLane) : LaneFits n l (lapGreen gridOn n g l) := by
  unfold lapGreen
  dsimp only
  split
  · rw [if_pos (Or.inr rfl)]
    exact { gates := .inr ⟨fun _ => by dsimp only; split <;> omega, rfl⟩, queue := rfl, lost := rfl }
  · split <;> exact { gates := .inl ⟨rfl, rfl⟩, queue := rfl, lost := rfl }

section
variable {s t : State} (h : Kept s t)
include h

theorem Kept.onLanes {f : LapEngine → LapEngine} (hg : (f t.laps).geometry = t.laps.geometry)
    (hf : ∀ k, LaneFits (t.geom k).gateCount (t.lap k) (pick (f t.laps).lanes k)) : Kept s (t.onLaps f) where
  pending := h.pending
  memory := h.memory
  registers := h.registers
  race := h.race
  power := h.power
  spared := h.spared
  queues hs := by
    obtain ⟨hgates, hqueue, hlost, hlanes⟩ := h.queues hs
    refine ⟨hgates, hqueue, hlost, fun k => ?_⟩
    obtain ⟨hbook, hbookLost, hpen⟩ := hlanes k
    refine ⟨?_, ?_, hpen⟩
    · exact (hf k).queue ▸ hbook
    · exact (hf k).lost ▸ hbookLost
  gates hs := by
    obtain ⟨hlanes, hrest⟩ := h.gates hs
    have geom : ∀ k, (t.onLaps f).geom k = t.geom k := fun k => congrArg (pick · k) hg
    simp only [GatesSound, geom]
    refine ⟨fun k => ?_, hrest⟩
    change (_ → (pick (f t.laps).lanes k).expected < _) ∧ (_ → (pick (f t.laps).lanes k).last = 0)
    obtain ⟨hexpected, hlast⟩ | ⟨hexpected, hlast⟩ := (hf k).gates
    · rw [hexpected, hlast]
      exact hlanes k
    · exact ⟨hexpected, fun _ => hlast⟩

theorem Kept.onQueue {f : List Crossing → List Crossing} (hf : (f t.gates.queue).Sublist t.gates.queue) :
    Kept s (t.onGates fun g => { g with queue := f g.queue }) where
  pending := h.pending
  memory := h.memory
  registers := h.registers
  race := h.race
  power := h.power
  spared := h.spared
  queues hs := by
    obtain ⟨hgates, hrest⟩ := h.queues hs
    exact ⟨hf.length_le.trans hgates, hrest⟩
  gates hs := by
    obtain ⟨hlanes, hqueue, hinputs⟩ := h.gates hs
    exact ⟨hlanes, fun c hc => hqueue c (hf.subset hc), hinputs⟩

theorem discardEarlier_kept (x : Stamp) : Kept s (discardEarlier x t) := h.onQueue List.filter_sublist

theorem lapStaging_kept (x : Stamp) (label : Byte) (gridOn : Bool) (minLap : Nat) (racers : PerLane Byte) :
    Kept s (lapStaging x label gridOn minLap racers t) :=
  h.onLanes rfl fun k => by
    simp only [pick_tabulate]
    exact { gates := .inr ⟨id, rfl⟩, queue := rfl, lost := rfl }

theorem lapEnterGreen_kept (g : Stamp) : Kept s (lapEnterGreen g t) := by
  have started := fun k => lapGreen_fits t.laps.gridOn (t.geom k).gateCount g (t.lap k)
  refine h.onLanes rfl fun k => ?_
  simp only [pick_tabulate]
  split
  · exact { gates := (started k).gates, queue := (started k).queue, lost := (started k).lost }
  · exact started k

theorem applyChange_kept (o : Orders) (ch : Change) : Kept s (applyChange o ch t) := by
  unfold applyChange
  dsimp only
  split
  · exact lapStaging_kept h _ _ _ _ _
  · exact h.onLanes rfl fun k => by simp only [pick_map]; exact { gates := .inl ⟨rfl, rfl⟩, queue := rfl, lost := rfl }
  · exact h.onLanes rfl fun k => { gates := .inl ⟨rfl, rfl⟩, queue := rfl, lost := rfl }
  · exact lapEnterGreen_kept h _
  · exact h.steady (lapCalled_tame (.refl t) _ _) ((Steady.refl t).onLaps _)
  · exact h.onLanes rfl fun k => { gates := .inl ⟨rfl, rfl⟩, queue := rfl, lost := rfl }
  · exact h.steady (closeFreeze_tame (.refl t) _ _) ((Steady.refl t).onLaps _)
  · exact h.onLanes rfl fun k => { gates := .inl ⟨rfl, rfl⟩, queue := rfl, lost := rfl }
  · exact cutLanes_kept h _ _ _
  · exact cutLane_kept h _ _ _
  · exact h.steady (lapIdle_tame (abortLanes_tame (.refl t) _ _)) (Steady.onLaps (abortLanes_steady (.refl t) _ _) _)
  · exact h.steady (lapIdle_tame (.refl t)) ((Steady.refl t).onLaps _)

end

theorem drain_kept {s t : State} {q : List Crossing} (h : Kept s t) (o : Orders) (x : Stamp) (hq : t.gates.queue = q) :
    Kept s (drain o x q t) := by
  induction q generalizing t with
  | nil => exact h
  | cons c rest ih =>
    unfold drain
    split
    · refine ih (takeCrossing_kept (h.onQueue (f := fun _ => rest) ?_) o c fun hs => ?_) (by simp)
      · rw [hq]
        exact List.sublist_cons_self c rest
      · exact (h.gates hs).2.1 c (by simp [hq])
    · exact h

section
variable {s t : State} (h : Kept s t)
include h

theorem takeHeadChange_kept (o : Orders) : Kept s (takeHeadChange o t) := by
  unfold takeHeadChange
  split
  · exact h
  next ch _ _ =>
    dsimp only
    refine Kept.onLanes (applyChange_kept ?_ o ch) rfl fun k => { gates := .inl ⟨rfl, rfl⟩, queue := rfl, lost := rfl }
    split
    · exact discardEarlier_kept h _
    · exact drain_kept h o _ rfl

theorem takeChange_kept (o : Orders) : Kept s (takeChange o t) := by
  unfold takeChange
  split
  · exact takeHeadChange_kept h o
  · exact h

theorem takeDue_kept (o : Orders) (n : Nat) : Kept s (takeDue o n t) := by
  induction n generalizing t with
  | zero => exact h
  | succ n ih =>
    unfold takeDue
    split
    · exact ih (takeHeadChange_kept h o)
    · exact h

theorem takeAllDue_kept (o : Orders) : Kept s (takeAllDue o t) := takeDue_kept h o _

theorem takeNext_kept (o : Orders) : Kept s (takeNext o t) := by
  unfold takeNext
  split
  · exact h
  next c rest hq =>
    refine takeAllDue_kept (takeCrossing_kept (h.onQueue (f := fun _ => rest) ?_) o c fun hs => ?_) o
    · rw [hq]
      exact List.sublist_cons_self c rest
    · exact (h.gates hs).2.1 c (by simp [hq])

theorem takeSome_kept (o : Orders) (n : Nat) : Kept s (takeSome o n t) := by
  induction n generalizing t with
  | zero => exact h
  | succ n ih =>
    unfold takeSome
    split
    · exact h
    · exact ih (takeNext_kept h o)

theorem crossingWork_kept (o : Orders) : Kept s (crossingWork o t) := takeSome_kept (takeAllDue_kept h o) o _

end

end Sys2Proof.Machine

/-! PROOFS. The gate front end keeps every invariant. -/

namespace Sys2Proof.Machine

open Config

/-! ### The gate front end -/

theorem jumpWatch_steady {s t : State} (h : Steady s t) (k : Lane) (r : DrawRun) :
    Steady s (t.onRace fun c => { c with drawRuns := put c.drawRuns k r }) := h.onRace rfl rfl rfl

section
variable {s t : State} (h : Kept s t)
include h

/-- The gate front end changed, with the crossings that wait and the gates the inputs are mapped to as they were. -/
theorem Kept.onFront {f : GateFront → GateFront} (hq : (f t.gates).queue = t.gates.queue)
    (hm : ∀ n, (pick (f t.gates).inputs n).mapping = (t.input n).mapping) : Kept s (t.onGates f) where
  pending := h.pending
  memory := h.memory
  registers := h.registers
  race := h.race
  power := h.power
  spared := h.spared
  queues hs := by
    obtain ⟨hgates, hrest⟩ := h.queues hs
    exact ⟨by rw [State.onGates_gates, hq]; exact hgates, hrest⟩
  gates hs := by
    obtain ⟨hlanes, hqueue, hinputs⟩ := h.gates hs
    refine ⟨hlanes, ?_, fun n m hn => hinputs n m ((hm n).symm.trans hn)⟩
    rw [State.onGates_gates, hq]
    exact hqueue

theorem Kept.onInput {n : GateIn} {f : InputRec → InputRec} (hm : (f (t.input n)).mapping = (t.input n).mapping) :
    Kept s (t.onInput n f) :=
  h.onFront rfl fun j => by
    by_cases hj : j = n
    · subst hj
      simpa [State.input] using hm
    · rw [pick_amend_ne _ _ hj]
      rfl

theorem enqueueCrossing_kept (c : Crossing) (hc : GatesSound s → c.gate.val < (t.geom c.lane).gateCount) :
    Kept s (enqueueCrossing c t) := by
  unfold enqueueCrossing
  split
  next hroom =>
    refine { h with queues := fun hs => ?_, gates := fun hs => ?_ }
    · obtain ⟨-, hrest⟩ := h.queues hs
      refine ⟨?_, hrest⟩
      simp only [crossingHold] at hroom
      simp only [State.onGates_gates, List.length_append, List.length_singleton]
      omega
    · obtain ⟨hlanes, hqueue, hinputs⟩ := h.gates hs
      refine ⟨hlanes, fun d hd => ?_, hinputs⟩
      obtain hd | rfl := List.mem_append.mp hd |>.imp id List.mem_singleton.mp
      · exact hqueue d hd
      · exact hc hs
  · exact h.steady ((Tame.refl t).onPort { PortTame.refl _ with flt := fun hx => or_and_eq_zero hx rfl }) ((Steady.refl t).onPort rfl)

theorem takeFold_kept (k : Lane) : Kept s (takeFold k t) := countDiscard_kept h k

theorem takeBreak_kept (n : GateIn) : Kept s (takeBreak n t) := by
  unfold takeBreak
  split
  · unfold qualify
    dsimp only
    split
    next m a hm _ =>
      have broken : Kept s (t.onInput n fun r => { r with phase := .broken, count := 0 }) := h.onInput rfl
      split
      · exact takeFold_kept broken _
      · exact enqueueCrossing_kept (broken.onInput rfl) _ fun hs => (h.gates hs).2.2 n m hm
    · exact h
  · exact h

theorem gateNotice_kept (sub : Nat) (n : GateIn) (x : Stamp) (b : Nat) : Kept s (gateNotice sub n x b t) := by
  unfold gateNotice
  split
  · exact h
  · exact h.steady (deliver_tame (.refl t) _) (deliver_steady (.refl t) _)

theorem takeRelease_kept (n : GateIn) : Kept s (takeRelease n t) := by
  unfold takeRelease
  split
  · unfold releaseBreak
    dsimp only
    split
    · exact gateNotice_kept (h.onInput rfl) _ _ _ _
    · exact h.onInput rfl
  · exact h

theorem takeStuck_kept (n : GateIn) : Kept s (takeStuck n t) := by
  unfold takeStuck
  split
  · unfold becomeStuck
    dsimp only
    split
    · exact gateNotice_kept (h.onInput rfl) _ _ _ _
    · exact h
  · exact h

theorem setButton_kept (b : Button) (d : Debounce) : Kept s (setButton b d t) := by
  unfold setButton
  cases b <;> exact h.onFront rfl fun _ => rfl

theorem pressed_kept (b : Button) : Kept s (pressed b t) := by
  unfold pressed
  split
  · exact takeCall_kept h _ _
  · exact takeCall_kept h _ _
  · split
    next hs =>
      split
      · split
        · exact enterCountdown_kept h _ hs
        · exact h
      · exact h
    next hs => exact beginResume_kept h _ hs
    · exact h

theorem takePress_kept (b : Button) : Kept s (takePress b t) := by
  unfold takePress
  split
  · exact pressed_kept (setButton_kept h _ _) _
  · exact h

theorem takeButtonRelease_kept (b : Button) : Kept s (takeButtonRelease b t) := by
  unfold takeButtonRelease
  split
  · exact setButton_kept h _ _
  · exact h

/-- A draw run of race control replaced: the race stands where it stood. -/
theorem setDrawRuns_kept (f : RaceControl → PerLane DrawRun) : Kept s (t.onRace fun r => { r with drawRuns := f r }) :=
  h.steady ((Tame.refl t).onRace _) ((Steady.refl t).onRace rfl rfl rfl)

theorem takeRise_kept (k : Lane) : Kept s (takeRise k t) := by
  have level : Kept s (t.onGates fun g => { g with draw := put g.draw k { level := true, run := 0 } }) :=
    h.onFront rfl fun _ => rfl
  unfold takeRise drawRises
  dsimp only
  split
  · split
    · exact setDrawRuns_kept level _
    · exact level
  · exact h

theorem takeRunEnd_kept (k : Lane) : Kept s (takeRunEnd k t) := by
  unfold takeRunEnd
  split
  · exact h.steady (jumpOnce_tame ((Tame.refl t).onRace _) _ _) (jumpOnce_steady (jumpWatch_steady (.refl t) k _) _ _)
  · exact h

theorem takeFall_kept (k : Lane) : Kept s (takeFall k t) := by
  unfold takeFall drawFalls
  split
  · exact setDrawRuns_kept ((takeRunEnd_kept h k).onFront rfl fun _ => rfl) _
  · exact h

end

end Sys2Proof.Machine

/-! PROOFS. SETUP and the slips keep every invariant. -/

namespace Sys2Proof.Machine

open Config

/-! ### SETUP (R16, R17) -/

/-- A valid setup block maps every input to a gate that its lane has (check 2 of R16). -/
theorem readMapping_gate_lt {v : State} (hv : setupFault v = none) {n : GateIn} {m : GateMapping}
    (hm : readMapping v n = some m) : m.gate.val < (readGeometry v m.lane).gateCount := by
  have good : inputGood v n = true := by
    unfold setupFault at hv
    split at hv
    · simp at hv
    · split at hv
      · simp at hv
      next hnone =>
        simpa using List.find?_eq_none.mp hnone n (List.mem_finRange n)
  unfold readMapping at hm
  dsimp only at hm
  split at hm
  next hlane =>
    obtain rfl := Option.some.inj hm
    unfold inputGood mappedCount at good
    dsimp only at good
    rw [dif_pos hlane] at good
    simp only [Bool.or_eq_true, decide_eq_true_eq, Bool.and_eq_true] at good
    obtain hzero | ⟨⟨-, hgate⟩, -⟩ := good
    · omega
    · exact hgate
  · simp at hm

theorem fitGates_fits (n : Nat) (l : LapLane) :
    (1 ≤ n → (fitGates n l).expected < n) ∧ (n = 1 → (fitGates n l).last = 0) := by
  unfold fitGates
  refine ⟨fun hn => ?_, fun hn => if_pos hn⟩
  dsimp only
  split <;> omega

section
variable {s t : State} (h : Kept s t)
include h

theorem loadSetup_kept {v : State} (hv : setupFault v = none) : Kept s (loadSetup v t) where
  pending := h.pending
  memory := h.memory
  registers := h.registers
  race := h.race
  power := h.power
  spared := h.spared
  queues hs := by
    obtain ⟨-, hqueue, hlost, hlanes⟩ := h.queues hs
    refine ⟨Nat.zero_le _, hqueue, hlost, fun k => ?_⟩
    simpa [loadSetup, State.lap, State.penLane, fitGates] using hlanes k
  gates hs := by
    refine ⟨fun k => ?_, fun c hc => by simp [loadSetup, loadGates] at hc, fun n m hm => ?_⟩
    · simp only [loadSetup, State.geom, State.lap, pick_tabulate]
      exact fitGates_fits _ _
    · simp only [loadSetup, loadGates, State.input, State.geom, pick_tabulate, InputRec.quiet] at hm ⊢
      exact readMapping_gate_lt hv hm

/-! ### Slips (R13 to R15) -/

theorem writeSlip_kept (i : Fin 32) (n : Nat) (bs : List Byte) (hn : n + bs.length ≤ 16) :
    Kept s (deviceWrite (slipAddr i + n) bs t) := by
  have hb := slipAddr_bounds i
  exact h.steady (deviceWrite_tame (.refl t) (by simp only [DeviceOwned]; omega)) (deviceWrite_steady (.refl t) _ _)

/-- The cursor moves on to the next slip, and the scan may take one less. -/
theorem nextSlip_kept : Kept s ((t.onPort fun p => { p with slipCursor := p.slipCursor + 1 }).onTime fun u =>
    { u with scanLeft := u.scanLeft - 1 }) :=
  h.steady (((Tame.refl t).onPort ⟨id, rfl, id, rfl, rfl, id, id, rfl⟩).onTime _) (((Steady.refl t).onPort rfl).onTime _)

theorem accept_kept : Kept s (acceptSlip t).state := h

theorem withSetup_kept {act : State → SlipAnswer} (ha : Kept s (act t).state) : Kept s (withSetup act t).state := by
  unfold withSetup
  split
  · exact ha
  · exact h

theorem actSetup_kept : Kept s (actSetup t).state := by
  have read := gather_kept h setupBytes
  unfold actSetup
  split
  · exact h
  · dsimp only
    split
    · exact read
    next hv => exact loadSetup_kept read hv

theorem actStart_kept : Kept s (actStart t).state := by
  unfold actStart
  split
  next hs _ =>
    split
    · exact enterCountdown_kept h _ hs
    · exact h
  · exact h

theorem actCall_kept : Kept s (actCall t).state := by
  unfold actCall
  split
  · exact h
  · exact takeCall_kept h _ _

theorem actResume_kept : Kept s (actResume t).state := by
  unfold actResume
  split
  next hs => exact beginResume_kept h _ hs
  · exact h

theorem actEndHeat_kept : Kept s (actEndHeat t).state := by
  unfold actEndHeat
  split
  next hs => exact enterRunout_kept h _ _ _ hs
  · exact h

theorem actAbortHeat_kept : Kept s (actAbortHeat t).state := by
  unfold actAbortHeat
  split
  · exact h
  · exact abortHeat_kept h _

theorem trigger_kept (tr : Fin 8) (k : Lane) (x : Stamp) : Kept s (trigger tr k x t) :=
  h.steady (trigger_tame (.refl t) tr k x) (trigger_steady (.refl t) tr k x)

theorem endService_kept (k : Lane) (x : Stamp) (sub remaining : Nat) : Kept s (endService k x sub remaining t) :=
  h.steady (endService_tame (.refl t) k x sub remaining) (endService_steady (.refl t) k x sub remaining)

theorem actPenalise_kept (r : Slip) : Kept s (actPenalise r t).state := by
  unfold actPenalise
  split
  · exact h
  · split
    · exact h
    · dsimp only
      split
      · exact h
      · exact trigger_kept h _ _ _

theorem actPardon_kept (r : Slip) : Kept s (actPardon r t).state := by
  unfold actPardon
  split
  · exact h
  · split
    · exact h
    · dsimp only
      split
      · exact endService_kept h _ _ _ _
      · split
        · exact h.steady (penNotice_tame ((Tame.refl t).onPenLane { PenTame.refl _ with
          queue := fun hq => (List.length_erase_le).trans hq })
            _ _ _ _ _ _) (penNotice_steady ((Steady.refl t).onPenLane _ _) _ _ _ _ _ _)
        · exact h

theorem actAdjust_kept (r : Slip) : Kept s (actAdjust r t).state := by
  unfold actAdjust
  split
  · exact h
  · split
    · exact h
    · dsimp only
      split
      · exact h
      · split
        · exact h
        · exact h.steady (resort_tame ((Tame.refl t).onLapLane ⟨rfl, rfl, id, id⟩))
            (resort_steady ((Steady.refl t).onLapLane _ _))

theorem actRetire_kept (r : Slip) : Kept s (actRetire r t).state := by
  unfold actRetire
  split
  · exact h
  · split
    · exact h
    · split
      · exact h
      · exact h.steady (handChange_tame ((Tame.refl t).onStandLane _ _) _ _)
          (handChange_steady ((Steady.refl t).onStandLane _ _) _ _)

theorem freeTally_kept (is : List (Fin 64)) : Kept s (is.foldl (fun t i => writeTallyZero 0 0 i t) t) := by
  induction is generalizing t with
  | nil => exact h
  | cons i is ih => exact ih (h.steady (writeTallyZero_tame (.refl _) 0 0 i) (writeTallyZero_steady (.refl _) 0 0 i))

theorem actClearTally_kept : Kept s (actClearTally t).state := by
  unfold actClearTally
  split
  · exact h
  · exact accept_kept (freeTally_kept h allTally)

theorem slipAction_kept (r : Slip) : Kept s (slipAction r t).state := by
  unfold slipAction
  split
  · exact actSetup_kept h
  · exact withSetup_kept h (actStart_kept h)
  · exact actCall_kept h
  · exact actResume_kept h
  · exact withSetup_kept h (actEndHeat_kept h)
  · exact withSetup_kept h (actAbortHeat_kept h)
  · exact withSetup_kept h (actPenalise_kept h r)
  · exact withSetup_kept h (actPardon_kept h r)
  · exact withSetup_kept h (actAdjust_kept h r)
  · exact withSetup_kept h (actRetire_kept h r)
  · exact actClearTally_kept h
  · exact h

theorem finishSlip_kept (r : SlipAnswer) (hr : r.state = t) : Kept s (finishSlip r) := by
  subst hr
  have written := recheck_kept (writeSlip_kept (writeSlip_kept h r.state.port.slipCursor 2 [BitVec.ofNat 8 r.code] (by simp))
    r.state.port.slipCursor 3 [BitVec.ofNat 8 r.detail] (by simp)) (slipHere r.state) 0xFF 1
  unfold finishSlip
  dsimp only
  refine nextSlip_kept ?_
  split
  · exact Kept.steady (writeSlip_kept written r.state.port.slipCursor 0 _ (by simp))
      ((Tame.refl _).onPort { PortTame.refl _ with sum := fun hx => or_and_eq_zero hx rfl }) ((Steady.refl _).onPort rfl)
  · exact written

theorem handleSlip_kept (r : Slip) : Kept s (handleSlip (r, t)) := finishSlip_kept (slipAction_kept h r) _ rfl

theorem fetchSlip_kept : Kept s (fetchSlip t).2 := gather_kept h _

theorem takeSlip_kept (meant : Nat → Bool) : Kept s (takeSlip meant t) := by
  unfold takeSlip
  dsimp only
  split
  · exact handleSlip_kept (fetchSlip_kept (deviceRead_kept h _)) _
  · exact h

theorem scanSlips_kept (n : Nat) : Kept s (scanSlips n t) := by
  induction n generalizing t with
  | zero => exact h
  | succ n ih =>
    have read := deviceRead_kept h (slipHere t)
    unfold scanSlips
    split
    · dsimp only
      split
      · exact ih (handleSlip_kept (fetchSlip_kept read) _)
      · exact read
    · exact h

end

end Sys2Proof.Machine

/-! PROOFS. Service ticks, events in time, and ticks keep every invariant. -/

namespace Sys2Proof.Machine

open Config

/-! ### When an event of race control may come about -/

theorem gapDue_staged {s : State} (h : gapDue s = true) : s.race.state = .staged := by
  unfold gapDue at h
  split at h
  · assumption
  · simp at h

theorem stepDue_countdown {s : State} (h : stepDue s = true) : s.race.state = .countdown := by
  unfold stepDue at h
  split at h
  · assumption
  · simp at h

theorem greenDue_countdown {s : State} (h : greenDue s = true) : s.race.state = .countdown := by
  unfold greenDue at h
  split at h
  · assumption
  · simp at h

theorem limitDue_green {s : State} (h : limitDue s = true) : s.race.state = .green := by
  simp only [limitDue, Bool.and_eq_true, decide_eq_true_eq] at h
  exact h.1.1

theorem resumeEnd_resuming {s : State} {x : Stamp} (h : resumeEnd s = some x) : s.race.state = .resuming := by
  unfold resumeEnd at h
  split at h
  · assumption
  · simp at h

/-! ### The service tick (R33) -/

section
variable {s t : State} (h : Kept s t)
include h

theorem Kept.onTime (f : Timebase → Timebase) : Kept s (t.onTime f) :=
  h.steady ((Tame.refl t).onTime f) ((Steady.refl t).onTime f)

theorem runJob_kept (o : Orders) (j : ServiceJob) : Kept s (runJob o t j) := by
  cases j <;> simp only [runJob, memoryJob]
  case crossingTake => exact crossingWork_kept h o
  all_goals split
  case slipScan.isTrue => exact scanSlips_kept h _
  case noticeRetry.isTrue => exact h.steady (retryNotices_tame (.refl t)) (retryNotices_steady (.refl t))
  case lapBookRetry.isTrue => exact h.steady (retryBooks_tame (.refl t)) (retryBooks_steady (.refl t))
  case statusRefresh.isTrue => exact h.steady (refreshStatus_tame (.refl t)) (refreshStatus_steady (.refl t))
  case heatExamine.isTrue => exact examineCard_kept h
  all_goals exact h

theorem runJobs_kept (o : Orders) (js : List ServiceJob) : Kept s (js.foldl (runJob o) t) := by
  induction js generalizing t with
  | nil => exact h
  | cons j js ih => exact ih (runJob_kept h o j)

theorem serviceTick_kept (jobs : List ServiceJob) (o : Orders) : Kept s (serviceTick jobs o t) := by
  unfold serviceTick
  split
  · exact (runJobs_kept h o _).onTime _
  · exact h

/-! ### Events in time -/

theorem takeGapEnd_kept : Kept s (takeGapEnd t) := by
  unfold takeGapEnd
  split
  · split
    next hd => exact enterCountdown_kept h _ (gapDue_staged hd)
    · exact h
  · exact h

theorem lightNext_kept (hs : t.race.state = .countdown) : Kept s (lightNext t) := by
  have lit : Kept s (t.onRace fun r => { r with
      countdownStep := t.race.countdownStep + 1, lamps := redLamps (t.race.countdownStep + 1) }) :=
    h.steady ((Tame.refl t).onRace _) ((Steady.refl t).onRace rfl rfl rfl)
  unfold lightNext
  dsimp only
  split
  · split
    · exact enterGreen_kept lit _ hs
    · exact lit
  · exact lit

theorem takeCountdownStep_kept : Kept s (takeCountdownStep t) := by
  unfold takeCountdownStep
  split
  next hd => exact lightNext_kept h (stepDue_countdown hd)
  · exact h

theorem takeGreen_kept : Kept s (takeGreen t) := by
  unfold takeGreen
  split
  · split
    next hd => exact enterGreen_kept h _ (greenDue_countdown hd)
    · exact h
  · exact h

theorem takeTimeLimit_kept : Kept s (takeTimeLimit t) := by
  unfold takeTimeLimit
  split
  next hd => exact enterRunout_kept h _ _ _ (limitDue_green hd)
  · exact h

theorem takeExpiry_kept : Kept s (takeExpiry t) := by
  unfold takeExpiry
  split
  · exact h.steady (expireRunout_tame (.refl t) _) (expireRunout_steady (.refl t) _)
  · exact h

theorem takeResumeDone_kept : Kept s (takeResumeDone t) := by
  unfold takeResumeDone
  split
  next hd => exact finishResume_kept h _ (resumeEnd_resuming hd)
  · exact h

theorem takeFlash_kept : Kept s (takeFlash t) := by
  unfold takeFlash
  split
  · split
    · exact h.steady ((Tame.refl t).onRace _) ((Steady.refl t).onRace rfl rfl rfl)
    · exact h
  · exact h

theorem takeHaltExpiry_kept (k : Lane) : Kept s (takeHaltExpiry k t) := by
  unfold takeHaltExpiry
  split
  · exact endService_kept h _ _ _ _
  · exact h

theorem takeStall_kept (k : Lane) : Kept s (takeStall k t) := by
  have noted : ∀ n : Notice, Kept s (deliver n (t.onLapLane k fun l => { l with stalled := true })) := fun n =>
    h.steady (deliver_tame ((Tame.refl t).onLapLane ⟨rfl, rfl, id, id⟩) n) (deliver_steady ((Steady.refl t).onLapLane _ _) n)
  unfold takeStall stallLane
  dsimp only
  split
  · split
    · exact takeCall_kept (noted _) _ _
    · exact noted _
  · exact h

/-- Lanes of lane power changed so that a lane that agrees with its inputs still does (R162 to R165). -/
theorem Kept.onPowerLanes {f : LanePower → LanePower} (hstate : (f t.power).state = t.power.state)
    (hgrid : (f t.power).liveGrid = t.power.liveGrid)
    (hf : ∀ k c, LaneAgrees c (t.powerLane k) → LaneAgrees c (pick (f t.power).lanes k))
    (hin : ∀ k, (pick (f t.power).lanes k).occupied = (t.powerLane k).occupied ∧
      (pick (f t.power).lanes k).finished = (t.powerLane k).finished ∧
      (pick (f t.power).lanes k).serving = (t.powerLane k).serving) : Kept s (t.onPower f) where
  pending := h.pending
  memory := h.memory
  registers := h.registers
  queues := h.queues
  gates := h.gates
  spared := h.spared
  race hs := by
    obtain ⟨hfrom, hsnap, hheat, hpower⟩ := h.race hs
    exact ⟨hfrom, hsnap, hheat, hstate.trans hpower⟩
  power hs := (powerSound_iff _).mpr fun k => by
    obtain ⟨ho, hfin, hserving⟩ := hin k
    rw [laneCondition_congr (s := t) (t := t.onPower f) (k := k) rfl hstate hgrid ho hfin hserving]
    exact hf k _ (h.power hs k)

end

theorem laneAgrees_latchPin {c : Bool} {l : PowerLane} (h : LaneAgrees c l) : LaneAgrees c (latchPin l) := by
  obtain ⟨hcond, hoff, hon⟩ := h
  unfold latchPin
  split
  · exact ⟨hcond, fun hc => ⟨rfl, (hoff hc).2⟩, hon⟩
  next hd =>
    refine ⟨hcond, fun hc => ?_, hon⟩
    rw [(hoff hc).2.2] at hd
    simp at hd

theorem latchPin_inputs (l : PowerLane) : (latchPin l).occupied = l.occupied ∧ (latchPin l).finished = l.finished ∧
    (latchPin l).serving = l.serving := by
  unfold latchPin
  split <;> exact ⟨rfl, rfl, rfl⟩

theorem laneAgrees_catchPin {c : Bool} {l : PowerLane} (h : LaneAgrees c l) : LaneAgrees c (catchPin l) := by
  obtain ⟨hcond, hoff, hon⟩ := h
  refine ⟨hcond, fun hc => ⟨(hoff hc).1, (hoff hc).2.1, ?_⟩, hon⟩
  change l.cond = false at hc
  simp [catchPin, hc]

theorem sampleInput_mapping (x : Stamp) (high : Bool) (r : InputRec) : (sampleInput x high r).mapping = r.mapping := by
  unfold sampleInput
  split
  · rfl
  · dsimp only
    split <;> split <;> rfl

theorem sampleGates_queue (x : Stamp) (p : Sample) (g : GateFront) : (sampleGates x p g).queue = g.queue := by
  unfold sampleGates
  rfl

theorem sampleGates_mapping (x : Stamp) (p : Sample) (g : GateFront) (n : GateIn) :
    (pick (sampleGates x p g).inputs n).mapping = (pick g.inputs n).mapping := by
  simp only [sampleGates, pick_tabulate, sampleInput_mapping]

theorem advanceChop_lane (p : LanePower) (k : Lane) : pick (advanceChop p).lanes k =
    if p.chopCounter + 1 = 0 then catchPin (pick p.lanes k) else pick p.lanes k := by
  unfold advanceChop
  dsimp only
  by_cases hc : p.chopCounter + 1 = 0 <;> simp [hc]

section
variable {s t : State} (h : Kept s t)
include h

theorem takeChop_kept : Kept s (takeChop t) := by
  unfold takeChop
  split
  · refine h.onPowerLanes rfl rfl (fun k c hk => ?_) fun k => ?_ <;> simp only [pick_map]
    · exact laneAgrees_latchPin hk
    · exact latchPin_inputs _
  · exact h

theorem takeRampStep_kept (k : Lane) : Kept s (takeRampStep k t) := by
  unfold takeRampStep
  split
  next hon =>
    simp only [Bool.and_eq_true] at hon
    refine h.onPowerLanes rfl rfl (fun j c hj => ?_) fun j => ?_ <;> by_cases hk : j = k
    · subst hk
      simp only [pick_amend_same]
      obtain rfl : c = true := hj.1.symm.trans hon.1
      exact laneAgrees_setDuty _ _ hon.1
    · simp only [pick_amend_ne _ _ hk]
      exact hj
    · subst hk
      simp only [pick_amend_same]
      exact setDuty_inputs _ _ _
    · simp only [pick_amend_ne _ _ hk]
      exact ⟨rfl, rfl, rfl⟩
  · exact h

/-! ### The tick (R24) -/

theorem advanceChop_kept : Kept s (t.onPower advanceChop) := by
  refine h.onPowerLanes rfl rfl (fun k c hk => ?_) fun k => ?_ <;> rw [advanceChop_lane] <;> split
  · exact laneAgrees_catchPin hk
  · exact hk
  · exact ⟨rfl, rfl, rfl⟩
  · exact ⟨rfl, rfl, rfl⟩

/-- The pins as the last tick sampled them are in no invariant. -/
theorem Kept.setPins (pins : Sample) : Kept s { t with pins := pins } := { h with }

theorem advance_kept (pins : Sample) : Kept s (advance pins t) := by
  have counted := advanceChop_kept (h.onTime (advanceTime t.race.state.racing))
  unfold advance
  dsimp only
  exact Kept.setPins (counted.onFront (sampleGates_queue _ _ _) fun n => sampleGates_mapping _ _ _ n) pins

theorem landAll_kept : Kept s (landAll t) :=
  h.steady (landAll_tame (.refl t)) (.of_keeps (by simp) (by simp) (by simp) (by simp))

/-- A work done for one after the other. -/
theorem foldl_kept {α : Type} {f : α → State → State} (l : List α)
    (hf : ∀ a ∈ l, ∀ {u : State}, Kept s u → Kept s (f a u)) : Kept s (l.foldl (fun u a => f a u) t) := by
  induction l generalizing t with
  | nil => exact h
  | cons a l ih => exact ih (hf a List.mem_cons_self h) fun b hb => hf b (List.mem_cons_of_mem a hb)

theorem finishClear_kept : Kept s (finishClear t) := by
  unfold finishClear
  split
  next hp =>
    exact
      { pending := h.pending, memory := fun _ => by simp [MemorySound, Memory.wf], queues := h.queues, gates := h.gates, race := h.race
        power := h.power
        registers := fun hs => by
          obtain ⟨hsum, hrest⟩ := h.registers hs
          exact ⟨or_and_eq_zero hsum rfl, hrest⟩
        spared := fun hq hc => absurd hp (h.spared hq hc).2.1 }
  · exact h

theorem finishSoftReset_kept : Kept s (finishSoftReset t) := by
  unfold finishSoftReset
  split
  · have started : Kept s ((refreshStatus t).onPort (HostPort.setSum sumStarted)) :=
      h.steady ((refreshStatus_tame (.refl t)).onPort { PortTame.refl _ with sum := fun hx => or_and_eq_zero hx rfl })
        ((refreshStatus_steady (.refl t)).onPort rfl)
    exact { started with
      spared := fun hq hc => ⟨(started.spared hq hc).1, by simp, (started.spared hq hc).2.2⟩ }
  · exact h

theorem clockNotice_kept (sub a b : Nat) : Kept s (clockNotice sub a b t) :=
  h.steady (clockNotice_tame (.refl t) sub a b) (deliver_steady (.refl t) _)

theorem wrapNotice_kept : Kept s (wrapNotice t) := by
  unfold wrapNotice
  split
  · exact clockNotice_kept (h.onTime _) _ _ _
  · exact h

theorem forceClear_kept : Kept s (forceClear t) := by
  unfold forceClear
  split
  · exact finishClear_kept h
  · exact h

theorem forceSoftEnd_kept : Kept s (forceSoftEnd t) := by
  unfold forceSoftEnd
  split
  · exact finishSoftReset_kept h
  · exact h

end

/-- Every work that may be due keeps the invariants (log 8). -/
theorem agenda_kept (s : State) : ∀ f ∈ agenda, ∀ {u : State}, Kept s u → Kept s (f u) := by
  simp only [agenda, List.forall_mem_cons, List.not_mem_nil, false_implies, implies_true, and_true]
  exact ⟨takeChop_kept, wrapNotice_kept, forceClear_kept, forceSoftEnd_kept,
    fun hu => foldl_kept hu allInputs fun n _ _ hv => takeBreak_kept hv n,
    fun hu => foldl_kept hu allInputs fun n _ _ hv => takeRelease_kept hv n,
    fun hu => foldl_kept hu allInputs fun n _ _ hv => takeStuck_kept hv n,
    fun hu => foldl_kept hu allButtons fun b _ _ hv => takePress_kept hv b,
    fun hu => foldl_kept hu allButtons fun b _ _ hv => takeButtonRelease_kept hv b,
    fun hu => foldl_kept hu allLanes fun k _ _ hv => takeRise_kept hv k,
    fun hu => foldl_kept hu allLanes fun k _ _ hv => takeFall_kept hv k,
    fun hu => serviceTick_kept hu [] plainOrders, takeGapEnd_kept, takeCountdownStep_kept,
    fun hu => foldl_kept hu allLanes fun k _ _ hv => takeRunEnd_kept hv k,
    takeGreen_kept, takeResumeDone_kept, takeTimeLimit_kept,
    fun hu => foldl_kept hu allLanes fun k _ _ hv => takeHaltExpiry_kept hv k,
    takeExpiry_kept, fun hu => takeAllDue_kept hu plainOrders,
    fun hu => foldl_kept hu allLanes fun k _ _ hv => takeStall_kept hv k, takeFlash_kept,
    fun hu => foldl_kept hu allLanes fun k _ _ hv => takeRampStep_kept hv k⟩

section
variable {s t : State} (h : Kept s t)
include h

theorem catchUp_kept : Kept s (catchUp t) := foldl_kept h agenda fun f hf _ hu => agenda_kept s f hf hu

theorem nextTick_kept (pins : Sample) : Kept s (nextTick pins t) := advance_kept (landAll_kept (catchUp_kept h)) pins

/-! ### The sources of the timebase (R24 to R27) -/

theorem feed_kept (pins : Sample) (units : Nat) : Kept s (feed pins units t) := by
  unfold feed
  dsimp only
  split
  · exact nextTick_kept (h.onTime _) pins
  · exact h.onTime _

theorem reportLoss_kept : Kept s (reportLoss t) :=
  h.steady (clockNotice_tame (((Tame.refl t).onPort { PortTame.refl _ with flt := fun hx => or_and_eq_zero hx rfl }).onTime _) 1 0 0)
    (deliver_steady (((Steady.refl t).onPort rfl).onTime _) _)

theorem lockReference_kept : Kept s (lockReference t) := clockNotice_kept (h.onTime _) _ _ _

theorem clockEdge_kept (pins : Sample) : Kept s (clockEdge pins t) := by
  unfold clockEdge
  split
  · exact h.onTime _
  · split
    · exact lockReference_kept h
    · exact h.onTime _
  · exact feed_kept (h.onTime _) pins 1

theorem clockUnit_kept (pins : Sample) : Kept s (clockUnit pins t) := by
  unfold clockUnit
  dsimp only
  split
  · exact feed_kept h pins 1
  · refine feed_kept ?_ pins 1
    split <;> exact h.onTime _
  · split
    · exact reportLoss_kept (feed_kept h pins _)
    · exact h.onTime _

theorem clockEvent_kept (pins : Sample) (e : ClockEvent) : Kept s (clockEvent pins e t) := by
  cases e
  · exact clockUnit_kept h pins
  · exact clockEdge_kept h pins

theorem runClock_kept (pins : Sample) (es : List ClockEvent) : Kept s (runClock pins es t) := by
  induction es generalizing t with
  | nil => exact h
  | cons e es ih =>
    unfold runClock
    dsimp only
    split
    · exact ih (clockEvent_kept h pins e)
    · exact clockEvent_kept h pins e

theorem runWarmup_kept (pins : Sample) (es : List ClockEvent) : Kept s (runWarmup pins es t) := by
  induction es generalizing t with
  | nil => exact h
  | cons e es ih =>
    unfold runWarmup
    split
    · exact ih (clockEvent_kept h pins e)
    · exact h

theorem passUnits_kept (pins : Sample) (n : Nat) : Kept s (passUnits pins n t) := by
  induction n generalizing t with
  | zero => exact h
  | succ n ih => exact ih (clockUnit_kept h pins)

theorem takeTick_kept (run : ClockRun) : Kept s (takeTick run t) := by
  unfold takeTick
  split
  · exact runClock_kept h _ _
  · exact h

theorem takeRefLost_kept (pins : Sample) : Kept s (takeRefLost pins t) := by
  unfold takeRefLost
  split
  · exact passUnits_kept h _ _
  · exact h

theorem takeRefBack_kept (run : ClockRun) : Kept s (takeRefBack run t) := by
  unfold takeRefBack
  split
  · exact runWarmup_kept h _ _
  · exact h

theorem takeWrap_kept (run : ClockRun) : Kept s (takeWrap run t) := by
  unfold takeWrap
  split
  · exact wrapNotice_kept h
  · split
    · exact wrapNotice_kept (takeTick_kept h run)
    · exact h

end

end Sys2Proof.Machine

/-! PROOFS. Resets and register writes keep every invariant. -/

namespace Sys2Proof.Machine

open Config

theorem masked_and_eq_zero {x m n : Byte} (h : m &&& n = 0) : x &&& m &&& n = 0 := by
  rw [BitVec.and_assoc, h]
  exact BitVec.and_zero

/-! ### The reset state meets every invariant -/

theorem reset_registersSound : RegistersSound State.reset := by
  simp [RegistersSound, State.reset, HostPort.reset]

theorem reset_queuesSound : QueuesSound State.reset := by
  simp [QueuesSound, State.reset, HostPort.reset, GateFront.reset, State.lap, State.penLane, LapEngine.reset,
    LapLane.reset, PenaltyUnit.reset, PenLane.reset]

theorem reset_raceSound : RaceSound State.reset := by
  simp [RaceSound, State.reset, RaceControl.reset, PenaltyUnit.reset, LanePower.reset, RaceState.frozen]

theorem reset_gatesSound : GatesSound State.reset := by
  simp [GatesSound, State.reset, GateFront.reset, State.lap, State.geom, State.input, LapEngine.reset, LapLane.reset,
    InputRec.quiet]

theorem reset_powerSound : PowerSound State.reset := by
  simp [PowerSound, State.reset, State.powerLane, LanePower.reset, PowerLane.reset, laneCondition]

/-! ### Resets (R21 to R23) -/

theorem beginHardReset_sound (s : State) : Sound s (beginHardReset s) where
  pending := rfl
  memory := id
  registers _ := reset_registersSound
  queues _ := reset_queuesSound
  gates _ := reset_gatesSound
  race _ := reset_raceSound
  power _ := reset_powerSound

theorem riseReset_sound (b : Bool) (s : State) : Sound s (riseReset b s) := by
  unfold riseReset
  split <;> exact ⟨rfl, id, id, id, id, id, id⟩

theorem riseReset_mem (b : Bool) (s : State) : (riseReset b s).mem = s.mem := by
  unfold riseReset
  split <;> rfl

section
variable {s t : State} (h : Kept s t)
include h

theorem softBlocks_kept : Kept s (softBlocks t) where
  pending := h.pending
  memory := h.memory
  registers _ := by
    obtain ⟨hsum, hsumen, hflt, hflten, -⟩ := reset_registersSound
    exact ⟨hsum, hsumen, hflt, hflten, masked_and_eq_zero (x := t.port.ctl) (m := ctlLanesOff) (by decide)⟩
  queues _ := reset_queuesSound
  gates _ := reset_gatesSound
  race _ := reset_raceSound
  power _ k := by simp [softBlocks, State.reset, State.powerLane, LanePower.reset, PowerLane.reset, laneCondition]
  spared hq hp := ⟨(h.spared hq hp).1, by simp [softBlocks], (h.spared hq hp).2.2⟩

theorem voidHeat_kept (was : RaceControl) : Kept s (voidHeat was t) := by
  have read := deviceRead_kept h (entryAddr was.cardCursor)
  have checked := recheck_kept (writeEntry_kept (deviceRead_kept read (entryAddr was.cardCursor + 1)) was.cardCursor 7 [7]
    (by simp)) (entryAddr was.cardCursor) 0xFF 2
  unfold voidHeat
  split
  · exact h
  · dsimp only
    split
    · split
      · exact Kept.steady (writeEntry_kept checked was.cardCursor 0 _ (by simp)) (deliver_tame (.refl _) _)
          (deliver_steady (.refl _) _)
      · exact checked
    · exact read

theorem beginSoftReset_kept : Kept s (beginSoftReset t) := voidHeat_kept (softBlocks_kept h) _

/-! ### Host accesses (R1, R3) -/

/-- Registers written within their bits, with CTL as it was. -/
theorem Kept.onRegisters {f : HostPort → HostPort} (hr : RegistersSound t → RegistersSound (t.onPort f))
    (hctl : (f t.port).ctl = t.port.ctl) (hq : (f t.port).noticeQueue = t.port.noticeQueue)
    (hl : (f t.port).noticeLost = t.port.noticeLost) (ht : (f t.port).turns = t.port.turns) : Kept s (t.onPort f) where
  pending := h.pending
  memory := h.memory
  registers hs := hr (h.registers hs)
  queues hs := by
    obtain ⟨hgates, hqueue, hlost, hlanes⟩ := h.queues hs
    exact ⟨hgates, by rw [State.onPort_port, hq]; exact hqueue, by rw [State.onPort_port, hl]; exact hlost, hlanes⟩
  gates := h.gates
  race := h.race
  power hs := powerSound_congr (s := t) rfl hctl (h.power hs)
  spared hs hp := ⟨ht.trans (h.spared hs hp).1, (h.spared hs hp).2⟩

theorem writeLanesOff_kept (b : Bool) : Kept s (writeLanesOff b t) := by
  unfold writeLanesOff
  split
  · exact h
  · have tame := evalAll_tame (.refl (t.onPort fun p => { p with ctl := if b then ctlLanesOff else 0 })) (now t)
    exact
      { pending := tame.pending.trans h.pending, memory := tame.memory ∘ h.memory, queues := tame.queues ∘ h.queues
        gates := tame.gatesSound ∘ h.gates
        registers := fun hs => by
          obtain ⟨hsum, hsumen, hflt, hflten, -⟩ := h.registers hs
          refine tame.registers ⟨hsum, hsumen, hflt, hflten, ?_⟩
          change (if b then ctlLanesOff else 0) &&& 0xFD = 0
          cases b <;> decide
        race := fun hs => by
          have state : ∀ v : State, (evalAll (now t) v).power.state = v.power.state := fun v => by rw [evalAll_eq]
          have hr := h.race hs
          unfold RaceSound at hr ⊢
          rw [state]
          simpa using hr
        power := fun _ => powerSound_evalAll _ _
        spared := fun hq hp => by
          obtain ⟨ht, hph, hb⟩ := h.spared hq hp
          obtain ⟨hu, hc⟩ := tame.spared ht
          exact ⟨hu, tame.phase ▸ hph, fun j hj => (hc j hj).trans (hb j hj)⟩ }
  
theorem writeCtl_kept (d : Byte) : Kept s (writeCtl d t) := by
  unfold writeCtl
  dsimp only
  split
  · exact beginSoftReset_kept (writeLanesOff_kept h _)
  · exact writeLanesOff_kept h _

theorem driveData_kept (b : Option Byte) : Kept s (driveData b t) := h.onRegisters id rfl rfl rfl rfl

theorem writeRegister_kept (offset : BitVec 3) (d : Byte) : Kept s (writeRegister offset d t) := by
  unfold writeRegister
  split
  · refine h.onRegisters (fun ⟨_, hrest⟩ => ⟨?_, hrest⟩) rfl rfl rfl rfl
    exact masked_and_eq_zero rfl
  · refine h.onRegisters (fun ⟨hsum, _, hrest⟩ => ⟨hsum, ?_, hrest⟩) rfl rfl rfl rfl
    exact masked_and_eq_zero rfl
  · refine h.onRegisters (fun ⟨hsum, hsumen, _, hrest⟩ => ⟨hsum, hsumen, ?_, hrest⟩) rfl rfl rfl rfl
    exact masked_and_eq_zero rfl
  · refine h.onRegisters (fun ⟨hsum, hsumen, hflt, _, hrest⟩ => ⟨hsum, hsumen, hflt, ?_, hrest⟩) rfl rfl rfl rfl
    exact masked_and_eq_zero rfl
  · exact writeCtl_kept h d
  · exact h

theorem hostRegister_kept (offset : BitVec 3) (d : Byte) : Kept s (hostRegister offset d t) := by
  unfold hostRegister
  split
  · exact h
  · exact writeRegister_kept (driveData_kept h none) offset d

end

end Sys2Proof.Machine

/-! PROOFS. Every command answers a next state and keeps every invariant. -/

namespace Sys2Proof.Machine

open Config

/-! ### Host accesses to record memory (R1, R2) -/

theorem transfer_sound (a : BitVec 15) (d : Option Byte) (s : State) : Sound s (transfer a d s) := by
  have only : BytesOnly s (transfer a d s) := by constructor <;> simp
  exact
    { pending := only.pending, memory := transfer_wf a d s
      registers := by simp only [RegistersSound, only.sum, only.sumen, only.flt, only.flten, only.ctl]; exact id
      queues := by
        simp only [QueuesSound, State.lap, State.penLane, only.gates, only.laps, only.pen, only.queue, only.lost]
        exact id
      gates := by simp only [GatesSound, State.lap, State.geom, State.input, only.gates, only.laps]; exact id
      race := (Steady.of_keeps (by simp) (by simp) (by simp) (by simp)).race
      power := (Steady.of_keeps (by simp) (by simp) (by simp) (by simp)).power }

theorem Sound.trans {s t u : State} (h : Sound s t) (g : Sound t u) : Sound s u :=
  ⟨g.pending.trans h.pending, g.memory ∘ h.memory, g.registers ∘ h.registers, g.queues ∘ h.queues, g.gates ∘ h.gates,
    g.race ∘ h.race, g.power ∘ h.power⟩

theorem memoryAccess_sound (l : Landing) (a : BitVec 15) (d : Option Byte) (s : State) :
    Sound s (memoryAccess l a d s) := by
  cases l with
  | whole => exact (landAll_kept (.refl s)).toSound.trans (transfer_sound a d _)
  | inside n => exact ⟨rfl, id, id, id, id, id, id⟩

theorem hostRead_sound (r : HostRead) (s : State) : Sound s (hostRead r s) := by
  have driven := fun b => (driveData_kept (.refl s) b).toSound
  unfold hostRead
  split
  · exact (Kept.refl s).toSound
  · split
    · exact driven _
    · split
      · exact driven _
      · split
        · exact memoryAccess_sound _ _ _ _
        · exact driven _

theorem hostWrite_sound (bus : BusLines) (data : Byte) (l : Landing) (s : State) : Sound s (hostWrite bus data l s) := by
  have driven := driveData_kept (.refl s) none
  unfold hostWrite
  split
  · exact (Kept.refl s).toSound
  · split
    · exact driven.toSound
    · split
      · exact (writeRegister_kept driven _ _).toSound
      · split
        · exact memoryAccess_sound _ _ _ _
        · exact driven.toSound

/-- With no host access waiting a host read leaves record memory as it is. -/
theorem hostRead_mem (r : HostRead) (s : State) (hq : s.port.turns = []) : (hostRead r s).mem = s.mem := by
  unfold hostRead
  split
  · rfl
  · split
    · simp
    · split
      · simp
      · split
        · unfold memoryAccess
          split
          · simp [landAll_idle s hq, transfer]
          · rfl
        · simp

/-! ### Every command -/

/-- A command answers t: the waiting commands untouched, every invariant kept, and, but for a host write, no byte of a host
region written outside a memory clear. -/
structure Answers (c : Instr) (s t : State) : Prop where
  next : exec c s = .next t
  sound : Sound s t
  spared : s.port.turns = [] → s.phase ≠ .clearing → (∀ bus data landing, c ≠ .hostMemoryWrite bus data landing) →
    ∀ j, HostOwned j → readByte t j = readByte s j

theorem Kept.answers {c : Instr} {s t : State} (h : Kept s t) (hc : exec c s = .next t) : Answers c s t :=
  ⟨hc, h.toSound, fun hq hp _ => (h.spared hq hp).2.2⟩

theorem exec_answers (c : Instr) (s : State) : ∃ t, Answers c s t := by
  have slip : ∀ (meant : Nat → Bool) {c : Instr}, exec c s = .next (takeSlip meant s) → ∃ t, Answers c s t :=
    fun meant _ hc => ⟨_, (takeSlip_kept (.refl s) meant).answers hc⟩
  have register : ∀ (o : BitVec 3) (d : Byte) {c : Instr}, exec c s = .next (hostRegister o d s) → ∃ t, Answers c s t :=
    fun o d _ hc => ⟨_, (hostRegister_kept (.refl s) o d).answers hc⟩
  cases c with
  | hardReset => exact ⟨_, rfl, beginHardReset_sound s, fun _ _ _ _ _ => rfl⟩
  | memoryClearDone => exact ⟨_, (finishClear_kept (.refl s)).answers rfl⟩
  | softReset data => exact register 4 data rfl
  | softResetEnd => exact ⟨_, (finishSoftReset_kept (.refl s)).answers rfl⟩
  | hostMemoryRead bus =>
    refine ⟨_, rfl, hostRead_sound bus s, fun hq _ _ j _ => ?_⟩
    simp only [readByte, hostRead_mem bus s hq]
  | hostMemoryWrite bus data landing =>
    exact ⟨_, rfl, hostWrite_sound bus data landing s, fun _ _ hc => absurd rfl (hc bus data landing)⟩
  | sumWrite data => exact register 0 data rfl
  | sumenWrite data => exact register 1 data rfl
  | fltWrite data => exact register 2 data rfl
  | fltenWrite data => exact register 3 data rfl
  | lanesOff data => exact register 4 data rfl
  | unusedRegisterWrite offset data => exact register offset data rfl
  | refLost pins => exact ⟨_, (takeRefLost_kept (.refl s) pins).answers rfl⟩
  | warmupStart =>
    refine ⟨_, Kept.answers ?_ rfl⟩
    split
    · exact (Kept.refl s).onTime _
    · exact .refl s
  | refBack run => exact ⟨_, (takeRefBack_kept (.refl s) run).answers rfl⟩
  | tickCountWrap run => exact ⟨_, (takeWrap_kept (.refl s) run).answers rfl⟩
  | serviceTick jobs orders => exact ⟨_, (serviceTick_kept (.refl s) jobs orders).answers rfl⟩
  | setup => exact slip _ rfl
  | start => exact slip _ rfl
  | call => exact slip _ rfl
  | resume => exact slip _ rfl
  | endHeat => exact slip _ rfl
  | abortHeat => exact slip _ rfl
  | penalise => exact slip _ rfl
  | pardon => exact slip _ rfl
  | adjust => exact slip _ rfl
  | retire => exact slip _ rfl
  | clearTally => exact slip _ rfl
  | slipBadKind => exact slip _ rfl
  | qualifiedBreak input => exact ⟨_, (takeBreak_kept (.refl s) input).answers rfl⟩
  | breakReleased input => exact ⟨_, (takeRelease_kept (.refl s) input).answers rfl⟩
  | gateStuck input => exact ⟨_, (takeStuck_kept (.refl s) input).answers rfl⟩
  | driverCallPress lane => exact ⟨_, (takePress_kept (.refl s) (.driver lane)).answers rfl⟩
  | marshalPostPress post => exact ⟨_, (takePress_kept (.refl s) (.marshal post)).answers rfl⟩
  | directorResumePress => exact ⟨_, (takePress_kept (.refl s) .director).answers rfl⟩
  | buttonRelease button => exact ⟨_, (takeButtonRelease_kept (.refl s) button).answers rfl⟩
  | drawRise lane => exact ⟨_, (takeRise_kept (.refl s) lane).answers rfl⟩
  | drawFall lane => exact ⟨_, (takeFall_kept (.refl s) lane).answers rfl⟩
  | raceChangeTake orders => exact ⟨_, (takeChange_kept (.refl s) orders).answers rfl⟩
  | stall lane => exact ⟨_, (takeStall_kept (.refl s) lane).answers rfl⟩
  | gapEnd => exact ⟨_, (takeGapEnd_kept (.refl s)).answers rfl⟩
  | countdownStep => exact ⟨_, (takeCountdownStep_kept (.refl s)).answers rfl⟩
  | greenEntry => exact ⟨_, (takeGreen_kept (.refl s)).answers rfl⟩
  | drawRunEnd lane => exact ⟨_, (takeRunEnd_kept (.refl s) lane).answers rfl⟩
  | timeLimit => exact ⟨_, (takeTimeLimit_kept (.refl s)).answers rfl⟩
  | runoutExpiry => exact ⟨_, (takeExpiry_kept (.refl s)).answers rfl⟩
  | resumeDone => exact ⟨_, (takeResumeDone_kept (.refl s)).answers rfl⟩
  | lampFlash => exact ⟨_, (takeFlash_kept (.refl s)).answers rfl⟩
  | haltExpiry lane => exact ⟨_, (takeHaltExpiry_kept (.refl s) lane).answers rfl⟩
  | rampStep lane => exact ⟨_, (takeRampStep_kept (.refl s) lane).answers rfl⟩
  | chopPeriodStart => exact ⟨_, (takeChop_kept (.refl s)).answers rfl⟩
  | tick run => exact ⟨_, (takeTick_kept (.refl s) run).answers rfl⟩
  | resetRisingEdge refRunning =>
    refine ⟨_, rfl, riseReset_sound refRunning s, fun _ _ _ j _ => ?_⟩
    simp only [readByte, riseReset_mem]

theorem exec_sound {c : Instr} {s t : State} (h : exec c s = .next t) : Sound s t := by
  obtain ⟨u, hu⟩ := exec_answers c s
  obtain rfl : u = t := Host.Outcome.next.inj (hu.next.symm.trans h)
  exact hu.sound

/-- A step runs a command on the state with the rest of the queue, and no invariant reads the queue. -/
theorem step_sound {s t : State} (h : step s = .next t) :
    (MemorySound s → MemorySound t) ∧ (RegistersSound s → RegistersSound t) ∧ (QueuesSound s → QueuesSound t) ∧
      (GatesSound s → GatesSound t) ∧ (RaceSound s → RaceSound t) ∧ (PowerSound s → PowerSound t) := by
  unfold step at h
  split at h
  · obtain rfl := Host.Outcome.next.inj h
    exact ⟨id, id, id, id, id, id⟩
  next c rest _ =>
    obtain ⟨-, hmemory, hregisters, hqueues, hgates, hrace, hpower⟩ := exec_sound h
    exact ⟨hmemory, hregisters, hqueues, hgates, hrace, hpower⟩

/-! ### The statements -/

/-- Settles O4: every command keeps record memory in its canonical form (`exec_answers`). -/
theorem stepKeepsMemoryCanonical : Obligations.StepKeepsMemoryCanonical := fun _ _ hs h => (step_sound h).1 hs

/-- Settles O5. -/
theorem stepKeepsRegistersAndQueues : Obligations.StepKeepsRegistersAndQueues := fun _ _ hr hq h =>
  ⟨(step_sound h).2.1 hr, (step_sound h).2.2.1 hq⟩

/-- Settles O6. -/
theorem stepKeepsRaceConsistent : Obligations.StepKeepsRaceConsistent := fun _ _ hs h => (step_sound h).2.2.2.2.1 hs

/-- Settles O7. -/
theorem stepKeepsLanePowerInAgreement : Obligations.StepKeepsLanePowerInAgreement := fun _ _ hs h =>
  (step_sound h).2.2.2.2.2 hs

/-- Settles O8. -/
theorem stepKeepsGatesWithinGeometry : Obligations.StepKeepsGatesWithinGeometry := fun _ _ hs h =>
  (step_sound h).2.2.2.1 hs

/-- Settles O9: with no host access waiting, only a host write stores into a host region. -/
theorem deviceSparesHostRegions : Obligations.DeviceSparesHostRegions := by
  intro c s t hq hp hc h
  obtain ⟨u, hu⟩ := exec_answers c s
  obtain rfl : u = t := Host.Outcome.next.inj (hu.next.symm.trans h)
  exact hu.spared hq hp hc

/-- Settles O2: every command answers a next state (`exec_answers`). -/
theorem commandsAnswerNextAndLeaveQueue : Obligations.CommandsAnswerNextAndLeaveQueue := fun c s => by
  obtain ⟨t, ht⟩ := exec_answers c s
  exact ⟨t, ht.next, ht.sound.pending⟩

/-- Settles O1. -/
theorem stepRunsFrontCommand : Obligations.StepRunsFrontCommand := fun _ _ _ => rfl

/-- Settles O3: each predicate is checked on the reset values. -/
theorem resetStateIsSound : Obligations.ResetStateIsSound :=
  ⟨reset_memory_wf, reset_registersSound, reset_queuesSound, reset_raceSound, reset_gatesSound, reset_powerSound⟩

end Sys2Proof.Machine

/-! PROOFS. Hard reset and cold start (R21, R37), and what the host's register writes do. -/

namespace Sys2Proof.Machine

open Config

/-! ### Hard reset -/

theorem registerValue_reset (o : BitVec 3) : registerValue o HostPort.reset = 0 := by
  revert o
  decide

theorem irqLow_reset : irqLow HostPort.reset = false := by decide

theorem now_reset : now State.reset = 0 := by decide

theorem heatClock_reset : heatClock State.reset = 0 := by decide

theorem reset_input (n : GateIn) : State.reset.input n = InputRec.quiet none := by
  simp [State.input, State.reset, GateFront.reset]

theorem reset_lap (k : Lane) : State.reset.lap k = LapLane.reset := by
  simp [State.lap, State.reset, LapEngine.reset]

theorem reset_penLane (k : Lane) : State.reset.penLane k = PenLane.reset := by
  simp [State.penLane, State.reset, PenaltyUnit.reset]

theorem reset_powerLane (k : Lane) : State.reset.powerLane k = PowerLane.reset := by
  simp [State.powerLane, State.reset, LanePower.reset]

theorem reset_standLane (k : Lane) : State.reset.standLane k = StandLane.reset := by
  simp [State.standLane, State.reset, Standings.reset]

/-- What a hard reset leaves in the blocks is the reset state's, lane by lane and input by input. -/
theorem beginHardReset_lanes (s : State) (k : Lane) : (beginHardReset s).lap k = LapLane.reset ∧
    (beginHardReset s).penLane k = PenLane.reset ∧ (beginHardReset s).powerLane k = PowerLane.reset ∧
    (beginHardReset s).standLane k = StandLane.reset :=
  ⟨reset_lap k, reset_penLane k, reset_powerLane k, reset_standLane k⟩

/-- Settles O10: every field named is a field of the reset state. -/
theorem hardResetGivesResetValues : Obligations.HardResetGivesResetValues := by
  intro s
  refine ⟨beginHardReset s, rfl, rfl, rfl, registerValue_reset, irqLow_reset, rfl, rfl, rfl, rfl, rfl, rfl, now_reset, rfl, rfl, rfl,
    rfl, rfl, heatClock_reset, rfl, rfl, fun n => ?_, rfl, fun n => ?_, rfl, rfl, rfl, rfl, rfl, rfl, rfl, rfl, rfl, rfl, rfl, rfl, rfl,
    rfl, rfl, rfl, rfl, rfl, fun k => ?_⟩
  · rw [show (beginHardReset s).input n = InputRec.quiet none from reset_input n]
    exact ⟨rfl, rfl, rfl⟩
  · simp [beginHardReset, State.reset, GateFront.reset, Debounce.reset]
  · obtain ⟨hlap, hpen, hpower, hstand⟩ := beginHardReset_lanes s k
    simp only [pinHigh, finalDistance, hlap, hpen, hpower, hstand]
    simp [beginHardReset, State.reset, GateFront.reset, Debounce.reset, LapLane.reset, PenLane.reset, PowerLane.reset,
      StandLane.reset, RaceControl.reset]

/-! ### Cold start -/

/-- While RESET# is low the device ignores the bus and nothing counts (R1, R24). -/
theorem hostRegister_inReset {s : State} (h : s.phase = .inReset) (o : BitVec 3) (d : Byte) : hostRegister o d s = s :=
  if_pos h

theorem counting_inReset {s : State} (h : s.phase = .inReset) : counting s = false := by simp [counting, h]

theorem hostRegister_of_ne_inReset {s : State} (h : s.phase ≠ .inReset) (o : BitVec 3) (d : Byte) :
    hostRegister o d s = writeRegister o d (driveData none s) := if_neg h

/-- A write of CTL that leaves LANES_OFF as it is, with no soft reset to begin (R7, R22). -/
theorem writeCtl_same {s : State} {d : Byte} (hd : d.getLsbD 1 = s.port.lanesOff) (hr : s.phase ≠ .running) :
    writeCtl d s = s := by
  have kept : writeLanesOff (d.getLsbD 1) s = s := if_pos hd
  unfold writeCtl
  simp only [kept, hr, decide_false, Bool.and_false, Bool.false_eq_true, if_false]

/-- During the clear a read of record memory drives 0 (R21). -/
theorem hostRead_clearing {s : State} {bus : BusLines} (hs : s.phase = .clearing) (hb : framesRead bus = true)
    (hsel : bus.regselHigh = false) (l : Landing) : hostRead ⟨bus, l⟩ s = driveData (some 0) s := by
  simp [hostRead, hs, hb, hsel, memoryOpen]

/-- During the clear a write of record memory is discarded (R21). -/
theorem hostWrite_clearing {s : State} {bus : BusLines} (hs : s.phase = .clearing) (hb : framesWrite bus = true)
    (hsel : bus.regselHigh = false) (d : Byte) (l : Landing) : hostWrite bus d l s = driveData none s := by
  simp [hostWrite, hs, hb, hsel, memoryOpen]

/-- While RESET# is low a host read and a host write do nothing (R1). -/
theorem hostRead_inReset {s : State} (hs : s.phase = .inReset) (r : HostRead) : hostRead r s = s := if_pos hs

theorem hostWrite_inReset {s : State} (hs : s.phase = .inReset) (bus : BusLines) (d : Byte) (l : Landing) :
    hostWrite bus d l s = s := if_pos hs

/-- While RESET# is low nothing counts (R24). -/
theorem clock_inReset {s : State} (hs : s.phase = .inReset) (run : ClockRun) (p : Sample) :
    exec (.tick run) s = .next s ∧ exec (.refLost p) s = .next s ∧ exec .warmupStart s = .next s ∧
      exec (.refBack run) s = .next s := by
  have silent := counting_inReset hs
  simp [exec, execTick, takeTick, execRefLost, takeRefLost, execWarmupStart, execRefBack, takeRefBack, silent]

/-- Settles O11: the clear is entered and ended, and the bus is shut out in reset and in the clear. -/
theorem coldStartShutsTheHostOutUntilStarted : Obligations.ColdStartShutsTheHostOutUntilStarted := by
  refine ⟨fun s running hs => ?_, fun s bus d l p clock o => ⟨fun hs => ?_, fun hs => ⟨?_, ?_, ?_⟩⟩⟩
  · refine ⟨riseReset running s, finishClear (riseReset running s), rfl, if_pos hs, rfl, ?_, fun j => ?_, ?_⟩
    · simp [riseReset, finishClear, hs, State.onPort, State.onTime, State.onMem, HostPort.setSum, sumStarted]
    · simp [riseReset, finishClear, hs, readByte, Memory.read]
    · rw [registerValue_sum, sumValue_getLsbD _ (by omega)]
      simp [riseReset, finishClear, hs, sumStarted]
  · have shut := hostRegister_inReset hs
    obtain ⟨htick, hlost, hwarm, hback⟩ := clock_inReset hs ⟨p, clock⟩ p
    exact ⟨congrArg Host.Outcome.next (hostRead_inReset hs _), congrArg Host.Outcome.next (hostWrite_inReset hs _ _ _),
      congrArg Host.Outcome.next (shut 0 d), congrArg Host.Outcome.next (shut 1 d), congrArg Host.Outcome.next (shut 2 d),
      congrArg Host.Outcome.next (shut 3 d), congrArg Host.Outcome.next (shut 4 d), congrArg Host.Outcome.next (shut 4 d),
      congrArg Host.Outcome.next (shut o d), htick, hlost, hwarm, hback⟩
  · intro hsel hcs hrd hwr
    exact congrArg Host.Outcome.next (hostRead_clearing hs (by simp [framesRead, hcs, hrd, hwr]) hsel l)
  · intro hsel hcs hwr hrd
    exact congrArg Host.Outcome.next (hostWrite_clearing hs (by simp [framesWrite, hcs, hrd, hwr]) hsel d l)
  · intro hd
    have same : writeCtl d (driveData none s) = driveData none s := writeCtl_same hd (by simp [hs])
    exact congrArg Host.Outcome.next ((hostRegister_of_ne_inReset (by simp [hs]) 4 d).trans same)

end Sys2Proof.Machine

/-! PROOFS. Lane power at an event: what an evaluation makes of each lane (R162 to R168), and what a change of race state
does to all of them (R169). -/

namespace Sys2Proof.Machine

open Config

/-! ### The condition (R162) -/

/-- A race state in which a lane may be powered, with or without a live grid (R162). -/
def Powering (s : State) : Prop :=
  s.power.state = .green ∨ s.power.state = .runout ∨ (s.power.state = .countdown ∧ s.power.liveGrid = true)

theorem laneCondition_iff (s : State) (k : Lane) :
    laneCondition s k = true ↔ LaneFree s (s.powerLane k) ∧ Powering s := by
  unfold laneCondition LaneFree Powering
  cases s.power.state <;> simp [and_assoc]
  tauto

theorem laneCondition_eq_false (s : State) (k : Lane) :
    laneCondition s k = false ↔ ¬ (LaneFree s (s.powerLane k) ∧ Powering s) := by
  rw [← laneCondition_iff, Bool.not_eq_true]

theorem evalOf_turnOff {x : Stamp} {s : State} {k : Lane} (h : laneCondition s k = false) :
    evalOf x s k = turnOff (s.powerLane k) := by
  simp [evalOf, h]

/-- A lane that was off and has its condition now is turned on. -/
theorem evalOf_turnOn {x : Stamp} {s : State} {k : Lane} (h : laneCondition s k = true)
    (hl : (s.powerLane k).cond = false) :
    evalOf x s k = turnOn s.power.state (s.power.rampTime.getD 0) x (s.powerLane k) := by
  simp [evalOf, h, hl]

/-- A lane that is on and stays on has its duty set. -/
theorem evalOf_setDuty {x : Stamp} {s : State} {k : Lane} (h : laneCondition s k = true)
    (hl : (s.powerLane k).cond = true) :
    evalOf x s k = setDuty (s.power.rampTime.getD 0) (now s) (s.powerLane k) := by
  simp [evalOf, h, hl]

/-- A lane that agrees with a condition that is off is as turning it off leaves it (R162, R165). -/
theorem turnOff_of_agrees {l : PowerLane} (h : LaneAgrees false l) : turnOff l = l := by
  obtain ⟨hcond, hoff, -⟩ := h
  obtain ⟨hmode, hramp, hnext⟩ := hoff hcond
  cases l
  simp_all [turnOff]

theorem dutyFollows_setDuty (s : State) (l : PowerLane) :
    DutyFollows (targetDuty l) s l (setDuty (s.power.rampTime.getD 0) (now s) l) := by
  unfold setDuty
  refine ⟨fun hn => by simp [hn], fun r hr => ?_⟩
  simp only [hr]
  exact ⟨fun he => if_neg (by omega), fun he => if_pos he⟩

/-- An evaluation makes of each lane what the rules say (R162 to R168). -/
theorem evalOf_evaluated (x : Stamp) (s : State) (k : Lane) :
    LaneEvaluated s.power.state x (targetDuty (s.powerLane k)) s (s.powerLane k) (evalOf x s k) := by
  have racing : Powering s → s.power.state ≠ .countdown → s.power.state.racing = true := fun hp hc => by
    obtain hg | hr | hcd := hp
    · rw [hg]; rfl
    · rw [hr]; rfl
    · exact absurd hcd.1 hc
  refine ⟨fun hoff => ?_, fun hon hl => ?_, fun hon hl hrace hramp => ?_, fun hon hl hor => ?_⟩
  · exact evalOf_turnOff ((laneCondition_eq_false s k).mpr hoff)
  · rw [evalOf_setDuty ((laneCondition_iff s k).mpr hon) hl]
    exact dutyFollows_setDuty s _
  · rw [evalOf_turnOn ((laneCondition_iff s k).mpr hon) hl]
    simp [turnOn, racing hon.2 hrace, hramp]
  · rw [evalOf_turnOn ((laneCondition_iff s k).mpr hon) hl]
    obtain hcd | hzero := hor
    · simp [turnOn, hcd, RaceState.racing]
    · simp [turnOn, hzero]

end Sys2Proof.Machine

/-! PROOFS. What the host's register writes do: causes and enables (R3, R4, R6), and CTL.LANES_OFF (R7, R170). -/

namespace Sys2Proof.Machine

open Config

/-! ### Causes and enables -/

/-- The bits that stand for causes: 0 to 3. -/
theorem causes_getLsbD : ∀ i < 8, (0x0F : Byte).getLsbD i = decide (i < 4) := by decide

theorem upper_getLsbD : ∀ i < 8, (0xF0 : Byte).getLsbD i = decide (4 ≤ i) := by decide

/-- A byte with unused bits 4 to 7 has them 0 (R3). -/
theorem getLsbD_of_causes {b : Byte} (h : b &&& 0xF0 = 0) {i : Nat} (hi : i < 8) (hu : 4 ≤ i) : b.getLsbD i = false := by
  have bit : (b &&& 0xF0).getLsbD i = false := by rw [h]; exact BitVec.getLsbD_zero
  simpa only [BitVec.getLsbD_and, upper_getLsbD i hi, hu, decide_true, Bool.and_true] using bit

/-- A cause cleared by a 1 (R4, R6). -/
theorem cleared_getLsbD (b d : Byte) {i : Nat} (hi : i < 8) :
    (b &&& ~~~d &&& 0x0F).getLsbD i = (b.getLsbD i && !d.getLsbD i && decide (i < 4)) := by
  simp only [BitVec.getLsbD_and, BitVec.getLsbD_not, causes_getLsbD i hi, hi, decide_true, Bool.true_and]

/-- SUM.FAULT (R4): a fault cause that FLTEN enables. -/
theorem faultSummary_iff {p : HostPort} (h : p.flt &&& 0xF0 = 0) :
    faultSummary p = true ↔ ∃ i < 4, p.flt.getLsbD i = true ∧ p.flten.getLsbD i = true := by
  rw [faultSummary, decide_eq_true_iff, byte_ne_zero_iff]
  simp only [BitVec.getLsbD_and, Bool.and_eq_true]
  constructor
  · rintro ⟨i, hi, hflt, hflten⟩
    refine ⟨i, ?_, hflt, hflten⟩
    by_contra hu
    simp [getLsbD_of_causes h hi (by omega)] at hflt
  · rintro ⟨i, hi, hbits⟩
    exact ⟨i, by omega, hbits⟩

/-- SUM.FAULT stands in bit 4 of SUM, where no direct cause stands (R4). -/
theorem sumValue_fault {p : HostPort} (h : p.sum &&& 0xF0 = 0) : (sumValue p).getLsbD 4 = faultSummary p := by
  rw [sumValue_getLsbD _ (by omega), getLsbD_of_causes h (by omega) le_rfl]
  simp

theorem exec_fltWrite_of_ne_inReset {s : State} (d : Byte) (h : s.phase ≠ .inReset) :
    exec (.fltWrite d) s = .next ((driveData none s).onPort (HostPort.clearFlt d)) :=
  congrArg Host.Outcome.next (hostRegister_of_ne_inReset h 2 d)

theorem exec_fltenWrite_of_ne_inReset {s : State} (d : Byte) (h : s.phase ≠ .inReset) :
    exec (.fltenWrite d) s = .next ((driveData none s).onPort fun p => { p with flten := d &&& 0x0F }) :=
  congrArg Host.Outcome.next (hostRegister_of_ne_inReset h 3 d)

/-- Offsets 5 to 7 ignore a write and read 0 (R3). -/
theorem writeRegister_unused {o : BitVec 3} (ho : 5 ≤ o.toNat) (d : Byte) (s : State) : writeRegister o d s = s := by
  unfold writeRegister
  split
  case h_6 => rfl
  all_goals omega

theorem registerValue_unused {o : BitVec 3} (ho : 5 ≤ o.toNat) (p : HostPort) : registerValue o p = 0 := by
  unfold registerValue
  split
  case h_6 => rfl
  all_goals omega

/-- Settles O18. -/
theorem registerWritesClearAndSelect : Obligations.RegisterWritesClearAndSelect := by
  intro s d hs hregs
  obtain ⟨hsum, -, hflt, -, -⟩ := hregs
  refine ⟨⟨_, exec_sumWrite_of_ne_inReset d hs, rfl, fun i hi => ?_, ?_⟩, exec_sumenWrite_of_ne_inReset d hs,
    ⟨_, exec_fltWrite_of_ne_inReset d hs, rfl, fun i hi => ?_, ?_⟩, exec_fltenWrite_of_ne_inReset d hs,
    fun o ho => ⟨?_, registerValue_unused ho s.port⟩⟩
  · have hf : decide (i = 4) = false := by simp; omega
    rw [registerValue_sum, registerValue_sum, sumValue_getLsbD _ (by omega), sumValue_getLsbD _ (by omega), hf]
    simp only [State.onPort_port, HostPort.clearSum, cleared_getLsbD _ _ (show i < 8 by omega), hi, decide_true,
      Bool.and_true, Bool.and_false, Bool.or_false, driveData_port]
  · rw [registerValue_sum, registerValue_sum, sumValue_fault hsum, sumValue_fault (masked_and_eq_zero rfl)]
    rfl
  · exact (cleared_getLsbD _ _ (by omega)).trans (by simp [hi])
  · rw [registerValue_sum, sumValue_fault (p := ((driveData none s).onPort (HostPort.clearFlt d)).port) hsum,
      faultSummary_iff (masked_and_eq_zero rfl)]
  · refine congrArg Host.Outcome.next ?_
    rw [hostRegister_of_ne_inReset hs, writeRegister_unused ho]
    rfl

/-! ### CTL.LANES_OFF -/

theorem exec_lanesOff_of_ne_inReset {s : State} {d : Byte} (h : s.phase ≠ .inReset) (hd : d.getLsbD 0 = false) :
    exec (.lanesOff d) s = .next (writeLanesOff (d.getLsbD 1) (driveData none s)) := by
  refine congrArg Host.Outcome.next ((hostRegister_of_ne_inReset h 4 d).trans ?_)
  simp only [writeRegister, writeCtl, hd, Bool.false_and]
  rfl

/-- CTL.LANES_OFF written, with D7 to D0 left undriven, before the lanes are evaluated. -/
def setLanesOff (b : Bool) (s : State) : State :=
  (driveData none s).onPort fun p => { p with ctl := if b then ctlLanesOff else 0 }

theorem setLanesOff_lanesOff (b : Bool) (s : State) : (setLanesOff b s).port.lanesOff = b := by
  cases b
  · exact BitVec.getLsbD_zero
  · exact (by decide : ctlLanesOff.getLsbD 1 = true)

/-- LANES_OFF written anew: every lane is evaluated at the write (R7, R170). -/
theorem exec_lanesOff_changed {s : State} {d : Byte} (h : s.phase ≠ .inReset) (hd : d.getLsbD 0 = false)
    (hb : d.getLsbD 1 ≠ s.port.lanesOff) : exec (.lanesOff d) s = .next { setLanesOff (d.getLsbD 1) s with
      power := { s.power with lanes := tabulate (evalOf (now s) (setLanesOff (d.getLsbD 1) s)) } } := by
  rw [exec_lanesOff_of_ne_inReset h hd]
  exact congrArg Host.Outcome.next ((if_neg hb).trans (evalAll_eq _ (setLanesOff (d.getLsbD 1) s)))

/-- A lane whose output is off is low in every unit of a tick (R164). -/
theorem pinHigh_off {s : State} {k : Lane} (h : (s.powerLane k).mode = .off) (u : Fin 100) : pinHigh s k u = false := by
  simp [pinHigh, h]

/-- Settles O19: the write evaluates every lane, and a lane's condition hangs on LANES_OFF. -/
theorem lanesOffCutsAndRestoresPower : Obligations.LanesOffCutsAndRestoresPower := by
  intro s d hs hd
  refine ⟨fun hset hon => ?_, fun ramp hp hclear hoff hramp => ?_⟩
  · have changed := exec_lanesOff_changed hs hd (by simp [hset, hon])
    rw [hset] at changed
    have off : ∀ k, evalOf (now s) (setLanesOff true s) k = turnOff (s.powerLane k) := fun k =>
      evalOf_turnOff (by simp [laneCondition, setLanesOff_lanesOff])
    refine ⟨_, changed, rfl, fun k => ?_⟩
    have lane : ∀ v : State, v.power.lanes = tabulate (evalOf (now s) (setLanesOff true s)) →
        v.powerLane k = turnOff (s.powerLane k) := fun v hv => by
      rw [State.powerLane, hv, pick_tabulate, off]
    exact ⟨lane _ rfl, pinHigh_off (by rw [lane _ rfl]; rfl)⟩
  · have changed := exec_lanesOff_changed hs hd (by rw [hclear, hoff]; decide)
    rw [hclear] at changed
    have agrees : ∀ k, LaneAgrees false (s.powerLane k) := fun k => by
      have hk := (powerSound_iff s).mp hp k
      rwa [show laneCondition s k = false by simp [laneCondition, hoff]] at hk
    refine ⟨_, changed, setLanesOff_lanesOff false s, rfl, fun k => ?_⟩
    extract_lets l free
    have lane : ∀ v : State, v.power.lanes = tabulate (evalOf (now s) (setLanesOff false s)) →
        v.powerLane k = evalOf (now s) (setLanesOff false s) k := fun v hv => by
      rw [State.powerLane, hv, pick_tabulate]
    rw [lane _ rfl]
    have ramp_eq : (setLanesOff false s).power.rampTime.getD 0 = ramp := by
      change s.power.rampTime.getD 0 = ramp
      rw [hramp]
      rfl
    have on : free → Powering s → laneCondition (setLanesOff false s) k = true := fun hfree hstate =>
      (laneCondition_iff _ k).mpr ⟨⟨setLanesOff_lanesOff false s, hfree⟩, hstate⟩
    have turned : free → Powering s → evalOf (now s) (setLanesOff false s) k = turnOn s.power.state ramp (now s) l :=
      fun hfree hstate => ramp_eq ▸ evalOf_turnOn (on hfree hstate) (agrees k).1
    have racing : s.power.state.racing = true → Powering s := fun hr => by
      unfold Powering
      cases hst : s.power.state <;> simp [hst, RaceState.racing] at hr ⊢
    refine ⟨fun hfree hr hpos => ?_, fun hfree hr hzero => ?_, fun hfree hcd hgrid => ?_, fun hnot => ?_⟩
    · simp [turned hfree (racing hr), turnOn, hr, hpos]
    · simp [turned hfree (racing hr), turnOn, hzero]
    · simp [turned hfree (.inr (.inr ⟨hcd, hgrid⟩)), turnOn, hcd, RaceState.racing]
    · refine (evalOf_turnOff ((laneCondition_eq_false _ k).mpr fun hon => ?_)).trans (turnOff_of_agrees (agrees k))
      obtain ⟨⟨-, hfree⟩, hstate⟩ := hon
      obtain hno | ⟨hr, hcd⟩ := hnot
      · exact hno hfree
      · obtain hg | hro | hc := hstate
        · simp [show s.power.state = .green from hg, RaceState.racing] at hr
        · simp [show s.power.state = .runout from hro, RaceState.racing] at hr
        · exact hcd hc.1

end Sys2Proof.Machine

/-! PROOFS. Bytes that stand in record memory, field by field, and the refresh of the status blocks (R11). -/

namespace Sys2Proof.Machine

open Config

/-! ### Bytes that stand in memory -/

/-- Memory holds these bytes from an address on. -/
def Holds (s : State) (a : Nat) (bs : List Byte) : Prop := ∀ i (hi : i < bs.length), readByte s (a + i) = bs[i]

theorem holds_append (s : State) (a : Nat) (bs cs : List Byte) :
    Holds s a (bs ++ cs) ↔ Holds s a bs ∧ Holds s (a + bs.length) cs := by
  constructor
  · refine fun h => ⟨fun i hi => ?_, fun i hi => ?_⟩
    · rw [h i (by simp; omega), List.getElem_append_left hi]
    · rw [Nat.add_assoc, h (bs.length + i) (by simp; omega), List.getElem_append_right (by omega)]
      simp
  · rintro ⟨hbs, hcs⟩ i hi
    by_cases hlow : i < bs.length
    · rw [hbs i hlow, List.getElem_append_left hlow]
    · have hc := hcs (i - bs.length) (by simp at hi; omega)
      rw [show a + bs.length + (i - bs.length) = a + i by omega] at hc
      rw [hc, List.getElem_append_right (by omega)]

theorem holds_singleton (s : State) (a : Nat) (b : Byte) : Holds s a [b] ↔ readByte s a = b := by
  constructor
  · exact fun h => h 0 (by simp)
  · intro h i hi
    obtain rfl : i = 0 := by simp at hi; omega
    exact h

theorem holds_cons (s : State) (a : Nat) (b : Byte) (bs : List Byte) :
    Holds s a (b :: bs) ↔ readByte s a = b ∧ Holds s (a + 1) bs := by
  rw [← List.singleton_append, holds_append, holds_singleton]
  rfl

theorem holds_nil (s : State) (a : Nat) : Holds s a [] := fun i hi => by simp at hi

theorem Holds.field {s : State} {a l n : Nat} (h : Holds s a (bytesOf l n)) : readField s a l = n % 256 ^ l :=
  readField_bytesOf s a l n h

/-- A number that its field is wide enough for reads back. -/
theorem Holds.value {s : State} {a l n : Nat} (h : Holds s a (bytesOf l n)) (hn : n < 256 ^ l) : readField s a l = n :=
  h.field.trans (Nat.mod_eq_of_lt hn)

theorem readField_one (s : State) (a : Nat) : readField s a 1 = (readByte s a).toNat := by
  simp [readField, readBytes, natOf]

/-- Bytes that are outside what changed stand as they stood. -/
theorem Holds.congr {s t : State} {a : Nat} {bs : List Byte} (h : Holds s a bs)
    (ht : ∀ j, Within a bs.length j → readByte t j = readByte s j) : Holds t a bs := fun i hi => by
  rw [ht _ ⟨by omega, by omega⟩, h i hi]

theorem holds_writeBytes (s : State) (a : Nat) (bs : List Byte) (hm : a + bs.length ≤ memSize) :
    Holds (writeBytes a bs s) a bs := fun i hi => readByte_writeBytes_inside s a i bs hi (by omega)

/-! ### One status block refreshed (R10) -/

/-- A block of a count and one field of bytes updated from s: its count is 2 on, and the field stands after it. -/
structure BlockShows (a : Nat) (bs : List Byte) (s t : State) : Prop where
  count : readByte t a = readByte s a + 2
  bytes : Holds t (a + 1) bs

theorem updateBlock_shows (a : Nat) (bs : List Byte) (s : State) (hq : s.port.turns = []) (hm : a + 1 + bs.length ≤ memSize) :
    BlockShows a bs s (updateBlock a [(a + 1, bs)] s) where
  count := updateBlock_count a _ s hq (by omega)
  bytes i hi := updateBlock_inside a (a + 1) i bs s hq hi (by omega) (by omega)

theorem updateBlock_spares (a : Nat) (bs : List Byte) (s : State) (hq : s.port.turns = []) {j : Nat}
    (hj : ¬ Within a (1 + bs.length) j) : readByte (updateBlock a [(a + 1, bs)] s) j = readByte s j := by
  simp only [Within] at hj
  refine updateBlock_outside a j _ s hq (by omega) fun f hf => ?_
  obtain rfl := List.mem_singleton.mp hf
  dsimp only
  omega

/-! ### The nine status blocks -/

/-- The fields of a status block are its owning blocks' values, whatever record memory holds. -/
theorem laneStatusBytes_mem (s : State) (m : Memory) (k : Lane) : laneStatusBytes { s with mem := m } k = laneStatusBytes s k :=
  rfl

theorem laneStatusAddr_apart {k j : Lane} (h : k ≠ j) {n : Nat} (hn : Within (laneStatusAddr j) 60 n) :
    ¬ Within (laneStatusAddr k) 60 n := by
  have : k.val ≠ j.val := fun e => h (Fin.ext e)
  simp only [Within, laneStatusAddr, laneStatusBase] at hn ⊢
  omega

theorem laneStatusAddr_bounds (k : Lane) : 0xC00 ≤ laneStatusAddr k ∧ laneStatusAddr k + 64 ≤ 0xE00 := by
  unfold laneStatusAddr laneStatusBase
  omega

theorem refreshLane_spares (s : State) (k : Lane) (hq : s.port.turns = []) {j : Nat} (hj : ¬ Within (laneStatusAddr k) 60 j) :
    readByte (refreshLane s k) j = readByte s j :=
  updateBlock_spares _ _ s hq (by rwa [laneStatusBytes_length])

theorem refreshLane_shows (s : State) (k : Lane) (hq : s.port.turns = []) :
    BlockShows (laneStatusAddr k) (laneStatusBytes s k) s (refreshLane s k) := by
  have hb := laneStatusAddr_bounds k
  exact updateBlock_shows _ _ s hq (by rw [laneStatusBytes_length]; unfold memSize; omega)

/-- Lanes refreshed one after the other, none twice: each of their blocks shows its values, and no other byte changes. -/
theorem refreshLanes_shows (ks : List Lane) (hk : ks.Nodup) (s : State) (hq : s.port.turns = []) :
    ks.foldl refreshLane s = { s with mem := (ks.foldl refreshLane s).mem } ∧
      (∀ k ∈ ks, BlockShows (laneStatusAddr k) (laneStatusBytes s k) s (ks.foldl refreshLane s)) ∧
      ∀ j, (∀ k ∈ ks, ¬ Within (laneStatusAddr k) 60 j) → readByte (ks.foldl refreshLane s) j = readByte s j := by
  induction ks generalizing s with
  | nil => exact ⟨rfl, fun k h => by simp at h, fun _ _ => rfl⟩
  | cons k ks ih =>
    obtain ⟨hnot, hks⟩ := List.nodup_cons.mp hk
    have first : refreshLane s k = { s with mem := (refreshLane s k).mem } := updateBlock_eq _ _ s hq
    have hq' : (refreshLane s k).port.turns = [] := by rw [first]; exact hq
    obtain ⟨heq, hshows, hspares⟩ := ih hks (refreshLane s k) hq'
    have same : ∀ j, laneStatusBytes (refreshLane s k) j = laneStatusBytes s j := fun j => by
      rw [first]
      exact laneStatusBytes_mem s _ j
    refine ⟨?_, fun j hj => ?_, fun j hj => ?_⟩
    · rw [List.foldl_cons, heq]
      rw [first]
    · rw [List.foldl_cons]
      obtain rfl | hj := List.mem_cons.mp hj
      · have one := refreshLane_shows s j hq
        have later : ∀ n, Within (laneStatusAddr j) 60 n → readByte (ks.foldl refreshLane (refreshLane s j)) n =
            readByte (refreshLane s j) n := fun n hn =>
          hspares n fun i hi => laneStatusAddr_apart (by rintro rfl; exact hnot hi) hn
        refine ⟨(later _ ⟨le_rfl, by omega⟩).trans one.count, one.bytes.congr fun n hn => later n ?_⟩
        simp only [Within, laneStatusBytes_length] at hn ⊢
        omega
      · have one := hshows j hj
        have before : readByte (refreshLane s k) (laneStatusAddr j) = readByte s (laneStatusAddr j) :=
          refreshLane_spares s k hq (laneStatusAddr_apart (by rintro rfl; exact hnot hj) ⟨le_rfl, by omega⟩)
        exact ⟨one.count.trans (by rw [before]), same j ▸ one.bytes⟩
    · rw [List.foldl_cons, hspares j fun i hi => hj i (List.mem_cons_of_mem k hi)]
      exact refreshLane_spares s k hq (hj k List.mem_cons_self)

/-! ### The values they show (section 1.4) -/

theorem laneFlags_getLsbD (a b c d e : Bool) : (laneFlags a b c d e).getLsbD 0 = a ∧ (laneFlags a b c d e).getLsbD 1 = b ∧
    (laneFlags a b c d e).getLsbD 2 = c ∧ (laneFlags a b c d e).getLsbD 3 = d ∧ (laneFlags a b c d e).getLsbD 4 = e := by
  revert a b c d e
  decide

theorem heatClock_lt (s : State) : heatClock s < 256 ^ 4 := by
  unfold heatClock sat32
  omega

theorem finalDistance_lt (s : State) (k : Lane) : finalDistance s k < 256 ^ 4 := by
  unfold finalDistance sat32
  split <;> omega

theorem raceStatusShows_of_holds {s t : State} (h : Holds t 0x181 (raceStatusBytes s)) : RaceStatusShows s t := by
  simp only [raceStatusBytes, holds_append, holds_singleton, List.length_append, bytesOf_length, List.length_singleton,
    Nat.reduceAdd, and_assoc] at h
  obtain ⟨hstate, hfrom, hcursor, hlabel, hclock, hrunout, hcalls, hsource, hwho, href, hepoch, hticks, hslip, hnotice,
    hlost, hlamps, hsetup, hlfsr⟩ := h
  refine ⟨hstate.value ?_, hfrom.value ?_, hcursor.value (by omega), hlabel, hclock.value (heatClock_lt s),
    hrunout.value (by unfold sat16; omega), hcalls.field, ?_, hwho.field, href.value ?_, hepoch,
    hticks.value s.time.tickCount.isLt, hslip.value (by omega), hnotice.value (by omega), hlost.field,
    hlamps.value (by omega), hsetup.value ?_, hlfsr.value (s.race.lfsr.getD 0).isLt⟩
  · cases s.race.state <;> decide
  · cases s.race.calledFrom <;> decide
  · refine (hsource.value ?_).trans ?_
    · obtain - | c := s.race.lastCallSource
      · decide
      · cases c <;> decide
    · cases s.race.lastCallSource <;> rfl
  · cases s.time.refState <;> decide
  · split <;> decide

theorem servingBytes_holds {s : State} {l : PenLane} {a : Nat} (h : Holds s a (servingBytes l)) :
    readField s a 1 = (match l.serving with
      | none => 0
      | some e => e.kind.code) ∧
    readField s (a + 1) 2 = (match l.serving with
      | none => 0
      | some e => e.serial.toNat) := by
  cases hl : l.serving with
  | none =>
    have bytes : servingBytes l = bytesOf 1 0 ++ bytesOf 2 0 := by
      rw [servingBytes, hl]
      decide
    rw [bytes, holds_append] at h
    exact ⟨h.1.value (by decide), h.2.value (by decide)⟩
  | some e =>
    have bytes : servingBytes l = bytesOf 1 e.kind.code ++ bytesOf 2 e.serial.toNat := by rw [servingBytes, hl]
    have hz := e.serial.isLt
    rw [bytes, holds_append] at h
    exact ⟨h.1.value (by cases e.kind <;> decide), h.2.value (by omega)⟩

theorem warningByte_toNat (l : PenLane) (i j : Fin 8) :
    (warningByte l i j).toNat = (16 * pick l.warnings i + pick l.warnings j) % 256 := BitVec.toNat_ofNat _ _

theorem laneStatusShows_of_holds {s t : State} {k : Lane} (h : Holds t (laneStatusAddr k + 1) (laneStatusBytes s k)) :
    LaneStatusShows k s t := by
  unfold LaneStatusShows
  dsimp only
  generalize laneStatusAddr k = a at h ⊢
  unfold laneStatusBytes stampBytes splitsBytes splitBytes at h
  dsimp only at h
  simp only [List.append_assoc, List.cons_append, List.nil_append] at h
  simp only [holds_append, holds_cons, bytesOf_length, servingBytes_length, Nat.add_assoc, Nat.reduceAdd] at h
  obtain ⟨hstate, hracer, hflags, hlaps, hscored, hdeducted, hposition, hexpected, hlast, hlapStart, hlastCrossing, hbest,
    hone, htwo, hthree, htime, hcalls, hwarn0, hwarn1, hwarn2, hwarn3, hqueue, hserving, hremaining, hcursor, hlost, hdiscard,
    hdistance⟩ := h
  obtain ⟨hretired, hhalted, hcapped, hstalled, hhunt⟩ := laneFlags_getLsbD (s.standLane k).retired (servingHalt s k)
    (servingCap s k) (s.lap k).stalled (s.lap k).huntFlag
  have starts := (s.lap k).lapStart.isLt
  have crossed := (s.lap k).lastCrossing.isLt
  obtain ⟨hkind, hserial⟩ := servingBytes_holds hserving
  rw [← hflags] at hretired hhalted hcapped hstalled hhunt
  refine ⟨hstate.value (by cases (s.lap k).state <;> decide), hracer, hretired, hhalted, hcapped, hstalled, hhunt,
    hlaps.field, hscored.field, hdeducted.field, hposition.field, ?_, hlast.field, hlapStart.value (by omega),
    hlastCrossing.value (by omega), hbest.field, hone.field, htwo.field, hthree.field, htime.field, hcalls.field, ?_,
    hqueue.field, hkind, hserial, hremaining.value (by unfold sat16; omega), hcursor.value (by omega), hlost.field,
    hdiscard.field, hdistance.value (finalDistance_lt s k)⟩
  · refine hexpected.field.trans ?_
    split <;> rfl
  · intro i
    rw [readField_one]
    fin_cases i
    · exact (congrArg BitVec.toNat hwarn0).trans (warningByte_toNat _ _ _)
    · exact (congrArg BitVec.toNat hwarn1).trans (warningByte_toNat _ _ _)
    · exact (congrArg BitVec.toNat hwarn2).trans (warningByte_toNat _ _ _)
    · exact (congrArg BitVec.toNat hwarn3).trans (warningByte_toNat _ _ _)

/-- The refresh of the nine status blocks with no host access waiting (R11). -/
theorem refreshStatus_refreshed (s : State) (hq : s.port.turns = []) :
    refreshStatus s = { s with mem := (refreshStatus s).mem } ∧ StatusRefreshed s (refreshStatus s) := by
  have race : updateBlock raceStatusBase [(raceStatusBase + 1, raceStatusBytes s)] s =
      { s with mem := (updateBlock raceStatusBase [(raceStatusBase + 1, raceStatusBytes s)] s).mem } := updateBlock_eq _ _ s hq
  have shows := updateBlock_shows raceStatusBase (raceStatusBytes s) s hq
    (by rw [raceStatusBytes_length]; unfold memSize raceStatusBase; omega)
  have spares := fun j => updateBlock_spares raceStatusBase (raceStatusBytes s) s hq (j := j)
  unfold refreshStatus
  generalize updateBlock raceStatusBase [(raceStatusBase + 1, raceStatusBytes s)] s = u at race shows spares ⊢
  have hu : u.port.turns = [] := by rw [race]; exact hq
  have same : ∀ k, laneStatusBytes u k = laneStatusBytes s k := fun k => by rw [race]; exact laneStatusBytes_mem s _ k
  obtain ⟨heq, hshows, hspares⟩ := refreshLanes_shows allLanes (by decide) u hu
  rw [raceStatusBytes_length] at spares
  have apart : ∀ j, Within raceStatusBase 29 j → ∀ k, ¬ Within (laneStatusAddr k) 60 j := fun j hj k => by
    have hb := laneStatusAddr_bounds k
    simp only [Within, raceStatusBase] at hj ⊢
    omega
  have kept : ∀ j, Within raceStatusBase 29 j → readByte (allLanes.foldl refreshLane u) j = readByte u j := fun j hj =>
    hspares j fun k _ => apart j hj k
  refine ⟨by rw [heq, race], ?_, raceStatusShows_of_holds ?_, fun k => ⟨?_, ?_⟩, fun j hj => ?_⟩
  · exact (kept _ ⟨le_rfl, by omega⟩).trans shows.count
  · refine shows.bytes.congr fun j hj => kept j ?_
    rw [raceStatusBytes_length] at hj
    simp only [Within] at hj ⊢
    omega
  · refine (hshows k (mem_allLanes k)).count.trans ?_
    rw [spares]
    exact fun hj => apart _ hj k ⟨le_rfl, by omega⟩
  · have bytes := (hshows k (mem_allLanes k)).bytes
    rw [same] at bytes
    exact laneStatusShows_of_holds bytes
  · obtain ⟨hrace, hlanes⟩ := not_or.mp hj
    exact (hspares j fun k _ hk => hlanes ⟨k, hk⟩).trans (spares j hrace)

end Sys2Proof.Machine

/-! PROOFS. Notices: what an arrival does (R18, R20), and what a retry does (R19). -/

namespace Sys2Proof.Machine

open Config

/-! ### Arrivals -/

theorem noticeEntryEmpty_eq (s : State) (hq : s.port.turns = []) :
    noticeEntryEmpty s = (s, decide (readByte s (noticeAddr s.port.noticeCursor) &&& 0x0F = 1)) := recheck_idle s hq _ _ _

/-- A notice that arrives behind held ones joins the tail (R18). -/
theorem deliver_behind (n : Notice) (s : State) (hne : (retryNotices s).port.noticeQueue ≠ [])
    (hroom : (retryNotices s).port.noticeQueue.length < 8) :
    deliver n s = { retryNotices s with port := { (retryNotices s).port with
      noticeQueue := (retryNotices s).port.noticeQueue ++
        [{ notice := n, lost := min (retryNotices s).port.noticeLost 255 }]
      noticeLost := (retryNotices s).port.noticeLost - min (retryNotices s).port.noticeLost 255 } } := by
  unfold deliver
  dsimp only
  split
  next hnil => exact absurd hnil hne
  · exact if_pos hroom

/-- A notice that arrives where 8 are held is counted as lost (R18). -/
theorem deliver_full (n : Notice) (s : State) (hfull : 8 ≤ (retryNotices s).port.noticeQueue.length) :
    deliver n s = { retryNotices s with port := { (retryNotices s).port with
      flt := (retryNotices s).port.flt ||| 8, noticeLost := min 65535 ((retryNotices s).port.noticeLost + 1) } } := by
  unfold deliver
  dsimp only
  split
  next hnil => simp [hnil] at hfull
  · exact if_neg (by simpa [noticeHold] using hfull)

/-- A retry that empties the hold queue leaves the arrival as with nothing held (R18). -/
theorem deliver_retried (n : Notice) (s : State) (hnil : (retryNotices s).port.noticeQueue = []) :
    deliver n s = deliver n (retryNotices s) := by
  unfold deliver
  rw [retryNotices_of_empty _ hnil]

/-- A notice that arrives with nothing held, and finds its entry taken, is held (R18). -/
theorem deliver_held (n : Notice) (s : State) (hq : s.port.turns = []) (hnil : s.port.noticeQueue = [])
    (he : readByte s (noticeAddr s.port.noticeCursor) &&& 0x0F ≠ 1) :
    deliver n s = { s with port := { s.port with
      noticeQueue := s.port.noticeQueue ++ [{ notice := n, lost := min s.port.noticeLost 255 }]
      noticeLost := s.port.noticeLost - min s.port.noticeLost 255 } } := by
  have taken : noticeEntryEmpty (acceptNotice n s).1 = ((acceptNotice n s).1, false) := by
    rw [noticeEntryEmpty_eq _ (by simpa [acceptNotice] using hq)]
    exact congrArg _ (decide_eq_false he)
  have eq : deliver n s = holdNotice (acceptNotice n s).2 (acceptNotice n s).1 := by
    unfold deliver
    rw [retryNotices_of_empty s hnil]
    simp only [hnil, taken, Bool.false_eq_true, if_false]
  exact eq

/-- A notice stands in an entry (section 1.7), handed over with a serial and a lost field. -/
structure EntryShows (a : Nat) (n : Notice) (serial : Half) (lost : Nat) (t : State) : Prop where
  state : readByte t a = BitVec.ofNat 8 (16 * n.lane + 2)
  kind : readByte t (a + 1) = BitVec.ofNat 8 (16 * n.kind.code + n.subcode)
  racer : readByte t (a + 2) = n.racer
  label : readByte t (a + 3) = n.label
  stamp : readField t (a + 4) 5 = n.stamp.toNat
  detailA : readField t (a + 9) 2 = n.a % 65536
  detailB : readField t (a + 11) 2 = n.b % 65536
  serial : readField t (a + 13) 2 = serial.toNat
  lost : readField t (a + 15) 1 = lost % 256

/-- An entry shows what it shows by its 16 bytes alone. -/
theorem EntryShows.congr {a : Nat} {n : Notice} {serial : Half} {lost : Nat} {t u : State} (h : EntryShows a n serial lost t)
    (hu : ∀ j, Within a 16 j → readByte u j = readByte t j) : EntryShows a n serial lost u := by
  have field : ∀ i l, i + l ≤ 16 → readField u (a + i) l = readField t (a + i) l := fun i l hl => by
    simp only [readField, readBytes]
    refine congrArg natOf (List.map_congr_left fun x hx => hu _ ?_)
    rw [List.mem_range] at hx
    exact ⟨by omega, by omega⟩
  exact
    { state := (hu _ ⟨by omega, by omega⟩).trans h.state, kind := (hu _ ⟨by omega, by omega⟩).trans h.kind
      racer := (hu _ ⟨by omega, by omega⟩).trans h.racer, label := (hu _ ⟨by omega, by omega⟩).trans h.label
      stamp := (field 4 5 (by omega)).trans h.stamp, detailA := (field 9 2 (by omega)).trans h.detailA
      detailB := (field 11 2 (by omega)).trans h.detailB, serial := (field 13 2 (by omega)).trans h.serial
      lost := (field 15 1 (by omega)).trans h.lost }

/-- A held notice written into an EMPTY entry (R20). -/
theorem writeNotice_written (h : HeldNotice) (s : State) (hq : s.port.turns = [])
    (he : readByte s (noticeAddr s.port.noticeCursor) &&& 0x0F = 1) :
    (writeNotice h s).2 = true ∧
    (writeNotice h s).1 = { s with
      mem := (writeNotice h s).1.mem
      port := { s.port with
        sum := s.port.sum ||| 8, noticeSerial := s.port.noticeSerial + 1, noticeCursor := s.port.noticeCursor + 1 } } ∧
    EntryShows (noticeAddr s.port.noticeCursor) h.notice (s.port.noticeSerial + 1) h.lost (writeNotice h s).1 ∧
    ∀ j, ¬ Within (noticeAddr s.port.noticeCursor) 16 j → readByte (writeNotice h s).1 j = readByte s j := by
  obtain ⟨m, hw, hstate, hbytes, hspares⟩ := writeNotice_empty h s hq he
  rw [hw]
  obtain ⟨hkind, hracer, hlabel, hstamp, ha, hb, hserial, hlost⟩ := notice_fields { s with mem := m } _ h _ hbytes
  exact ⟨rfl, rfl, ⟨hstate, hkind, hracer, hlabel, hstamp, ha, hb, hserial, hlost⟩, hspares⟩

/-- A notice that arrives with nothing held is written into the EMPTY entry at the cursor (R18, R20). -/
theorem deliver_written (n : Notice) (s : State) (hq : s.port.turns = []) (hnil : s.port.noticeQueue = [])
    (he : readByte s (noticeAddr s.port.noticeCursor) &&& 0x0F = 1) :
    deliver n s = { s with
      mem := (deliver n s).mem
      port := { s.port with
        sum := s.port.sum ||| 8, noticeCursor := s.port.noticeCursor + 1, noticeSerial := s.port.noticeSerial + 1
        noticeLost := s.port.noticeLost - min s.port.noticeLost 255 } } ∧
    EntryShows (noticeAddr s.port.noticeCursor) n (s.port.noticeSerial + 1) (min s.port.noticeLost 255) (deliver n s) ∧
    ∀ j, ¬ Within (noticeAddr s.port.noticeCursor) 16 j → readByte (deliver n s) j = readByte s j := by
  have hq' : (acceptNotice n s).1.port.turns = [] := by simpa [acceptNotice] using hq
  have empty : noticeEntryEmpty (acceptNotice n s).1 = ((acceptNotice n s).1, true) := by
    rw [noticeEntryEmpty_eq _ hq']
    exact congrArg _ (decide_eq_true he)
  obtain ⟨hdone, hstate, hshows, hspares⟩ := writeNotice_written (acceptNotice n s).2 (acceptNotice n s).1 hq' he
  have eq : deliver n s = (writeNotice (acceptNotice n s).2 (acceptNotice n s).1).1 := by
    unfold deliver
    rw [retryNotices_of_empty s hnil]
    simp only [hnil, empty, if_true, hdone]
  rw [eq]
  exact ⟨hstate, hshows, hspares⟩

/-- Settles O20, case by case (`deliver_written` and the lemmas before it). -/
theorem noticeWrittenHeldOrLost : Obligations.NoticeWrittenHeldOrLost := by
  intro n s hq a m t
  refine ⟨fun hnil he => ?_, fun he hroom => ?_, fun he hfull => ?_, fun u hne hu => ?_⟩
  · obtain ⟨heq, hshows, hspares⟩ := deliver_written n s hq hnil he
    have hlost := hshows.lost
    rw [Nat.mod_eq_of_lt (by omega)] at hlost
    exact ⟨heq, hshows.state, hshows.kind, hshows.racer, hshows.label, hshows.stamp, hshows.detailA, hshows.detailB,
      hshows.serial, hlost, hspares⟩
  · have blocked := retryNotices_blocked s hq he
    by_cases hnil : s.port.noticeQueue = []
    · exact deliver_held n s hq hnil he
    · have behind := deliver_behind n s
      rw [blocked] at behind
      exact behind hnil hroom
  · have full := deliver_full n s
    rw [retryNotices_blocked s hq he] at full
    exact full hfull
  · subst hu
    exact ⟨deliver_retried n s, deliver_behind n s, deliver_full n s⟩

end Sys2Proof.Machine

/-! PROOFS. Retries of held notices (R19), and what arrivals and retries leave alone. -/

namespace Sys2Proof.Machine

open Config

/-! ### What arrivals and retries leave alone -/

/-- A state that keeps every block but record memory and the host port, and of the port all but the notice list and the
causes, is told apart by those alone. -/
theorem eq_of_notices {s t : State}
    (hk : t.pending = s.pending ∧ t.phase = s.phase ∧ t.time = s.time ∧ t.gates = s.gates ∧ t.race = s.race ∧
      t.laps = s.laps ∧ t.pen = s.pen ∧ t.power = s.power ∧ t.stand = s.stand ∧ t.pins = s.pins)
    (hp : t.port.sumen = s.port.sumen ∧ t.port.flten = s.port.flten ∧ t.port.ctl = s.port.ctl ∧
      t.port.slipCursor = s.port.slipCursor ∧ t.port.setupLoaded = s.port.setupLoaded)
    (hi : t.port.turns = s.port.turns ∧ t.port.dataOut = s.port.dataOut ∧ t.port.turnReads = s.port.turnReads) :
    t = { s with
      mem := t.mem
      port := { s.port with
        sum := t.port.sum, flt := t.port.flt, noticeCursor := t.port.noticeCursor, noticeQueue := t.port.noticeQueue
        noticeLost := t.port.noticeLost, noticeSerial := t.port.noticeSerial } } := by
  obtain ⟨tpending, tphase, tmem, tport, ttime, tgates, trace, tlaps, tpen, tpower, tstand, tpins⟩ := t
  obtain ⟨rfl, rfl, rfl, rfl, rfl, rfl, rfl, rfl, rfl, rfl⟩ := hk
  obtain ⟨tsum, tsumen, tflt, tflten, tctl, tslip, tcursor, tqueue, tlost, tserial, tloaded, tturns, tdata, treads⟩ := tport
  obtain ⟨rfl, rfl, rfl, rfl, rfl⟩ := hp
  obtain ⟨rfl, rfl, rfl⟩ := hi
  rfl

/-- A notice outside the notice list's bytes is nowhere. -/
theorem noticeEntry_within {c : Fin 128} {j : Nat} (hj : ¬ Within 0xE00 0x800 j) : ¬ Within (noticeAddr c) 16 j := by
  have hb := noticeAddr_bounds c
  simp only [Within] at hj ⊢
  omega

theorem retryHeld_spares (q : List HeldNotice) (s : State) (hq : s.port.turns = []) {j : Nat}
    (hj : ¬ Within 0xE00 0x800 j) : readByte (retryHeld q s) j = readByte s j := by
  induction q generalizing s with
  | nil => rfl
  | cons h rest ih =>
    unfold retryHeld
    rw [noticeEntryEmpty_eq s hq]
    dsimp only
    split
    next he =>
      obtain ⟨hdone, hstate, -, hspares⟩ := writeNotice_written h s hq (decide_eq_true_iff.mp he)
      rw [if_pos hdone, ih]
      · exact hspares j (noticeEntry_within hj)
      · rw [hstate]
        exact hq
    · rfl

theorem retryNotices_spares (s : State) (hq : s.port.turns = []) {j : Nat} (hj : ¬ Within 0xE00 0x800 j) :
    readByte (retryNotices s) j = readByte s j := retryHeld_spares _ s hq hj

theorem deliver_spares (n : Notice) (s : State) (hq : s.port.turns = []) {j : Nat} (hj : ¬ Within 0xE00 0x800 j) :
    readByte (deliver n s) j = readByte s j := by
  have retried := retryNotices_spares s hq hj
  by_cases hnil : (retryNotices s).port.noticeQueue = []
  · have hq' : (retryNotices s).port.turns = [] := (retryNotices_idle s hq).1
    rw [deliver_retried n s hnil, ← retried]
    by_cases he : readByte (retryNotices s) (noticeAddr (retryNotices s).port.noticeCursor) &&& 0x0F = 1
    · exact (deliver_written n _ hq' hnil he).2.2 j (noticeEntry_within hj)
    · rw [deliver_held n _ hq' hnil he]
      rfl
  · obtain hroom | hfull := Nat.lt_or_ge (retryNotices s).port.noticeQueue.length 8
    · rw [deliver_behind n s hnil hroom]
      exact retried
    · rw [deliver_full n s hfull]
      exact retried

/-! ### What a retry writes -/

/-- The notice entry so many places on from a state's cursor. -/
def entryOn (s : State) (i : Nat) : Nat := noticeAddr (s.port.noticeCursor + Fin.ofNat 128 i)

/-- A retry has written the first n notices held in s, each whole into an entry that the host has given, and stopped. -/
structure Retried (n : Nat) (s t : State) : Prop where
  le : n ≤ s.port.noticeQueue.length
  state : t = { s with
    mem := t.mem
    port := { s.port with
      sum := if n = 0 then s.port.sum else s.port.sum ||| 8,
      noticeCursor := s.port.noticeCursor + Fin.ofNat 128 n,
      noticeSerial := s.port.noticeSerial + BitVec.ofNat 16 n, noticeQueue := s.port.noticeQueue.drop n } }
  stopped : t.port.noticeQueue = [] ∨ readByte t (noticeAddr t.port.noticeCursor) &&& 0x0F ≠ 1
  given : ∀ i, i < n → readByte s (entryOn s i) &&& 0x0F = 1
  spared : ∀ j, (∀ i, i < n → ¬ Within (entryOn s i) 16 j) → readByte t j = readByte s j
  shows : ∀ i h, i < n → s.port.noticeQueue[i]? = some h →
    EntryShows (entryOn s i) h.notice (s.port.noticeSerial + BitVec.ofNat 16 (i + 1)) h.lost t

theorem entryOn_zero (s : State) : entryOn s 0 = noticeAddr s.port.noticeCursor := by
  simp [entryOn]

theorem cursor_succ (c : Fin 128) (i : Nat) : c + 1 + Fin.ofNat 128 i = c + Fin.ofNat 128 (i + 1) := by
  ext
  simp [Fin.val_add]
  omega

/-- Entries fewer than 128 places apart lie apart. -/
theorem entryOn_apart (s : State) {i j : Nat} (hij : i < j) (hj : j < 128) {n : Nat} (hn : Within (entryOn s j) 16 n) :
    ¬ Within (entryOn s i) 16 n := by
  have hc := s.port.noticeCursor.isLt
  simp only [Within, entryOn, noticeAddr, noticeBase, Fin.val_add, Fin.ofNat] at hn ⊢
  omega

/-- A retry that stops at once has written nothing. -/
theorem Retried.none {s : State} (h : s.port.noticeQueue = [] ∨ readByte s (noticeAddr s.port.noticeCursor) &&& 0x0F ≠ 1) :
    Retried 0 s s where
  le := Nat.zero_le _
  state := by simp
  stopped := h
  given i hi := absurd hi (Nat.not_lt_zero i)
  spared _ _ := rfl
  shows i _ hi := absurd hi (Nat.not_lt_zero i)

theorem or_or_self (x b : Byte) : x ||| b ||| b = x ||| b := by
  rw [BitVec.or_assoc, BitVec.or_self]

/-- The oldest notice written first, then the others. -/
theorem Retried.cons {h : HeldNotice} {rest : List HeldNotice} {n : Nat} {s u t : State}
    (hs : s.port.noticeQueue = h :: rest) (hn : n < 127)
    (he : readByte s (entryOn s 0) &&& 0x0F = 1)
    (hu : u = { s with
      mem := u.mem
      port := { s.port with
        sum := s.port.sum ||| 8, noticeSerial := s.port.noticeSerial + 1, noticeCursor := s.port.noticeCursor + 1
        noticeQueue := rest } })
    (hshows : EntryShows (entryOn s 0) h.notice (s.port.noticeSerial + 1) h.lost u)
    (hspares : ∀ j, ¬ Within (entryOn s 0) 16 j → readByte u j = readByte s j) (hr : Retried n u t) :
    Retried (n + 1) s t := by
  have port : u.port = { s.port with
      sum := s.port.sum ||| 8, noticeSerial := s.port.noticeSerial + 1, noticeCursor := s.port.noticeCursor + 1
      noticeQueue := rest } := by rw [hu]
  have entry : ∀ i, entryOn u i = entryOn s (i + 1) := fun i => by
    simp only [entryOn, port, cursor_succ]
  have serial : ∀ i, s.port.noticeSerial + 1 + BitVec.ofNat 16 i = s.port.noticeSerial + BitVec.ofNat 16 (i + 1) := fun i => by
    apply BitVec.eq_of_toNat_eq
    simp
    omega
  obtain ⟨hle, hstate, hstopped, hgiven, hspared, hshown⟩ := hr
  have apart : ∀ i, i < n → ∀ j, Within (entryOn s 0) 16 j → ¬ Within (entryOn u i) 16 j := fun i hi j hj hw => by
    rw [entry] at hw
    exact entryOn_apart s (Nat.succ_pos i) (by omega) hw hj
  refine ⟨?_, ?_, hstopped, fun i hi => ?_, fun j hj => ?_, fun i g hi hg => ?_⟩
  · rw [port] at hle
    simpa [hs] using hle
  · rw [hstate, port, hu, hs, cursor_succ, serial]
    simp only [Nat.add_eq_zero_iff, one_ne_zero, and_false, if_false, List.drop_succ_cons]
    split
    · rfl
    · rw [or_or_self]
  · obtain - | i := i
    · exact he
    · have given := hgiven i (by omega)
      rw [entry] at given
      rwa [hspares _ (entryOn_apart s (Nat.succ_pos i) (by omega) ⟨le_rfl, by omega⟩)] at given
  · rw [hspared j fun i hi => entry i ▸ hj (i + 1) (by omega)]
    exact hspares j (hj 0 (by omega))
  · obtain - | i := i
    · obtain rfl : h = g := by simpa [hs] using hg
      exact hshows.congr fun j hj => hspared j fun i hi => apart i hi j hj
    · have shown := hshown i g (by omega) (by simpa [hs, port] using hg)
      rwa [entry, port, serial] at shown

theorem retryHeld_retried (q : List HeldNotice) (s : State) (hs : s.port.noticeQueue = q) (hq : s.port.turns = [])
    (hlen : q.length ≤ 127) : ∃ n, Retried n s (retryHeld q s) := by
  induction q generalizing s with
  | nil => exact ⟨0, .none (.inl hs)⟩
  | cons h rest ih =>
    simp only [List.length_cons] at hlen
    unfold retryHeld
    rw [noticeEntryEmpty_eq s hq]
    dsimp only
    split
    next he =>
      have hempty := decide_eq_true_iff.mp he
      obtain ⟨hdone, hstate, hshows, hspares⟩ := writeNotice_written h s hq hempty
      rw [if_pos hdone]
      have hu : (writeNotice h s).1.onPort (fun p => { p with noticeQueue := rest }) = { s with
          mem := (writeNotice h s).1.mem
          port := { s.port with
            sum := s.port.sum ||| 8, noticeSerial := s.port.noticeSerial + 1, noticeCursor := s.port.noticeCursor + 1
            noticeQueue := rest } } := by
        rw [hstate]
        rfl
      obtain ⟨n, hr⟩ := ih ((writeNotice h s).1.onPort fun p => { p with noticeQueue := rest }) rfl (by rw [hu]; exact hq)
        (by omega)
      have hn : n ≤ rest.length := hr.le
      exact ⟨n + 1, hr.cons hs (by omega) ((entryOn_zero s).symm ▸ hempty) hu ((entryOn_zero s).symm ▸ hshows.congr fun _ _ => rfl)
        ((entryOn_zero s).symm ▸ hspares)⟩
    next he => exact ⟨0, .none (.inr fun hempty => he (decide_eq_true hempty))⟩

/-- Settles O21: a retry by induction on what is held, the frame by what arrivals and retries keep. -/
theorem retryWritesHeldAndTouchesOnlyNotices : Obligations.RetryWritesHeldAndTouchesOnlyNotices := by
  refine ⟨fun s hq hlen => ?_, fun n s hq t ht => ?_⟩
  · obtain ⟨n, hr⟩ := retryHeld_retried s.port.noticeQueue s rfl hq (by omega)
    refine ⟨n, hr.le, hr.state, hr.stopped, hr.given, hr.spared, fun i h hi hh => ?_⟩
    have shown := hr.shows i h hi hh
    exact ⟨shown.state, shown.kind, shown.racer, shown.label, shown.stamp, shown.detailA, shown.detailB, shown.serial,
      shown.lost⟩
  · obtain rfl | rfl := ht
    · obtain ⟨hturns, hdata, hreads⟩ := deliver_idle n s hq
      exact ⟨eq_of_notices (deliver_keeps n s) (deliver_port n s) ⟨hturns.trans hq.symm, hdata, hreads⟩,
        fun j hj => deliver_spares n s hq hj⟩
    · obtain ⟨hturns, hdata, hreads⟩ := retryNotices_idle s hq
      exact ⟨eq_of_notices (retryNotices_keeps s) (retryNotices_port s) ⟨hturns.trans hq.symm, hdata, hreads⟩,
        fun j hj => retryNotices_spares s hq hj⟩

end Sys2Proof.Machine

/-! PROOFS. The soft reset (R22, R23). -/

namespace Sys2Proof.Machine

open Config

/-! ### In IDLE, and its end -/

theorem exec_softReset_running {s : State} {d : Byte} (hs : s.phase = .running) (h0 : d.getLsbD 0 = true)
    (h1 : d.getLsbD 1 = s.port.lanesOff) : exec (.softReset d) s = .next (beginSoftReset (driveData none s)) := by
  refine congrArg Host.Outcome.next ((hostRegister_of_ne_inReset (by simp [hs]) 4 d).trans ?_)
  have same : writeLanesOff (d.getLsbD 1) (driveData none s) = driveData none s := if_pos h1
  simp only [writeRegister, writeCtl, same, h0]
  exact if_pos (by simp [hs])

theorem ctl_lanesOff (p : HostPort) : p.ctl &&& ctlLanesOff = if p.lanesOff then 2 else 0 := by
  have bits : ∀ c : Byte, c &&& ctlLanesOff = if c.getLsbD 1 then 2 else 0 := by decide
  exact bits p.ctl

/-- The status blocks show what they show by record memory alone. -/
theorem StatusRefreshed.congr {s t u : State} (h : StatusRefreshed s t) (hm : u.mem = t.mem) : StatusRefreshed s u := by
  have bytes : ∀ j, readByte u j = readByte t j := fun j => by simp only [readByte, hm]
  have fields : ∀ a l, readField u a l = readField t a l := fun a l => by simp only [readField, readBytes, bytes]
  simpa only [StatusRefreshed, RaceStatusShows, LaneStatusShows, bytes, fields] using h

/-- Settles O12. -/
theorem softResetInIdleAndItsEnd : Obligations.SoftResetInIdleAndItsEnd := by
  refine ⟨fun s d hs hidle hq h0 h1 => ?_, fun s hs hq => ?_⟩
  · rw [exec_softReset_running hs h0 h1, ← ctl_lanesOff]
    refine congrArg Host.Outcome.next ?_
    have none_void : beginSoftReset (driveData none s) = softBlocks (driveData none s) := if_pos hidle
    rw [none_void]
    have turns : (driveData none s).port.turns = [] := hq
    simp only [softBlocks, turns]
    rfl
  · obtain ⟨heq, hshows⟩ := refreshStatus_refreshed s hq
    refine ⟨finishSoftReset s, rfl, ?_, hshows.congr ?_⟩
    · unfold finishSoftReset
      rw [if_pos hs, heq]
      rfl
    · unfold finishSoftReset
      rw [if_pos hs]
      rfl

/-! ### Outside IDLE -/

/-- A heat entry with its reason RESET and its state VOID written (R23). -/
def entryVoided (a : Nat) (s : State) : State := writeBytes a [4] (writeBytes (a + 7) [7] s)

/-- A heat entry that does not read RUNNING is left as it is. -/
theorem voidHeat_other {was : RaceControl} {s : State} (hw : was.state ≠ .idle) (hq : s.port.turns = [])
    (he : readByte s (entryAddr was.cardCursor) ≠ 2) : voidHeat was s = s := by
  unfold voidHeat
  simp only [if_neg hw, deviceRead_idle s hq, if_neg he]

/-- A heat entry that reads RUNNING is voided, and the notice is produced (R23). -/
theorem voidHeat_running {was : RaceControl} {s : State} (hw : was.state ≠ .idle) (hq : s.port.turns = [])
    (he : readByte s (entryAddr was.cardCursor) = 2) : voidHeat was s =
      deliver (plainNotice .heat 7 (readByte s (entryAddr was.cardCursor + 1)) (now s) was.cardCursor.val 7)
        (entryVoided (entryAddr was.cardCursor) s) := by
  have hq' : (writeBytes (entryAddr was.cardCursor + 7) [7] s).port.turns = [] := by simpa using hq
  have still : readByte (writeBytes (entryAddr was.cardCursor + 7) [7] s) (entryAddr was.cardCursor) &&& 0xFF = 2 := by
    rw [readByte_writeBytes_outside _ _ _ _ (by left; omega), he]
    rfl
  unfold voidHeat
  simp only [if_neg hw, deviceRead_idle s hq, he, if_true, deviceWrite_idle s hq, recheck_idle _ hq', still,
    decide_true, deviceWrite_idle _ hq']
  rfl

theorem entryVoided_reads (a : Nat) (s : State) (ha : a + 8 ≤ memSize) : readByte (entryVoided a s) a = 4 ∧
    readByte (entryVoided a s) (a + 7) = 7 ∧
    ∀ j, ¬ (j = a ∨ j = a + 7) → readByte (entryVoided a s) j = readByte s j := by
  unfold entryVoided
  refine ⟨readByte_writeByte_same _ _ _ (by omega), ?_, fun j hj => ?_⟩
  · rw [readByte_writeBytes_outside _ _ _ _ (by right; simp), readByte_writeByte_same _ _ _ (by omega)]
  · rw [readByte_writeBytes_outside _ _ _ _ (by simp; omega), readByte_writeBytes_outside _ _ _ _ (by simp; omega)]

/-- Settles O13: the notice list is at its reset values, so that a notice goes to entry 0. -/
theorem softResetVoidsRunningHeat : Obligations.SoftResetVoidsRunningHeat := by
  intro s d hs hrace hq h0 h1 a
  have hb : 0x400 ≤ a ∧ a + 64 ≤ 0xC00 := entryAddr_bounds s.race.cardCursor
  have hq' : (softBlocks (driveData none s)).port.turns = [] := hq
  refine ⟨_, exec_softReset_running hs h0 h1, ?_⟩
  unfold beginSoftReset
  rw [show (driveData none s).race = s.race from rfl]
  by_cases he : readByte s a = 2
  · rw [voidHeat_running hrace hq' he]
    obtain ⟨hstate, hreason, hothers⟩ := entryVoided_reads a (softBlocks (driveData none s)) (by unfold memSize; omega)
    have hv : (entryVoided a (softBlocks (driveData none s))).port.turns = [] := hq
    generalize hn : plainNotice .heat 7 (readByte (softBlocks (driveData none s)) (entryAddr s.race.cardCursor + 1))
      (now (softBlocks (driveData none s))) s.race.cardCursor.val 7 = n
    change readByte s a = 2 at he
    change (deliver n (entryVoided a (softBlocks (driveData none s)))).phase = _ ∧ _
    obtain ⟨-, hphase, -, -, hrc, hlaps, hpen, hpower, hstand, -⟩ :=
      deliver_keeps n (entryVoided a (softBlocks (driveData none s)))
    refine ⟨hphase, hrc, hlaps, hpen, hpower, hstand, fun h => absurd he h, fun _ hempty => ?_⟩
    have hentry : readByte (entryVoided a (softBlocks (driveData none s))) (noticeAddr 0) &&& 0x0F = 1 := by
      rw [hothers _ (by simp only [noticeAddr, noticeBase]; omega)]
      exact hempty
    obtain ⟨heq, hshows, hspares⟩ := deliver_written n (entryVoided a (softBlocks (driveData none s))) hv rfl hentry
    change EntryShows 0xE00 n 1 0 _ at hshows
    change ∀ j, ¬ Within 0xE00 16 j → _ at hspares
    have outside : ∀ j, ¬ (j = a ∨ j = a + 7 ∨ Within 0xE00 16 j) →
        readByte (deliver n (entryVoided a (softBlocks (driveData none s)))) j = readByte s j := fun j hj =>
      (hspares j fun hw => hj (.inr (.inr hw))).trans (hothers j fun hw => hj (hw.imp id .inl))
    refine ⟨(hspares a ?_).trans hstate, (hspares (a + 7) ?_).trans hreason, ?_, ?_, ?_, ?_, ?_, ?_, ?_, ?_, ?_, ?_, ?_,
      outside⟩
    · simp only [Within]; omega
    · simp only [Within]; omega
    · exact hshows.state.trans (by rw [← hn]; rfl)
    · exact hshows.kind.trans (by rw [← hn]; rfl)
    · exact hshows.racer.trans (by rw [← hn]; rfl)
    · exact hshows.label.trans (by rw [← hn]; rfl)
    · exact hshows.stamp.trans (by rw [← hn]; exact congrArg BitVec.toNat now_reset)
    · refine hshows.detailA.trans ?_
      rw [← hn]
      exact Nat.mod_eq_of_lt (by change s.race.cardCursor.val < _; omega)
    · exact hshows.detailB.trans (by rw [← hn]; rfl)
    · exact hshows.serial
    · have lost := hshows.lost
      rw [readField_one] at lost
      exact BitVec.eq_of_toNat_eq lost
    · rw [heq]; exact (by decide : (0 : Byte) ||| 8 = 8)
    · rw [heq]; rfl
  · rw [voidHeat_other hrace hq' he]
    exact ⟨rfl, rfl, rfl, rfl, rfl, rfl, fun _ => ⟨rfl, rfl⟩, fun h => absurd h he⟩

end Sys2Proof.Machine

/-! PROOFS. Host accesses to record memory (R1, R2). -/

namespace Sys2Proof.Machine

open Config

/-! ### What a host access does when record memory is open -/

section
variable {s : State} (hs : s.phase = .running ∨ s.phase = .softReset)
include hs

theorem ne_inReset_of_open : s.phase ≠ .inReset := by
  obtain h | h := hs <;> simp [h]

theorem memoryOpen_of_open : memoryOpen s = true := by
  obtain h | h := hs <;> simp [memoryOpen, h]

/-- With CS# high, or both strobes low, a read drives nothing. -/
theorem hostRead_unframed {bus : BusLines} (hb : framesRead bus = false) (l : Landing) :
    hostRead ⟨bus, l⟩ s = driveData none s := by
  simp [hostRead, ne_inReset_of_open hs, hb]

theorem hostWrite_unframed {bus : BusLines} (hb : framesWrite bus = false) (d : Byte) (l : Landing) :
    hostWrite bus d l s = driveData none s := by
  simp [hostWrite, ne_inReset_of_open hs, hb]

theorem hostRead_register {bus : BusLines} (hb : framesRead bus = true) (hr : bus.regselHigh = true) (l : Landing) :
    hostRead ⟨bus, l⟩ s = driveData (some (registerValue (bus.addr.truncate 3) s.port)) s := by
  simp [hostRead, ne_inReset_of_open hs, hb, hr]

theorem hostRead_memory {bus : BusLines} (hb : framesRead bus = true) (hr : bus.regselHigh = false) (l : Landing) :
    hostRead ⟨bus, l⟩ s = memoryAccess l bus.addr none s := by
  simp [hostRead, ne_inReset_of_open hs, hb, hr, memoryOpen_of_open hs]

theorem hostWrite_memory {bus : BusLines} (hb : framesWrite bus = true) (hr : bus.regselHigh = false) (d : Byte)
    (l : Landing) : hostWrite bus d l s = memoryAccess l bus.addr (some d) s := by
  simp [hostWrite, ne_inReset_of_open hs, hb, hr, memoryOpen_of_open hs]

end

/-- An access to come inside a device step waits for its turn (log 5). -/
theorem memoryAccess_inside {s : State} (hq : s.port.turns = []) (n : Nat) (a : BitVec 15) (d : Option Byte) :
    memoryAccess (.inside n) a d s = { s with port := { s.port with
      turns := [{ after := n, addr := a, data := d }], turnReads := [] } } := by
  simp [memoryAccess, State.onPort, hq]

/-- With none waiting a whole access takes place at once. -/
theorem memoryAccess_whole {s : State} (hq : s.port.turns = []) (a : BitVec 15) (d : Option Byte) :
    memoryAccess .whole a d s = transfer a d s := by
  simp [memoryAccess, landAll_idle s hq]

/-- One access that waits comes before the next whole one. -/
theorem landAll_one {s : State} {h : HostTurn} (ht : s.port.turns = [h]) :
    landAll s = landTurn (s.onPort fun p => { p with turns := [] }) h := by
  simp [landAll, ht]

theorem address_lt (a : BitVec 15) : a.toNat < memSize := a.isLt

/-- What a host write stores, and that it stores nothing else. -/
theorem transfer_write (a : BitVec 15) (d : Byte) (s : State) : readByte (transfer a (some d) s) a.toNat = d ∧
    ∀ j, j ≠ a.toNat → readByte (transfer a (some d) s) j = readByte s j :=
  ⟨readByte_writeByte_same _ _ _ (address_lt a), fun j hj => readByte_writeBytes_outside _ _ _ _ (by simp; omega)⟩

/-- A whole read after one access that waits: that access comes first. -/
theorem hostRead_after_one {s : State} (hs : s.phase = .running ∨ s.phase = .softReset) {bus : BusLines}
    (hb : framesRead bus = true) (hr : bus.regselHigh = false) (h : HostTurn) :
    hostRead ⟨bus, .whole⟩ { s with port := { s.port with turns := [h], turnReads := [] } } =
      transfer bus.addr none (landTurn (s.onPort fun p => { p with turns := [], turnReads := [] }) h) := by
  refine (hostRead_memory (s := { s with port := { s.port with turns := [h], turnReads := [] } }) hs hb hr .whole).trans ?_
  unfold memoryAccess
  rw [landAll_one rfl]
  rfl

/-- Settles O14, strobe by strobe. -/
theorem hostAccessReadsOrStoresOneByte : Obligations.HostAccessReadsOrStoresOneByte := by
  intro s bus d l hs hq undriven
  refine ⟨fun hcs hrd hwr => ⟨fun hr => ?_, fun hr => ?_⟩, fun hcs hwr hrd hr => ?_, fun hoff => ⟨?_, ?_⟩,
    fun n other hcs hr ocs ord owr oreg => ⟨fun hwr hrd => ?_, fun hrd hwr => ?_⟩⟩
  · exact congrArg Host.Outcome.next (hostRead_register hs (by simp [framesRead, hcs, hrd, hwr]) hr l)
  · have read := hostRead_memory hs (by simp [framesRead, hcs, hrd, hwr]) hr .whole
    rw [memoryAccess_whole hq] at read
    exact congrArg Host.Outcome.next read
  · have write := hostWrite_memory hs (by simp [framesWrite, hcs, hrd, hwr]) hr d .whole
    rw [memoryAccess_whole hq] at write
    obtain ⟨hhere, helse⟩ := transfer_write bus.addr d s
    exact ⟨_, congrArg Host.Outcome.next write, rfl, hhere, helse⟩
  · refine congrArg Host.Outcome.next (hostRead_unframed hs ?_ l)
    obtain h | ⟨h, g⟩ := hoff
    · simp [framesRead, h]
    · simp [framesRead, h, g]
  · refine congrArg Host.Outcome.next (hostWrite_unframed hs ?_ d l)
    obtain h | ⟨h, g⟩ := hoff
    · simp [framesWrite, h]
    · simp [framesWrite, h, g]
  · have write := hostWrite_memory hs (by simp [framesWrite, hcs, hrd, hwr]) hr d (.inside n)
    rw [memoryAccess_inside hq] at write
    have read := hostRead_after_one hs (by simp [framesRead, ocs, ord, owr]) oreg { after := n, addr := bus.addr, data := some d }
    have hhere := transfer_write bus.addr d (s.onPort fun p => { p with turns := [], turnReads := [] })
    refine ⟨_, _, congrArg Host.Outcome.next write, rfl, congrArg Host.Outcome.next read, rfl, hhere.1, rfl, hhere.2⟩
  · have access := hostRead_memory hs (by simp [framesRead, hcs, hrd, hwr]) hr (.inside n)
    rw [memoryAccess_inside hq] at access
    have read := hostRead_after_one hs (by simp [framesRead, ocs, ord, owr]) oreg { after := n, addr := bus.addr, data := none }
    refine ⟨_, _, congrArg Host.Outcome.next access, rfl, congrArg Host.Outcome.next read, ?_⟩
    simp only [landTurn, transfer, driveData, State.onPort, hq]
    rfl

end Sys2Proof.Machine

/-! PROOFS. One host access that comes between the device's own byte accesses (R2). -/

namespace Sys2Proof.Machine

open Config

/-! ### The device's writes, byte by byte -/

/-- Bytes from an address on, each with its address. -/
def cellsOf : Nat → List Byte → List (Nat × Byte)
  | _, [] => []
  | a, b :: bs => (a, b) :: cellsOf (a + 1) bs

/-- Bytes written one after the other, each after the host accesses whose turn it is. -/
def writeCells : List (Nat × Byte) → State → State
  | [], s => s
  | w :: ws, s => writeCells ws (writeBytes w.1 [w.2] (giveWay s))

theorem cellsOf_length (a : Nat) (bs : List Byte) : (cellsOf a bs).length = bs.length := by
  induction bs generalizing a with
  | nil => rfl
  | cons b bs ih => simp [cellsOf, ih]

theorem writeEach_eq (a : Nat) (bs : List Byte) (s : State) : writeEach a bs s = writeCells (cellsOf a bs) s := by
  induction bs generalizing a s with
  | nil => rfl
  | cons b bs ih => exact ih _ _

theorem writeCells_append (v w : List (Nat × Byte)) (s : State) : writeCells (v ++ w) s = writeCells w (writeCells v s) := by
  induction v generalizing s with
  | nil => rfl
  | cons c v ih => exact ih _

theorem writeCells_wf (w : List (Nat × Byte)) (s : State) (h : s.mem.wf) : (writeCells w s).mem.wf := by
  induction w generalizing s with
  | nil => exact h
  | cons c w ih => exact ih _ (writeBytes_wf _ _ _ (giveWay_wf s h))

/-- Memory in its canonical form is not changed by a write of no byte. -/
theorem write_nil {m : Memory} (h : m.wf) (a : Nat) : Memory.write m a [] = m := by
  obtain ⟨sorted, -⟩ := h
  simp only [Memory.write, cellsFrom, List.append_nil, List.length_nil, Nat.add_zero]
  induction m with
  | nil => rfl
  | cons c m ih =>
    obtain ⟨first, rest⟩ := List.pairwise_cons.mp sorted
    by_cases hc : c.1 < a
    · rw [List.filter_cons_of_pos (by simpa using hc), List.filter_cons_of_neg (by simpa using hc), List.cons_append, ih rest]
    · have none_below : m.filter (fun d => decide (d.1 < a)) = [] := List.filter_eq_nil_iff.mpr fun d hd => by
        have := first d hd
        simp
        omega
      have all_above : m.filter (fun d => decide (a ≤ d.1)) = m := List.filter_eq_self.mpr fun d hd => by
        have := first d hd
        simp
        omega
      rw [List.filter_cons_of_neg (by simpa using hc), List.filter_cons_of_pos (by simpa using hc), none_below, all_above]
      rfl

/-- With memory in its canonical form the device's write is its bytes one after the other, whatever waits. -/
theorem deviceWrite_cells (a : Nat) (bs : List Byte) (s : State) (h : s.mem.wf) :
    deviceWrite a bs s = writeCells (cellsOf a bs) s := by
  rw [← writeEach_eq]
  unfold deviceWrite
  split
  next hq =>
    obtain rfl | hne := eq_or_ne bs []
    · simp only [writeBytes, State.onMem, write_nil h]
      rfl
    · exact (writeEach_idle a bs s hq hne).symm
  · rfl

/-! ### With nothing waiting -/

/-- The byte last written to an address. -/
def lastWrite : List (Nat × Byte) → Nat → Option Byte
  | [], _ => none
  | w :: ws, j => (lastWrite ws j).or (if w.1 = j then some w.2 else none)

theorem lastWrite_append (v w : List (Nat × Byte)) (j : Nat) :
    lastWrite (v ++ w) j = (lastWrite w j).or (lastWrite v j) := by
  induction v with
  | nil => simp [lastWrite]
  | cons c v ih => simp [lastWrite, ih, Option.or_assoc]

theorem writeCells_eq (w : List (Nat × Byte)) (s : State) (hq : s.port.turns = []) :
    writeCells w s = { s with mem := (writeCells w s).mem } := by
  induction w generalizing s with
  | nil => rfl
  | cons c w ih =>
    unfold writeCells
    rw [giveWay_idle s hq, ih _ (by simpa using hq)]
    rfl

theorem writeCells_turns (w : List (Nat × Byte)) (s : State) (hq : s.port.turns = []) :
    (writeCells w s).port.turns = [] := by
  rw [writeCells_eq w s hq]
  exact hq

theorem readByte_writeCells (w : List (Nat × Byte)) (hw : ∀ c ∈ w, c.1 < memSize) (s : State) (hq : s.port.turns = [])
    (j : Nat) : readByte (writeCells w s) j = (lastWrite w j).getD (readByte s j) := by
  induction w generalizing s with
  | nil => rfl
  | cons c w ih =>
    unfold writeCells lastWrite
    rw [giveWay_idle s hq, ih (fun d hd => hw d (List.mem_cons_of_mem c hd)) _ (by simpa using hq)]
    cases lastWrite w j with
    | some b => rfl
    | none =>
      simp only [Option.getD_none, Option.none_or]
      split
      next hc =>
        subst hc
        exact readByte_writeByte_same _ _ _ (hw c List.mem_cons_self)
      next hc => exact readByte_writeBytes_outside _ _ _ _ (by simp; omega)

/-- Two states with one memory have one memory after the same writes. -/
theorem writeCells_mem (w : List (Nat × Byte)) {s t : State} (hs : s.port.turns = []) (ht : t.port.turns = [])
    (hm : t.mem = s.mem) : (writeCells w t).mem = (writeCells w s).mem := by
  induction w generalizing s t with
  | nil => exact hm
  | cons c w ih =>
    unfold writeCells
    rw [giveWay_idle s hs, giveWay_idle t ht]
    refine ih (by simpa using hs) (by simpa using ht) ?_
    simp only [writeBytes, State.onMem, hm]

/-! ### With one host access waiting -/

/-- A state with one host access waiting for its turn. -/
def waiting (s : State) (h : HostTurn) : State := s.onPort fun p => { p with turns := [h] }

theorem giveWay_waiting {s : State} (hq : s.port.turns = []) (h : HostTurn) :
    giveWay (waiting s h) = if h.after = 0 then landTurn s h else waiting s { h with after := h.after - 1 } := by
  have landed : (landTurn (waiting s h) h).onPort (fun p => { p with turns := [] }) = landTurn s h := by
    obtain ⟨after, addr, _ | d⟩ := h <;>
      simp only [landTurn, transfer, waiting, driveData, writeBytes, State.onPort, State.onMem, ← hq] <;> rfl
  change landReady [h] (waiting s h) = _
  unfold landReady
  split
  · exact landed
  · rfl


theorem waiting_turns (s : State) (h : HostTurn) : (waiting s h).port.turns = [h] := rfl

/-- The device's write of one byte while a host access waits for a later turn. -/
theorem writeBytes_waiting (a : Nat) (bs : List Byte) (s : State) (h : HostTurn) :
    writeBytes a bs (waiting s h) = waiting (writeBytes a bs s) h := rfl

/-- A host access that waits takes place before the device's access whose turn it names. -/
theorem writeCells_waiting (w : List (Nat × Byte)) (s : State) (hq : s.port.turns = []) (h : HostTurn) :
    writeCells w (waiting s h) =
      if w.length ≤ h.after then waiting (writeCells w s) { h with after := h.after - w.length }
      else writeCells (w.drop h.after) (landTurn (writeCells (w.take h.after) s) h) := by
  induction w generalizing s h with
  | nil => rfl
  | cons c w ih =>
    obtain ⟨after, addr, data⟩ := h
    rw [writeCells, giveWay_waiting hq]
    cases after with
    | zero =>
      have landed : (landTurn s ⟨0, addr, data⟩).port.turns = [] := by
        cases data <;> simpa [landTurn, transfer, driveData] using hq
      simp only [List.length_cons, Nat.le_zero, Nat.add_one_ne_zero, if_true, if_false, List.take_zero, List.drop_zero]
      rw [writeCells, writeCells, giveWay_idle _ landed]
    | succ m =>
      rw [if_neg (Nat.succ_ne_zero m), writeBytes_waiting, ih _ (by simpa using hq)]
      simp only [List.length_cons, Nat.add_le_add_iff_right, List.take_succ_cons, List.drop_succ_cons, writeCells,
        giveWay_idle s hq, Nat.add_sub_add_right, Nat.add_sub_cancel]
      rfl

/-! ### One update of a block -/

/-- The bytes of one update of a block, the count before it read as `r` (R10). -/
def updateCells (c a : Nat) (bs : List Byte) (r : Byte) : List (Nat × Byte) :=
  (c, r + 1) :: (cellsOf a bs ++ [(c, r + 2)])

theorem updateCells_length (c a : Nat) (bs : List Byte) (r : Byte) :
    (updateCells c a bs r).length = bs.length + 2 := by
  simp [updateCells, cellsOf_length]

theorem updateBlock_cells (c a : Nat) (bs : List Byte) (s : State) (h : s.mem.wf) :
    updateBlock c [(a, bs)] s = writeCells (updateCells c a bs (readByte (giveWay s) c)) (giveWay s) := by
  have wf1 := giveWay_wf s h
  have wf2 := writeCells_wf [(c, readByte (giveWay s) c + 1)] _ wf1
  have wf3 := writeCells_wf (cellsOf a bs) _ wf2
  unfold updateBlock deviceRead
  simp only [List.foldl_cons, List.foldl_nil]
  rw [deviceWrite_cells _ _ _ wf1]
  unfold cellsOf cellsOf
  rw [deviceWrite_cells _ _ _ wf2, deviceWrite_cells _ _ _ wf3, updateCells]
  exact (writeCells_append (cellsOf a bs) _ _).symm

theorem cellsOf_drop (a : Nat) (bs : List Byte) (m : Nat) : (cellsOf a bs).drop m = cellsOf (a + m) (bs.drop m) := by
  induction m generalizing a bs with
  | zero => rfl
  | succ m ih =>
    cases bs with
    | nil => rfl
    | cons b bs =>
      rw [cellsOf, List.drop_succ_cons, List.drop_succ_cons, ih]
      congr 1
      omega

theorem cellsOf_take (a : Nat) (bs : List Byte) (m : Nat) : (cellsOf a bs).take m = cellsOf a (bs.take m) := by
  induction m generalizing a bs with
  | zero => rfl
  | succ m ih =>
    cases bs with
    | nil => rfl
    | cons b bs => rw [cellsOf, List.take_succ_cons, List.take_succ_cons, ih, cellsOf]

theorem lastWrite_cellsOf (a : Nat) (bs : List Byte) (j : Nat) :
    lastWrite (cellsOf a bs) j = if a ≤ j then bs[j - a]? else none := by
  induction bs generalizing a with
  | nil => simp [cellsOf, lastWrite]
  | cons b bs ih =>
    unfold cellsOf lastWrite
    rw [ih]
    dsimp only
    obtain hlt | rfl | hgt := Nat.lt_trichotomy a j
    · obtain ⟨i, rfl⟩ : ∃ i, j = a + 1 + i := ⟨j - (a + 1), by omega⟩
      rw [if_pos (show a + 1 ≤ a + 1 + i by omega), if_pos (show a ≤ a + 1 + i by omega),
        if_neg (show ¬ a = a + 1 + i by omega), Option.or_none,
        show a + 1 + i - (a + 1) = i by omega, show a + 1 + i - a = i + 1 by omega, List.getElem?_cons_succ]
    · simp
    · rw [if_neg (show ¬ a + 1 ≤ j by omega), if_neg (show ¬ a = j by omega), if_neg (show ¬ a ≤ j by omega)]
      rfl

/-- What an access between two writes leaves: its own byte where it is not written again, else as without it. -/
theorem lastWrite_insert (v w : List (Nat × Byte)) (x : Nat × Byte) (j : Nat) :
    lastWrite (v ++ x :: w) j = if x.1 = j then some ((lastWrite w j).getD x.2) else lastWrite (v ++ w) j := by
  rw [lastWrite_append, lastWrite_append, lastWrite]
  split
  · cases lastWrite w j <;> rfl
  · rw [Option.or_none]

theorem lastWrite_updateCells (c a : Nat) (bs : List Byte) (r : Byte) (j : Nat) :
    lastWrite (updateCells c a bs r) j = if j = c then some (r + 2) else lastWrite (cellsOf a bs) j := by
  unfold updateCells
  rw [lastWrite, lastWrite_append]
  by_cases h : j = c
  · subst h
    simp [lastWrite]
  · rw [if_neg h, if_neg (Ne.symm h), Option.or_none]
    simp [lastWrite, Ne.symm h]

theorem lastWrite_updateCells_drop (c a : Nat) (bs : List Byte) (r : Byte) (m j : Nat) (hm : m ≤ bs.length) :
    lastWrite ((updateCells c a bs r).drop (m + 1)) j =
      if j = c then some (r + 2) else lastWrite (cellsOf (a + m) (bs.drop m)) j := by
  unfold updateCells
  rw [List.drop_succ_cons, List.drop_append_of_le_length (by rwa [cellsOf_length]), cellsOf_drop, lastWrite_append]
  by_cases h : j = c
  · subst h
    simp [lastWrite]
  · simp [lastWrite, h, Ne.symm h]

theorem lastWrite_updateCells_take (c a : Nat) (bs : List Byte) (r : Byte) (m j : Nat) (hm : m ≤ bs.length) :
    lastWrite ((updateCells c a bs r).take (m + 1)) j =
      (lastWrite (cellsOf a (bs.take m)) j).or (if c = j then some (r + 1) else none) := by
  unfold updateCells
  rw [List.take_succ_cons, List.take_append_of_le_length (by rwa [cellsOf_length]), cellsOf_take, lastWrite]

theorem updateCells_inside {c a : Nat} {bs : List Byte} (r : Byte) (hc : c < memSize) (ha : a + bs.length ≤ memSize) :
    ∀ x ∈ updateCells c a bs r, x.1 < memSize := by
  have fields : ∀ (bs : List Byte) (a : Nat), a + bs.length ≤ memSize → ∀ x ∈ cellsOf a bs, x.1 < memSize := by
    intro bs
    induction bs with
    | nil => simp [cellsOf]
    | cons b bs ih =>
      intro a h x hx
      rw [List.length_cons] at h
      obtain rfl | hx := List.mem_cons.mp hx
      · change a < memSize
        omega
      · exact ih (a + 1) (by omega) x hx
  intro x hx
  simp only [updateCells, List.mem_cons, List.mem_append, List.not_mem_nil, or_false] at hx
  obtain rfl | hx | rfl := hx
  · exact hc
  · exact fields bs a ha x hx
  · exact hc

end Sys2Proof.Machine

/-! PROOFS. One host access inside an update of a block (R2, R10), and inside the writing of a notice (R9). -/

namespace Sys2Proof.Machine

open Config

/-- An update of a block with one host access waiting: the access comes later, or between two of the device's accesses. -/
theorem updateBlock_waiting (s : State) (hq : s.port.turns = []) (hm : s.mem.wf) (c a : Nat) (bs : List Byte) (h : HostTurn) :
    updateBlock c [(a, bs)] (waiting s h) =
      if bs.length + 3 ≤ h.after then
        waiting (updateBlock c [(a, bs)] s) { h with after := h.after - (bs.length + 3) }
      else
        let w := updateCells c a bs (if h.after = 0 then readByte (landTurn s h) c else readByte s c)
        writeCells (w.drop (h.after - 1)) (landTurn (writeCells (w.take (h.after - 1)) s) h) := by
  obtain ⟨after, addr, data⟩ := h
  rw [updateBlock_cells c a bs (waiting _ _) hm, updateBlock_cells c a bs s hm, giveWay_waiting hq, giveWay_idle s hq]
  cases after with
  | zero => rfl
  | succ m =>
    rw [if_neg (Nat.succ_ne_zero m)]
    simp only [if_neg (Nat.succ_ne_zero m), Nat.add_sub_cancel]
    have seen : readByte (waiting s ⟨m, addr, data⟩) c = readByte s c := rfl
    rw [seen, writeCells_waiting _ _ hq, updateCells_length]
    by_cases hlen : bs.length + 2 ≤ m
    · rw [if_pos hlen, if_pos (by omega)]
      simp only [show m + 1 - (bs.length + 3) = m - (bs.length + 2) by omega]
    · rw [if_neg hlen, if_neg (by omega)]
      rfl

/-- A host write that takes place between the device's writes. -/
theorem writeCells_hostWrite (v w : List (Nat × Byte)) (s : State) (hq : s.port.turns = []) (n : Nat) (addr : BitVec 15)
    (d : Byte) :
    writeCells w (landTurn (writeCells v s) ⟨n, addr, some d⟩) = { s with
      mem := (writeCells (v ++ (addr.toNat, d) :: w) s).mem
      port := { s.port with dataOut := none } } := by
  have base : (landTurn (writeCells v s) ⟨n, addr, some d⟩) =
      { s with mem := (writeCells (v ++ [(addr.toNat, d)]) s).mem, port := { s.port with dataOut := none } } := by
    rw [writeCells_append, writeCells_eq v s hq]
    simp only [writeCells]
    rw [giveWay_idle _ (show ({ s with mem := (writeCells v s).mem } : State).port.turns = [] from hq)]
    rfl
  have turned : (landTurn (writeCells v s) ⟨n, addr, some d⟩).port.turns = [] := by
    rw [base]
    exact hq
  have later := writeCells_mem w (s := writeCells (v ++ [(addr.toNat, d)]) s) (writeCells_turns _ s hq) turned (by rw [base])
  rw [← writeCells_append, List.append_assoc] at later
  rw [writeCells_eq _ _ turned, later, base]
  rfl

/-- A host read that takes place between the device's writes drives the byte as it stands then. -/
theorem writeCells_hostRead (v w : List (Nat × Byte)) (s : State) (hq : s.port.turns = []) (n : Nat) (addr : BitVec 15) :
    let b := readByte (writeCells v s) addr.toNat
    writeCells w (landTurn (writeCells v s) ⟨n, addr, none⟩) = { s with
      mem := (writeCells (v ++ w) s).mem
      port := { s.port with dataOut := some b, turnReads := s.port.turnReads ++ [b] } } := by
  intro b
  have base : (landTurn (writeCells v s) ⟨n, addr, none⟩) = { s with
      mem := (writeCells v s).mem
      port := { s.port with dataOut := some b, turnReads := s.port.turnReads ++ [b] } } := by
    rw [writeCells_eq v s hq]
    rfl
  have turned : (landTurn (writeCells v s) ⟨n, addr, none⟩).port.turns = [] := by
    rw [base]
    exact hq
  have later := writeCells_mem w (s := writeCells v s) (writeCells_turns v s hq) turned (by rw [base])
  rw [← writeCells_append] at later
  rw [writeCells_eq _ _ turned, later, base]

/-- What is written after a host access whose turn is the `n`th, the count apart: the fields from there on. -/
theorem lastWrite_updateCells_after {c a : Nat} {bs : List Byte} (r : Byte) {n j : Nat} (hn : n < bs.length + 3)
    (hne : j ≠ c) :
    lastWrite ((updateCells c a bs r).drop (n - 1)) j = if j + 2 < n + a then none else lastWrite (cellsOf a bs) j := by
  obtain h | ⟨m, rfl⟩ : n ≤ 1 ∨ ∃ m, n = m + 2 := by
    obtain h | h := Nat.lt_or_ge n 2
    · exact .inl (by omega)
    · exact .inr ⟨n - 2, by omega⟩
  · rw [show n - 1 = 0 by omega, List.drop_zero, lastWrite_updateCells, if_neg hne, lastWrite_cellsOf]
    split
    · rw [if_neg (by omega)]
    · rw [ite_self]
  · rw [show m + 2 - 1 = m + 1 by omega, lastWrite_updateCells_drop _ _ _ _ _ _ (by omega), if_neg hne, lastWrite_cellsOf,
      lastWrite_cellsOf]
    by_cases him : j < a + m
    · rw [if_neg (by omega), if_pos (by omega)]
    · rw [if_pos (show a + m ≤ j by omega), if_neg (show ¬ j + 2 < m + 2 + a by omega), if_pos (show a ≤ j by omega),
        List.getElem?_drop]
      congr 1
      omega

/-- The count is written once more after every host access inside the update. -/
theorem lastWrite_updateCells_count (c a : Nat) (bs : List Byte) (r : Byte) {n : Nat} (hn : n < bs.length + 3) :
    lastWrite ((updateCells c a bs r).drop (n - 1)) c = some (r + 2) := by
  obtain h | ⟨m, rfl⟩ : n ≤ 1 ∨ ∃ m, n = m + 2 := by
    obtain h | h := Nat.lt_or_ge n 2
    · exact .inl (by omega)
    · exact .inr ⟨n - 2, by omega⟩
  · rw [show n - 1 = 0 by omega, List.drop_zero, lastWrite_updateCells, if_pos rfl]
  · rw [show m + 2 - 1 = m + 1 by omega, lastWrite_updateCells_drop _ _ _ _ _ _ (by omega), if_pos rfl]

/-- The count and the fields that come before a host access whose turn is the `n`th. -/
theorem lastWrite_updateCells_before (c a : Nat) (bs : List Byte) (r : Byte) {n : Nat} (hn : n < bs.length + 3) (j : Nat)
    (hc : ¬ Within a bs.length c) :
    lastWrite ((updateCells c a bs r).take (n - 1)) j =
      if j = c then (if n ≤ 1 then none else some (r + 1))
      else if j + 2 < n + a then lastWrite (cellsOf a bs) j else none := by
  obtain h | ⟨m, rfl⟩ : n ≤ 1 ∨ ∃ m, n = m + 2 := by
    obtain h | h := Nat.lt_or_ge n 2
    · exact .inl (by omega)
    · exact .inr ⟨n - 2, by omega⟩
  · rw [show n - 1 = 0 by omega, List.take_zero, if_pos h, lastWrite_cellsOf]
    split
    · rfl
    · split
      · rw [if_neg (by omega)]
        rfl
      · rfl
  · rw [show m + 2 - 1 = m + 1 by omega, lastWrite_updateCells_take _ _ _ _ _ _ (by omega), lastWrite_cellsOf,
      lastWrite_cellsOf, List.getElem?_take]
    by_cases hj : j = c
    · subst hj
      have outside : (if a ≤ j then if j - a < m then bs[j - a]? else none else none) = none := by
        unfold Within at hc
        split
        · rw [List.getElem?_eq_none (by omega), ite_self]
        · rfl
      rw [outside, if_pos rfl, if_pos rfl, if_neg (by omega)]
      rfl
    · rw [if_neg (Ne.symm hj), if_neg hj, Option.or_none]
      split
      · split
        · rw [if_pos (by omega)]
        · rw [if_neg (by omega)]
      · rw [ite_self]


/-- Settles O15: the update is its bytes one after the other with the access between two of them (`updateBlock_waiting`),
and the last write of each byte decides (`readByte_writeCells`). -/
theorem hostAccessComesBetweenDeviceBytes : Obligations.HostAccessComesBetweenDeviceBytes := by
  intro s c a bs n addr hm hq hc ha hout plain met
  have inside : ∀ r, ∀ x ∈ updateCells c a bs r, x.1 < memSize := fun r => updateCells_inside r hc ha
  have address : addr.toNat < memSize := address_lt addr
  have met_eq : ∀ data, met data = _ := fun data => updateBlock_waiting s hq hm c a bs ⟨n, addr, data⟩
  have plain_eq : plain = writeCells (updateCells c a bs (readByte s c)) s := by
    have := updateBlock_cells c a bs s hm
    rwa [giveWay_idle s hq] at this
  have plain_byte : ∀ j, readByte plain j =
      (if j = c then some (readByte s c + 2) else lastWrite (cellsOf a bs) j).getD (readByte s j) := fun j => by
    rw [plain_eq, readByte_writeCells _ (inside _) s hq, lastWrite_updateCells]
  refine ⟨fun hlate data => ?_, fun hn => ⟨fun d => ?_, ?_⟩⟩
  · rw [met_eq, if_pos hlate]
    rfl
  · have hw := met_eq (some d)
    rw [if_neg (show ¬ bs.length + 3 ≤ n by omega)] at hw
    dsimp only at hw
    generalize hr : (if n = 0 then readByte (landTurn s ⟨n, addr, some d⟩) c else readByte s c) = r at hw
    rw [writeCells_hostWrite _ _ s hq] at hw
    have cells : ∀ x ∈ (updateCells c a bs r).take (n - 1) ++ (addr.toNat, d) :: (updateCells c a bs r).drop (n - 1),
        x.1 < memSize := fun x hx => by
      simp only [List.mem_append, List.mem_cons] at hx
      obtain hx | rfl | hx := hx
      · exact inside r x (List.mem_of_mem_take hx)
      · exact address
      · exact inside r x (List.mem_of_mem_drop hx)
    have byte : ∀ j, readByte (met (some d)) j = (if addr.toNat = j then
        some ((lastWrite ((updateCells c a bs r).drop (n - 1)) j).getD d)
        else lastWrite (updateCells c a bs r) j).getD (readByte s j) := fun j => by
      have := readByte_writeCells _ cells s hq j
      rw [lastWrite_insert, List.take_append_drop] at this
      rw [hw]
      exact this
    have found : addr.toNat ≠ c → r = readByte s c := fun hne => by
      rw [← hr]
      split
      · exact readByte_writeBytes_outside _ _ _ _ (by simp; omega)
      · rfl
    refine ⟨?_, fun j hj hjc => ?_, fun hac => ?_, fun hne => ?_, fun i hi hai => ?_, fun hne hw' => ?_⟩
    · rw [hw]
    · rw [byte, plain_byte, if_neg (Ne.symm hj), if_neg hjc, lastWrite_updateCells, if_neg hjc]
    · rw [byte, if_pos hac, lastWrite_updateCells_count _ _ _ _ hn, ← hr]
      split
      · have written : readByte (landTurn s ⟨n, addr, some d⟩) c = d := by
          rw [← hac]
          exact readByte_writeByte_same s addr.toNat d address
        rw [written]
        rfl
      · rfl
    · rw [byte, plain_byte, if_neg hne, lastWrite_updateCells, if_pos rfl, if_pos rfl, found hne]
    · have hne : a + i ≠ c := fun h => hout ⟨by omega, by omega⟩
      have written : lastWrite (cellsOf a bs) (a + i) = bs[i]? := by
        rw [lastWrite_cellsOf, if_pos (by omega), Nat.add_sub_cancel_left]
      rw [byte, plain_byte, if_pos hai, lastWrite_updateCells_after r hn hne, if_neg hne, written]
      simp only [show a + i + 2 < n + a ↔ i + 2 < n by omega]
      split
      · rfl
      · rw [List.getElem?_eq_getElem hi]
        rfl
    · have hlast : lastWrite ((updateCells c a bs r).drop (n - 1)) addr.toNat = none := by
        unfold Within at hw'
        rw [lastWrite_updateCells_after r hn hne, lastWrite_cellsOf]
        split
        · rfl
        · split
          · exact List.getElem?_eq_none (by omega)
          · rfl
      rw [byte, if_pos rfl, hlast]
      rfl
  · intro t b
    have hw := met_eq none
    rw [if_neg (show ¬ bs.length + 3 ≤ n by omega)] at hw
    dsimp only at hw
    have same : (if n = 0 then readByte (landTurn s ⟨n, addr, none⟩) c else readByte s c) = readByte s c := ite_self _
    rw [same, writeCells_hostRead _ _ s hq, List.take_append_drop] at hw
    have seen : readByte (writeCells ((updateCells c a bs (readByte s c)).take (n - 1)) s) addr.toNat = b := by
      rw [readByte_writeCells _ (fun x hx => inside _ x (List.mem_of_mem_take hx)) s hq,
        lastWrite_updateCells_before _ _ _ _ hn _ hout]
      change _ = if addr.toNat = c then _ else _
      by_cases hac : addr.toNat = c
      · rw [if_pos hac, if_pos hac, hac]
        split <;> rfl
      · rw [if_neg hac, if_neg hac, plain_byte, if_neg hac]
        split <;> rfl
    rw [seen] at hw
    rw [plain_eq, writeCells_eq _ s hq]
    exact hw


/-! ### A notice entry taken back (R9) -/

/-- A host access that waits for a turn no later than the device's next access has taken place by then. -/
theorem giveWay_writeCells (w : List (Nat × Byte)) (s : State) (hq : s.port.turns = []) (h : HostTurn)
    (hlen : h.after ≤ w.length) :
    giveWay (writeCells w (waiting s h)) = writeCells (w.drop h.after) (landTurn (writeCells (w.take h.after) s) h) := by
  have landed : ∀ v, (landTurn (writeCells v s) h).port.turns = [] := fun v => by
    obtain ⟨after, addr, _ | d⟩ := h <;> simpa [landTurn, transfer, driveData] using writeCells_turns v s hq
  rw [writeCells_waiting w s hq h]
  split
  next hle =>
    have heq : h.after = w.length := by omega
    rw [giveWay_waiting (writeCells_turns w s hq), if_pos (by dsimp only; omega), heq, List.drop_length, List.take_length]
    rfl
  · exact giveWay_idle _ (writeCells_turns _ _ (landed _))

/-- What the device has when it rechecks an entry that the host has taken back: the host's state byte, and nothing else of
its own changed but bytes. -/
theorem giveWay_writeCells_takenBack {w : List (Nat × Byte)} {a k : Nat} {addr : BitVec 15} {d : Byte} (s : State)
    (hq : s.port.turns = []) (hw : ∀ c ∈ w, a < c.1 ∧ c.1 < memSize) (ha : addr.toNat = a) (hk : k ≤ w.length) :
    ∃ m, giveWay (writeCells w (waiting s ⟨k, addr, some d⟩)) =
        { s with mem := m, port := { s.port with dataOut := none } } ∧
      readByte { s with mem := m, port := { s.port with dataOut := none } } a = d := by
  rw [giveWay_writeCells w s hq _ hk, writeCells_hostWrite _ _ s hq]
  refine ⟨_, rfl, ?_⟩
  have untouched : ∀ v : List (Nat × Byte), (∀ c ∈ v, a < c.1) → lastWrite v a = none := fun v => by
    induction v with
    | nil => exact fun _ => rfl
    | cons c v ih =>
      intro h
      obtain ⟨hc, hv⟩ := List.forall_mem_cons.mp h
      rw [lastWrite, ih hv, if_neg (by omega)]
      rfl
  have byte := readByte_writeCells (w.take k ++ (addr.toNat, d) :: w.drop k) (fun c hc => by
    simp only [List.mem_append, List.mem_cons] at hc
    obtain hc | rfl | hc := hc
    · exact (hw c (List.mem_of_mem_take hc)).2
    · exact address_lt addr
    · exact (hw c (List.mem_of_mem_drop hc)).2) s hq a
  rw [lastWrite_insert, if_pos ha, untouched _ fun c hc => (hw c (List.mem_of_mem_drop hc)).1] at byte
  exact byte

theorem cellsOf_inside (a : Nat) (bs : List Byte) : ∀ c ∈ cellsOf a bs, a ≤ c.1 ∧ c.1 < a + bs.length := by
  induction bs generalizing a with
  | nil => simp [cellsOf]
  | cons b bs ih =>
    intro c hc
    rw [List.length_cons]
    obtain rfl | hc := List.mem_cons.mp hc
    · exact ⟨le_refl a, by dsimp only; omega⟩
    · have := ih (a + 1) c hc
      omega

/-- A notice whose entry the host takes back in time waits in the hold queue, and the host's state byte stands. -/
theorem deliver_takenBack (n : Notice) (s : State) (hq : s.port.turns = []) (hnil : s.port.noticeQueue = [])
    (hlost : s.port.noticeLost = 0) (he : readByte s (noticeAddr s.port.noticeCursor) &&& 0x0F = 1) (d : Byte)
    (hd : d &&& 0x0F ≠ 1) (addr : BitVec 15) (haddr : addr.toNat = noticeAddr s.port.noticeCursor) (k : Nat) (hk : k ≤ 16) :
    ∃ m, let t := { s with mem := m, port := { s.port with dataOut := none } }
      deliver n (waiting s ⟨k, addr, some d⟩) = holdNotice { notice := n, lost := 0 } t ∧
        readByte t (noticeAddr s.port.noticeCursor) = d := by
  have hb := noticeAddr_bounds s.port.noticeCursor
  have accepted : acceptNotice n (waiting s ⟨k, addr, some d⟩) = (waiting s ⟨k, addr, some d⟩, { notice := n, lost := 0 }) := by
    simp only [acceptNotice, waiting, State.onPort, hlost]
    rfl
  have queue : (waiting s ⟨k, addr, some d⟩).port.noticeQueue = [] := hnil
  unfold deliver
  rw [retryNotices_of_empty _ queue]
  simp only [queue, accepted]
  unfold noticeEntryEmpty recheck deviceRead
  rw [giveWay_waiting hq]
  change ∃ m, (if (decide (readByte _ (noticeAddr s.port.noticeCursor) &&& 0x0F = 1)) then _ else _) = _ ∧ _
  cases k with
  | zero =>
    obtain ⟨m, hland, hbyte⟩ := giveWay_writeCells_takenBack (w := []) (k := 0) (d := d) s hq (by simp) haddr (Nat.zero_le 0)
    rw [writeCells, giveWay_waiting hq, if_pos rfl] at hland
    refine ⟨m, ?_, hbyte⟩
    simp only [if_true, hland, hbyte, hd, decide_false, Bool.false_eq_true, if_false]
  | succ k =>
    have seen : readByte (waiting s ⟨k, addr, some d⟩) (noticeAddr s.port.noticeCursor) &&& 0x0F = 1 := he
    simp only [Nat.add_one_ne_zero, if_false, Nat.add_sub_cancel, seen, decide_true, if_true]
    have written : ∀ bs, deviceWrite (noticeAddr s.port.noticeCursor + 1) bs (waiting s ⟨k, addr, some d⟩) =
        writeCells (cellsOf (noticeAddr s.port.noticeCursor + 1) bs) (waiting s ⟨k, addr, some d⟩) :=
      fun bs => writeEach_eq _ _ _
    obtain ⟨m, hland, hbyte⟩ := giveWay_writeCells_takenBack (d := d) (k := k)
      (w := cellsOf (noticeAddr s.port.noticeCursor + 1) (noticeBytes { notice := n, lost := 0 } (s.port.noticeSerial + 1)))
      s hq (fun c hc => by
        have hin := cellsOf_inside _ _ c hc
        rw [noticeBytes_length] at hin
        unfold memSize
        omega) haddr (by rw [cellsOf_length, noticeBytes_length]; omega)
    have failed : writeNotice { notice := n, lost := 0 } (waiting s ⟨k, addr, some d⟩) =
        ({ s with mem := m, port := { s.port with dataOut := none } }, false) := by
      have cursor : (waiting s ⟨k, addr, some d⟩).port.noticeCursor = s.port.noticeCursor := rfl
      have serial : (waiting s ⟨k, addr, some d⟩).port.noticeSerial = s.port.noticeSerial := rfl
      unfold writeNotice recheck deviceRead
      simp only [cursor, serial, written, hland, hbyte, hd, decide_false, Bool.false_eq_true, if_false]
    refine ⟨m, ?_, hbyte⟩
    simp only [failed, Bool.false_eq_true, if_false]

/-- Settles O16 (`deliver_takenBack`). -/
theorem hostTakesBackNoticeEntry : Obligations.HostTakesBackNoticeEntry := by
  intro n s d k a hnil hlost he hk hturns hd
  have hb := noticeAddr_bounds s.port.noticeCursor
  have haddr : (BitVec.ofNat 15 a).toNat = a := by
    rw [BitVec.toNat_ofNat]
    exact Nat.mod_eq_of_lt (by change noticeAddr s.port.noticeCursor < _; omega)
  have split : s = waiting { s with port := { s.port with turns := [] } } ⟨k, BitVec.ofNat 15 a, some d⟩ := by
    unfold waiting State.onPort
    rw [← hturns]
  obtain ⟨m, hdeliver, hbyte⟩ := deliver_takenBack n { s with port := { s.port with turns := [] } } rfl hnil hlost he d hd _
    haddr k hk
  rw [← split] at hdeliver
  rw [hdeliver]
  refine ⟨hbyte, ?_, rfl, rfl, rfl, rfl⟩
  change s.port.noticeQueue ++ _ = _
  rw [hnil]
  rfl

end Sys2Proof.Machine

/-! PROOFS. What no work within a tick moves: the tick count and the epoch, the prescalers, the reference state with its
stamps, and the chop counter. -/

namespace Sys2Proof.Machine

open Config

/-- The timebase without what the works of a tick move: the racing tick count and the model's own marks. -/
def Timebase.counts (t : Timebase) : Timebase :=
  { t with racingTicks := 0, racingSince := 0, raced := false, idleNow := false, wrapDue := false, serviceDue := false,
           scanLeft := 0 }

theorem counts_tickCount {t u : Timebase} (h : t.counts = u.counts) : t.tickCount = u.tickCount :=
  show t.counts.tickCount = u.counts.tickCount by rw [h]

theorem counts_epoch {t u : Timebase} (h : t.counts = u.counts) : t.epoch = u.epoch :=
  show t.counts.epoch = u.counts.epoch by rw [h]

theorem now_of_counts {s t : State} (h : t.time.counts = s.time.counts) : now t = now s := by
  unfold now
  rw [counts_tickCount h, counts_epoch h]

/-- A work done for each member of a list leaves the counts where it leaves them for each. -/
theorem foldl_counts {β : Type} (f : State → β → State)
    (hf : ∀ s b, (f s b).time.counts = s.time.counts ∧ (f s b).power.chopCounter = s.power.chopCounter) (bs : List β)
    (s : State) :
    (bs.foldl f s).time.counts = s.time.counts ∧ (bs.foldl f s).power.chopCounter = s.power.chopCounter := by
  induction bs generalizing s with
  | nil => exact ⟨rfl, rfl⟩
  | cons b bs ih => exact ⟨(ih _).1.trans (hf s b).1, (ih _).2.trans (hf s b).2⟩

@[simp] theorem State.onPowerLane_chopCounter (k : Lane) (f : PowerLane → PowerLane) (s : State) :
    (s.onPowerLane k f).power.chopCounter = s.power.chopCounter := rfl


/-! ### Lane power and the penalty unit -/

@[simp] theorem stopRacing_counts (x : Stamp) (s : State) :
    (stopRacing x s).time.counts = s.time.counts ∧
    (stopRacing x s).power.chopCounter = s.power.chopCounter := ⟨rfl, rfl⟩

@[simp] theorem startRacing_counts (x : Stamp) (s : State) :
    (startRacing x s).time.counts = s.time.counts ∧
    (startRacing x s).power.chopCounter = s.power.chopCounter := ⟨rfl, rfl⟩

@[simp] theorem timeIdle_counts (x : Stamp) (s : State) :
    (timeIdle x s).time.counts = s.time.counts ∧ (timeIdle x s).power.chopCounter = s.power.chopCounter := ⟨rfl, rfl⟩

@[simp] theorem evalLane_counts (x : Stamp) (k : Lane) (s : State) :
    (evalLane x k s).time.counts = s.time.counts ∧ (evalLane x k s).power.chopCounter = s.power.chopCounter := by
  generalize e : evalLane x k s = t
  simp only [evalLane] at e
  (repeat' split at e) <;> subst e <;> simp

@[simp] theorem evalAll_counts (x : Stamp) (s : State) :
    (evalAll x s).time.counts = s.time.counts ∧
    (evalAll x s).power.chopCounter = s.power.chopCounter :=
  foldl_counts _ (fun s k => evalLane_counts x k s) _ s

@[simp] theorem powerRace_counts (r : RaceState) (x : Stamp) (s : State) :
    (powerRace r x s).time.counts = s.time.counts ∧ (powerRace r x s).power.chopCounter = s.power.chopCounter := by
  simp [powerRace]

@[simp] theorem powerStaging_counts (h : HeatSnapshot) (x : Stamp) (s : State) :
    (powerStaging h x s).time.counts = s.time.counts ∧
    (powerStaging h x s).power.chopCounter = s.power.chopCounter := by
  simp [powerStaging]

@[simp] theorem powerIdle_counts (x : Stamp) (s : State) :
    (powerIdle x s).time.counts = s.time.counts ∧ (powerIdle x s).power.chopCounter = s.power.chopCounter := by
  simp [powerIdle]

@[simp] theorem powerServing_counts (k : Lane) (kind : Option ServiceKind) (duty : Nat) (x : Stamp) (s : State) :
    (powerServing k kind duty x s).time.counts = s.time.counts ∧
    (powerServing k kind duty x s).power.chopCounter = s.power.chopCounter := by
  generalize e : powerServing k kind duty x s = t
  simp only [powerServing] at e
  (repeat' split at e) <;> subst e <;> simp

@[simp] theorem powerFinished_counts (k : Lane) (x : Stamp) (s : State) :
    (powerFinished k x s).time.counts = s.time.counts ∧
    (powerFinished k x s).power.chopCounter = s.power.chopCounter := by
  simp [powerFinished]

@[simp] theorem dropServing_counts (k : Lane) (x : Stamp) (s : State) :
    (dropServing k x s).time.counts = s.time.counts ∧ (dropServing k x s).power.chopCounter = s.power.chopCounter := by
  generalize e : dropServing k x s = t
  simp only [dropServing] at e
  (repeat' split at e) <;> subst e <;> simp

@[simp] theorem endService_counts (k : Lane) (x : Stamp) (sub n : Nat) (s : State) :
    (endService k x sub n s).time.counts = s.time.counts ∧
    (endService k x sub n s).power.chopCounter = s.power.chopCounter := by
  generalize e : endService k x sub n s = t
  simp only [endService] at e
  (repeat' split at e) <;> subst e <;> simp

@[simp] theorem beginService_counts (k : Lane) (x : Stamp) (s : State) :
    (beginService k x s).time.counts = s.time.counts ∧
    (beginService k x s).power.chopCounter = s.power.chopCounter := by
  generalize e : beginService k x s = t
  simp only [beginService] at e
  (repeat' split at e) <;> subst e <;> simp

@[simp] theorem advanceCap_counts (k : Lane) (x : Stamp) (s : State) :
    (advanceCap k x s).time.counts = s.time.counts ∧ (advanceCap k x s).power.chopCounter = s.power.chopCounter := by
  generalize e : advanceCap k x s = t
  simp only [advanceCap] at e
  (repeat' split at e) <;> subst e <;> simp

@[simp] theorem penAcceptedLine_counts (k : Lane) (x : Stamp) (c d : Bool) (v : RaceView) (s : State) :
    (penAcceptedLine k x c d v s).time.counts = s.time.counts ∧
    (penAcceptedLine k x c d v s).power.chopCounter = s.power.chopCounter := by
  generalize e : penAcceptedLine k x c d v s = t
  simp only [penAcceptedLine] at e
  (repeat' split at e) <;> subst e <;> simp

@[simp] theorem penFinish_counts (k : Lane) (x : Stamp) (s : State) :
    (penFinish k x s).time.counts = s.time.counts ∧ (penFinish k x s).power.chopCounter = s.power.chopCounter := by
  generalize e : penFinish k x s = t
  simp only [penFinish] at e
  (repeat' split at e) <;> subst e <;> simp

@[simp] theorem penAbortFinish_counts (k : Lane) (x : Stamp) (s : State) :
    (penAbortFinish k x s).time.counts = s.time.counts ∧
    (penAbortFinish k x s).power.chopCounter = s.power.chopCounter := by
  simp [penAbortFinish]

/-! ### Race control -/

@[simp] theorem enterCountdown_counts (x : Stamp) (s : State) :
    (enterCountdown x s).time.counts = s.time.counts ∧
    (enterCountdown x s).power.chopCounter = s.power.chopCounter := by
  generalize e : enterCountdown x s = t
  simp only [enterCountdown] at e
  (repeat' split at e) <;> subst e <;> simp

@[simp] theorem enterGreen_counts (x : Stamp) (s : State) :
    (enterGreen x s).time.counts = s.time.counts ∧ (enterGreen x s).power.chopCounter = s.power.chopCounter := by
  generalize e : enterGreen x s = t
  simp only [enterGreen] at e
  (repeat' split at e) <;> subst e <;> simp

@[simp] theorem stage_counts (h : HeatSnapshot) (es : List (Byte × Fin 64)) (x : Stamp) (s : State) :
    (stage h es x s).time.counts = s.time.counts ∧ (stage h es x s).power.chopCounter = s.power.chopCounter := by
  generalize e : stage h es x s = t
  simp only [stage] at e
  (repeat' split at e) <;> subst e <;> simp <;> rfl

@[simp] theorem stageEntry_counts (h : HeatSnapshot) (es : List (Byte × Fin 64)) (s : State) :
    (stageEntry h es s).time.counts = s.time.counts ∧ (stageEntry h es s).power.chopCounter = s.power.chopCounter := by
  generalize e : stageEntry h es s = t
  simp only [stageEntry] at e
  (repeat' split at e) <;> subst e <;> simp

@[simp] theorem examineEntry_counts (s : State) :
    (examineEntry s).time.counts = s.time.counts ∧ (examineEntry s).power.chopCounter = s.power.chopCounter := by
  generalize e : examineEntry s = t
  simp only [examineEntry] at e
  (repeat' split at e) <;> subst e <;> simp

@[simp] theorem examineCard_counts (s : State) :
    (examineCard s).time.counts = s.time.counts ∧ (examineCard s).power.chopCounter = s.power.chopCounter := by
  generalize e : examineCard s = t
  simp only [examineCard] at e
  (repeat' split at e) <;> subst e <;> simp

@[simp] theorem enterRunout_counts (x : Stamp) (c : Nat) (b : Option Lane) (s : State) :
    (enterRunout x c b s).time.counts = s.time.counts ∧
    (enterRunout x c b s).power.chopCounter = s.power.chopCounter := by
  generalize e : enterRunout x c b s = t
  simp only [enterRunout] at e
  (repeat' split at e) <;> subst e <;> simp

@[simp] theorem settle_counts (x : Stamp) (s : State) :
    (settle x s).time.counts = s.time.counts ∧ (settle x s).power.chopCounter = s.power.chopCounter := by
  generalize e : settle x s = t
  simp only [settle] at e
  (repeat' split at e) <;> subst e <;> simp

@[simp] theorem raceFinish_counts (k : Lane) (x : Stamp) (s : State) :
    (raceFinish k x s).time.counts = s.time.counts ∧ (raceFinish k x s).power.chopCounter = s.power.chopCounter := by
  generalize e : raceFinish k x s = t
  simp only [raceFinish] at e
  (repeat' split at e) <;> subst e <;> simp

@[simp] theorem abortHeat_counts (x : Stamp) (s : State) :
    (abortHeat x s).time.counts = s.time.counts ∧ (abortHeat x s).power.chopCounter = s.power.chopCounter := by
  generalize e : abortHeat x s = t
  simp only [abortHeat] at e
  (repeat' split at e) <;> subst e <;> simp

@[simp] theorem callRestage_counts (o : CallOrigin) (x : Stamp) (s : State) :
    (callRestage o x s).time.counts = s.time.counts ∧ (callRestage o x s).power.chopCounter = s.power.chopCounter := by
  simp [callRestage]

@[simp] theorem callStart_counts (o : CallOrigin) (x : Stamp) (s : State) :
    (callStart o x s).time.counts = s.time.counts ∧ (callStart o x s).power.chopCounter = s.power.chopCounter := by
  generalize e : callStart o x s = t
  simp only [callStart] at e
  (repeat' split at e) <;> subst e <;> simp

@[simp] theorem callAgain_counts (o : CallOrigin) (x : Stamp) (s : State) :
    (callAgain o x s).time.counts = s.time.counts ∧ (callAgain o x s).power.chopCounter = s.power.chopCounter := by
  simp [callAgain]

@[simp] theorem takeCall_counts (o : CallOrigin) (x : Stamp) (s : State) :
    (takeCall o x s).time.counts = s.time.counts ∧ (takeCall o x s).power.chopCounter = s.power.chopCounter := by
  generalize e : takeCall o x s = t
  simp only [takeCall] at e
  (repeat' split at e) <;> subst e <;> simp

@[simp] theorem beginResume_counts (x : Stamp) (s : State) :
    (beginResume x s).time.counts = s.time.counts ∧ (beginResume x s).power.chopCounter = s.power.chopCounter := by
  simp [beginResume]

@[simp] theorem finishResume_counts (x : Stamp) (s : State) :
    (finishResume x s).time.counts = s.time.counts ∧ (finishResume x s).power.chopCounter = s.power.chopCounter := by
  generalize e : finishResume x s = t
  simp only [finishResume] at e
  (repeat' split at e) <;> subst e <;> simp

@[simp] theorem lapCompleted_counts (k : Lane) (x : Stamp) (v : RaceView) (s : State) :
    (lapCompleted k x v s).1.time.counts = s.time.counts ∧
    (lapCompleted k x v s).1.power.chopCounter = s.power.chopCounter := by
  generalize e : lapCompleted k x v s = t
  simp only [lapCompleted] at e
  (repeat' split at e) <;> subst e <;> simp

/-! ### The lap engine -/

@[simp] theorem finishLane_counts (k : Lane) (x : Stamp) (b : Bool) (s : State) :
    (finishLane k x b s).time.counts = s.time.counts ∧
    (finishLane k x b s).power.chopCounter = s.power.chopCounter := by
  simp [finishLane]

@[simp] theorem completeLap_counts (c : Crossing) (v : RaceView) (s : State) :
    (completeLap c v s).time.counts = s.time.counts ∧ (completeLap c v s).power.chopCounter = s.power.chopCounter := by
  generalize e : completeLap c v s = t
  simp only [completeLap] at e
  (repeat' split at e) <;> subst e <;> simp

@[simp] theorem acceptCrossing_counts (c : Crossing) (how : Accepted) (mark : LapLane → LapLane) (s : State) :
    (acceptCrossing c how mark s).time.counts = s.time.counts ∧
    (acceptCrossing c how mark s).power.chopCounter = s.power.chopCounter := by
  generalize e : acceptCrossing c how mark s = t
  simp only [acceptCrossing] at e
  (repeat' split at e) <;> subst e <;> simp

@[simp] theorem startGrid_counts (c : Crossing) (s : State) :
    (startGrid c s).time.counts = s.time.counts ∧ (startGrid c s).power.chopCounter = s.power.chopCounter := by
  simp [startGrid]

@[simp] theorem finishGrid_counts (c : Crossing) (s : State) :
    (finishGrid c s).time.counts = s.time.counts ∧ (finishGrid c s).power.chopCounter = s.power.chopCounter := by
  simp [finishGrid]

@[simp] theorem applyVerdict_counts (v : Verdict) (c : Crossing) (s : State) :
    (applyVerdict v c s).time.counts = s.time.counts ∧
    (applyVerdict v c s).power.chopCounter = s.power.chopCounter := by
  generalize e : applyVerdict v c s = t
  simp only [applyVerdict] at e
  (repeat' split at e) <;> subst e <;> simp

@[simp] theorem takeCrossing_counts (o : Orders) (c : Crossing) (s : State) :
    (takeCrossing o c s).time.counts = s.time.counts ∧
    (takeCrossing o c s).power.chopCounter = s.power.chopCounter := by
  generalize e : takeCrossing o c s = t
  simp only [takeCrossing] at e
  (repeat' split at e) <;> subst e <;> simp

@[simp] theorem cutLane_counts (b : Bool) (x : Stamp) (s : State) (k : Lane) :
    (cutLane b x s k).time.counts = s.time.counts ∧ (cutLane b x s k).power.chopCounter = s.power.chopCounter := by
  generalize e : cutLane b x s k = t
  simp only [cutLane] at e
  (repeat' split at e) <;> subst e <;> simp

@[simp] theorem abortLane_counts (x : Stamp) (s : State) (k : Lane) :
    (abortLane x s k).time.counts = s.time.counts ∧ (abortLane x s k).power.chopCounter = s.power.chopCounter := by
  generalize e : abortLane x s k = t
  simp only [abortLane] at e
  (repeat' split at e) <;> subst e <;> simp

@[simp] theorem applyChange_counts (o : Orders) (ch : Change) (s : State) :
    (applyChange o ch s).time.counts = s.time.counts ∧
    (applyChange o ch s).power.chopCounter = s.power.chopCounter := by
  have cuts := foldl_counts (cutLane false ch.stamp) (cutLane_counts false ch.stamp) (cutOrder o) s
  have aborts := foldl_counts (abortLane ch.stamp) (abortLane_counts ch.stamp) allLanes s
  unfold applyChange
  dsimp only
  split <;> simp [cuts, aborts]

@[simp] theorem drain_counts (o : Orders) (x : Stamp) (q : List Crossing) (s : State) :
    (drain o x q s).time.counts = s.time.counts ∧ (drain o x q s).power.chopCounter = s.power.chopCounter := by
  induction q generalizing s with
  | nil => exact ⟨rfl, rfl⟩
  | cons c q ih =>
    unfold drain
    split
    · simp [ih]
    · exact ⟨rfl, rfl⟩

@[simp] theorem takeHeadChange_counts (o : Orders) (s : State) :
    (takeHeadChange o s).time.counts = s.time.counts ∧
    (takeHeadChange o s).power.chopCounter = s.power.chopCounter := by
  unfold takeHeadChange
  split
  · exact ⟨rfl, rfl⟩
  · dsimp only
    split <;> simp [discardEarlier]

@[simp] theorem takeDue_counts (o : Orders) (n : Nat) (s : State) :
    (takeDue o n s).time.counts = s.time.counts ∧ (takeDue o n s).power.chopCounter = s.power.chopCounter := by
  induction n generalizing s with
  | zero => exact ⟨rfl, rfl⟩
  | succ n ih =>
    unfold takeDue
    split
    · simp [ih]
    · exact ⟨rfl, rfl⟩

@[simp] theorem takeAllDue_counts (o : Orders) (s : State) :
    (takeAllDue o s).time.counts = s.time.counts ∧ (takeAllDue o s).power.chopCounter = s.power.chopCounter := by
  simp [takeAllDue]

@[simp] theorem takeNext_counts (o : Orders) (s : State) :
    (takeNext o s).time.counts = s.time.counts ∧ (takeNext o s).power.chopCounter = s.power.chopCounter := by
  generalize e : takeNext o s = t
  simp only [takeNext] at e
  (repeat' split at e) <;> subst e <;> simp

@[simp] theorem takeSome_counts (o : Orders) (n : Nat) (s : State) :
    (takeSome o n s).time.counts = s.time.counts ∧ (takeSome o n s).power.chopCounter = s.power.chopCounter := by
  induction n generalizing s with
  | zero => exact ⟨rfl, rfl⟩
  | succ n ih =>
    unfold takeSome
    split
    · exact ⟨rfl, rfl⟩
    · simp [ih]

@[simp] theorem crossingWork_counts (o : Orders) (s : State) :
    (crossingWork o s).time.counts = s.time.counts ∧ (crossingWork o s).power.chopCounter = s.power.chopCounter := by
  simp [crossingWork]

/-! ### The inputs -/

@[simp] theorem takeBreak_counts (n : GateIn) (s : State) :
    (takeBreak n s).time.counts = s.time.counts ∧ (takeBreak n s).power.chopCounter = s.power.chopCounter := by
  generalize e : takeBreak n s = t
  simp only [takeBreak, qualify, enqueueCrossing] at e
  (repeat' split at e) <;> subst e <;> simp

@[simp] theorem takeRelease_counts (n : GateIn) (s : State) :
    (takeRelease n s).time.counts = s.time.counts ∧ (takeRelease n s).power.chopCounter = s.power.chopCounter := by
  generalize e : takeRelease n s = t
  simp only [takeRelease, releaseBreak, gateNotice] at e
  (repeat' split at e) <;> subst e <;> simp

@[simp] theorem takeStuck_counts (n : GateIn) (s : State) :
    (takeStuck n s).time.counts = s.time.counts ∧ (takeStuck n s).power.chopCounter = s.power.chopCounter := by
  generalize e : takeStuck n s = t
  simp only [takeStuck, becomeStuck, gateNotice] at e
  (repeat' split at e) <;> subst e <;> simp

@[simp] theorem pressed_counts (b : Button) (s : State) :
    (pressed b s).time.counts = s.time.counts ∧ (pressed b s).power.chopCounter = s.power.chopCounter := by
  generalize e : pressed b s = t
  simp only [pressed] at e
  (repeat' split at e) <;> subst e <;> simp

@[simp] theorem setButton_counts (b : Button) (d : Debounce) (s : State) :
    (setButton b d s).time.counts = s.time.counts ∧ (setButton b d s).power.chopCounter = s.power.chopCounter := by
  cases b <;> exact ⟨rfl, rfl⟩

@[simp] theorem takePress_counts (b : Button) (s : State) :
    (takePress b s).time.counts = s.time.counts ∧ (takePress b s).power.chopCounter = s.power.chopCounter := by
  generalize e : takePress b s = t
  simp only [takePress] at e
  (repeat' split at e) <;> subst e <;> simp

@[simp] theorem takeButtonRelease_counts (b : Button) (s : State) :
    (takeButtonRelease b s).time.counts = s.time.counts ∧
    (takeButtonRelease b s).power.chopCounter = s.power.chopCounter := by
  generalize e : takeButtonRelease b s = t
  simp only [takeButtonRelease, setButton] at e
  (repeat' split at e) <;> subst e <;> simp

@[simp] theorem takeRise_counts (k : Lane) (s : State) :
    (takeRise k s).time.counts = s.time.counts ∧ (takeRise k s).power.chopCounter = s.power.chopCounter := by
  generalize e : takeRise k s = t
  simp only [takeRise, drawRises] at e
  (repeat' split at e) <;> subst e <;> simp

@[simp] theorem takeRunEnd_counts (k : Lane) (s : State) :
    (takeRunEnd k s).time.counts = s.time.counts ∧ (takeRunEnd k s).power.chopCounter = s.power.chopCounter := by
  generalize e : takeRunEnd k s = t
  simp only [takeRunEnd, jumpOnce] at e
  (repeat' split at e) <;> subst e <;> simp

@[simp] theorem takeFall_counts (k : Lane) (s : State) :
    (takeFall k s).time.counts = s.time.counts ∧ (takeFall k s).power.chopCounter = s.power.chopCounter := by
  generalize e : takeFall k s = t
  simp only [takeFall, drawFalls] at e
  (repeat' split at e) <;> subst e <;> simp

/-! ### Slips and the service tick -/

@[simp] theorem slipAction_counts (r : Slip) (s : State) :
    (slipAction r s).state.time.counts = s.time.counts ∧
    (slipAction r s).state.power.chopCounter = s.power.chopCounter := by
  have frees := foldl_counts (fun t i => writeTallyZero 0 0 i t) (fun t i => by simp) allTally s
  generalize e : slipAction r s = a
  unfold slipAction withSetup actSetup actStart actCall actResume actEndHeat actAbortHeat actPenalise actPardon actAdjust
    actRetire actClearTally refuseSlip acceptSlip at e
  dsimp only at e
  (repeat' split at e) <;> subst e <;> simp [loadSetup]
  simpa using frees

@[simp] theorem finishSlip_counts (r : SlipAnswer) :
    (finishSlip r).time.counts = r.state.time.counts ∧
    (finishSlip r).power.chopCounter = r.state.power.chopCounter := by
  generalize e : finishSlip r = t
  simp only [finishSlip] at e
  (repeat' split at e) <;> subst e <;> simp <;> rfl

@[simp] theorem scanSlips_counts (n : Nat) (s : State) :
    (scanSlips n s).time.counts = s.time.counts ∧ (scanSlips n s).power.chopCounter = s.power.chopCounter := by
  induction n generalizing s with
  | zero => exact ⟨rfl, rfl⟩
  | succ n ih =>
    unfold scanSlips
    split
    · dsimp only
      split
      · simp [ih, handleSlip, fetchSlip]
      · simp
    · exact ⟨rfl, rfl⟩

@[simp] theorem runJob_counts (o : Orders) (s : State) (j : ServiceJob) :
    (runJob o s j).time.counts = s.time.counts ∧ (runJob o s j).power.chopCounter = s.power.chopCounter := by
  cases j <;> simp only [runJob, memoryJob]
  case crossingTake => simp
  all_goals split <;> simp

@[simp] theorem serviceTick_counts (jobs : List ServiceJob) (o : Orders) (s : State) :
    (serviceTick jobs o s).time.counts = s.time.counts ∧
    (serviceTick jobs o s).power.chopCounter = s.power.chopCounter := by
  have works := foldl_counts (runJob o) (runJob_counts o) (completeOrder jobs allJobs) s
  unfold serviceTick
  split
  · exact works
  · exact ⟨rfl, rfl⟩

/-! ### What is due at a tick -/

@[simp] theorem forceClear_counts (s : State) :
    (forceClear s).time.counts = s.time.counts ∧ (forceClear s).power.chopCounter = s.power.chopCounter := by
  generalize e : forceClear s = t
  simp only [forceClear, finishClear] at e
  (repeat' split at e) <;> subst e <;> simp

@[simp] theorem forceSoftEnd_counts (s : State) :
    (forceSoftEnd s).time.counts = s.time.counts ∧ (forceSoftEnd s).power.chopCounter = s.power.chopCounter := by
  generalize e : forceSoftEnd s = t
  simp only [forceSoftEnd, finishSoftReset] at e
  (repeat' split at e) <;> subst e <;> simp

@[simp] theorem wrapNotice_counts (s : State) :
    (wrapNotice s).time.counts = s.time.counts ∧ (wrapNotice s).power.chopCounter = s.power.chopCounter := by
  generalize e : wrapNotice s = t
  simp only [wrapNotice, clockNotice] at e
  (repeat' split at e) <;> subst e <;> simp <;> rfl

@[simp] theorem takeGapEnd_counts (s : State) :
    (takeGapEnd s).time.counts = s.time.counts ∧ (takeGapEnd s).power.chopCounter = s.power.chopCounter := by
  generalize e : takeGapEnd s = t
  simp only [takeGapEnd] at e
  (repeat' split at e) <;> subst e <;> simp

@[simp] theorem takeCountdownStep_counts (s : State) :
    (takeCountdownStep s).time.counts = s.time.counts ∧
    (takeCountdownStep s).power.chopCounter = s.power.chopCounter := by
  generalize e : takeCountdownStep s = t
  simp only [takeCountdownStep, lightNext] at e
  (repeat' split at e) <;> subst e <;> simp

@[simp] theorem takeGreen_counts (s : State) :
    (takeGreen s).time.counts = s.time.counts ∧ (takeGreen s).power.chopCounter = s.power.chopCounter := by
  generalize e : takeGreen s = t
  simp only [takeGreen] at e
  (repeat' split at e) <;> subst e <;> simp

@[simp] theorem takeTimeLimit_counts (s : State) :
    (takeTimeLimit s).time.counts = s.time.counts ∧ (takeTimeLimit s).power.chopCounter = s.power.chopCounter := by
  generalize e : takeTimeLimit s = t
  simp only [takeTimeLimit] at e
  (repeat' split at e) <;> subst e <;> simp

@[simp] theorem takeExpiry_counts (s : State) :
    (takeExpiry s).time.counts = s.time.counts ∧ (takeExpiry s).power.chopCounter = s.power.chopCounter := by
  generalize e : takeExpiry s = t
  simp only [takeExpiry] at e
  (repeat' split at e) <;> subst e <;> simp

@[simp] theorem takeResumeDone_counts (s : State) :
    (takeResumeDone s).time.counts = s.time.counts ∧ (takeResumeDone s).power.chopCounter = s.power.chopCounter := by
  generalize e : takeResumeDone s = t
  simp only [takeResumeDone] at e
  (repeat' split at e) <;> subst e <;> simp

@[simp] theorem takeFlash_counts (s : State) :
    (takeFlash s).time.counts = s.time.counts ∧ (takeFlash s).power.chopCounter = s.power.chopCounter := by
  generalize e : takeFlash s = t
  simp only [takeFlash] at e
  (repeat' split at e) <;> subst e <;> simp

@[simp] theorem takeChop_counts (s : State) :
    (takeChop s).time.counts = s.time.counts ∧ (takeChop s).power.chopCounter = s.power.chopCounter := by
  generalize e : takeChop s = t
  simp only [takeChop] at e
  (repeat' split at e) <;> subst e <;> simp

@[simp] theorem takeHaltExpiry_counts (k : Lane) (s : State) :
    (takeHaltExpiry k s).time.counts = s.time.counts ∧
    (takeHaltExpiry k s).power.chopCounter = s.power.chopCounter := by
  generalize e : takeHaltExpiry k s = t
  simp only [takeHaltExpiry] at e
  (repeat' split at e) <;> subst e <;> simp

@[simp] theorem takeStall_counts (k : Lane) (s : State) :
    (takeStall k s).time.counts = s.time.counts ∧ (takeStall k s).power.chopCounter = s.power.chopCounter := by
  generalize e : takeStall k s = t
  simp only [takeStall, stallLane] at e
  (repeat' split at e) <;> subst e <;> simp

@[simp] theorem takeRampStep_counts (k : Lane) (s : State) :
    (takeRampStep k s).time.counts = s.time.counts ∧ (takeRampStep k s).power.chopCounter = s.power.chopCounter := by
  generalize e : takeRampStep k s = t
  simp only [takeRampStep] at e
  (repeat' split at e) <;> subst e <;> simp

theorem eachLane_counts {f : Lane → State → State} (hf : ∀ k s,
      (f k s).time.counts = s.time.counts ∧ (f k s).power.chopCounter = s.power.chopCounter) (s : State) :
    (eachLane f s).time.counts = s.time.counts ∧ (eachLane f s).power.chopCounter = s.power.chopCounter :=
  foldl_counts _ (fun s k => hf k s) allLanes s

theorem eachInput_counts {f : GateIn → State → State} (hf : ∀ n s,
      (f n s).time.counts = s.time.counts ∧ (f n s).power.chopCounter = s.power.chopCounter) (s : State) :
    (eachInput f s).time.counts = s.time.counts ∧ (eachInput f s).power.chopCounter = s.power.chopCounter :=
  foldl_counts _ (fun s n => hf n s) allInputs s

theorem eachButton_counts {f : Button → State → State} (hf : ∀ b s,
      (f b s).time.counts = s.time.counts ∧ (f b s).power.chopCounter = s.power.chopCounter) (s : State) :
    (eachButton f s).time.counts = s.time.counts ∧ (eachButton f s).power.chopCounter = s.power.chopCounter :=
  foldl_counts _ (fun s b => hf b s) allButtons s

theorem agenda_counts : ∀ f ∈ agenda, ∀ s : State,
    (f s).time.counts = s.time.counts ∧ (f s).power.chopCounter = s.power.chopCounter := by
  unfold agenda
  simp only [List.forall_mem_cons]
  exact ⟨takeChop_counts, wrapNotice_counts, forceClear_counts, forceSoftEnd_counts, eachInput_counts takeBreak_counts,
    eachInput_counts takeRelease_counts, eachInput_counts takeStuck_counts, eachButton_counts takePress_counts,
    eachButton_counts takeButtonRelease_counts, eachLane_counts takeRise_counts, eachLane_counts takeFall_counts,
    serviceTick_counts [] plainOrders, takeGapEnd_counts, takeCountdownStep_counts, eachLane_counts takeRunEnd_counts,
    takeGreen_counts, takeResumeDone_counts, takeTimeLimit_counts, eachLane_counts takeHaltExpiry_counts,
    takeExpiry_counts, takeAllDue_counts plainOrders, eachLane_counts takeStall_counts, takeFlash_counts,
    eachLane_counts takeRampStep_counts, by simp⟩

/-- What is due at a tick and comes about before the next moves none of the counts. -/
theorem catchUp_counts (s : State) :
    (catchUp s).time.counts = s.time.counts ∧ (catchUp s).power.chopCounter = s.power.chopCounter := by
  have each : ∀ (fs : List (State → State)), (∀ f ∈ fs, ∀ s : State,
      (f s).time.counts = s.time.counts ∧ (f s).power.chopCounter = s.power.chopCounter) → ∀ s : State,
      (fs.foldl (fun s f => f s) s).time.counts = s.time.counts ∧
      (fs.foldl (fun s f => f s) s).power.chopCounter = s.power.chopCounter := by
    intro fs
    induction fs with
    | nil => exact fun _ s => ⟨rfl, rfl⟩
    | cons f fs ih =>
      intro h s
      obtain ⟨hf, hfs⟩ := List.forall_mem_cons.mp h
      exact ⟨(ih hfs (f s)).1.trans (hf s).1, (ih hfs (f s)).2.trans (hf s).2⟩
  unfold catchUp
  exact each agenda agenda_counts s

end Sys2Proof.Machine

/-! PROOFS. The tick: the sources that fill the prescaler, and what a tick advances and samples (R24, R29, R33, R38). -/

namespace Sys2Proof.Machine

open Config

/-! ### The sources (R24 to R26) -/

/-- A state with a prescaler value and a number of units since the last edge. -/
def prescaled (s : State) (n : Nat) (quiet : Fin 20) : State :=
  { s with time := { s.time with prescaler := Fin.ofNat 100 n, quiet := quiet } }

theorem prescaled_self (s : State) : prescaled s s.time.prescaler.val s.time.quiet = s := by
  unfold prescaled
  rw [Fin.ofNat_val_eq_self]

theorem prescaled_prescaler (s : State) {n : Nat} (quiet : Fin 20) (h : n < 100) :
    (prescaled s n quiet).time.prescaler.val = n := Nat.mod_eq_of_lt h

/-- Units that do not fill the prescaler only count. -/
theorem feed_counts (p : Sample) (units : Nat) (s : State) (h : s.time.prescaler.val + units < 100) :
    feed p units s = prescaled s (s.time.prescaler.val + units) s.time.quiet := by
  unfold feed
  exact if_neg (by omega)

/-- The unit that fills the prescaler brings the tick. -/
theorem feed_fills (p : Sample) (units : Nat) (s : State) (h : 100 ≤ s.time.prescaler.val + units) :
    feed p units s = nextTick p (prescaled s (s.time.prescaler.val + units) s.time.quiet) := by
  unfold feed
  exact if_pos h

theorem runClock_cons (p : Sample) (e : ClockEvent) (rest : List ClockEvent) (s : State)
    (h : (clockEvent p e s).time.tickCount = s.time.tickCount) :
    runClock p (e :: rest) s = runClock p rest (clockEvent p e s) := if_pos h

theorem runClock_single (p : Sample) (e : ClockEvent) (s : State) : runClock p [e] s = clockEvent p e s := by
  unfold runClock
  exact ite_self _

theorem clockUnit_fallback (p : Sample) {s : State} (h : s.time.refState = .fallback) : clockEvent p .unit s = feed p 1 s := by
  change clockUnit p s = _
  unfold clockUnit
  simp only [h]

theorem clockEdge_locked (p : Sample) {s : State} (h : s.time.refState = .locked) :
    clockEvent p .edge s = feed p 1 (prescaled s s.time.prescaler.val 0) := by
  have quieted : s.onTime (fun t => { t with quiet := 0 }) = prescaled s s.time.prescaler.val 0 := by
    unfold prescaled
    rw [Fin.ofNat_val_eq_self]
    rfl
  rw [← quieted]
  change clockEdge p s = _
  unfold clockEdge
  simp only [h]

/-- Units of the oscillator in FALLBACK that do not fill the prescaler. -/
theorem runClock_units (p : Sample) (m : Nat) (rest : List ClockEvent) (s : State) (hr : s.time.refState = .fallback)
    (h : s.time.prescaler.val + m < 100) :
    runClock p (List.replicate m .unit ++ rest) s =
      runClock p rest (prescaled s (s.time.prescaler.val + m) s.time.quiet) := by
  induction m generalizing s with
  | zero => exact congrArg (runClock p rest) (prescaled_self s).symm
  | succ m ih =>
    have one := (clockUnit_fallback p hr).trans (feed_counts p 1 s (by omega))
    have count := prescaled_prescaler s (n := s.time.prescaler.val + 1) s.time.quiet (by omega)
    rw [List.replicate_succ, List.cons_append, runClock_cons p _ _ _ (by rw [one]; rfl), one]
    refine (ih (prescaled s (s.time.prescaler.val + 1) s.time.quiet) hr (by rw [count]; omega)).trans ?_
    rw [count]
    unfold prescaled
    simp only [Nat.add_assoc, Nat.add_comm 1 m]

/-- Edges of REFCLK in LOCKED that do not fill the prescaler. -/
theorem runClock_edges (p : Sample) (m : Nat) (rest : List ClockEvent) (s : State) (hr : s.time.refState = .locked)
    (h : s.time.prescaler.val + m < 100) :
    runClock p (List.replicate m .edge ++ rest) s =
      runClock p rest (prescaled s (s.time.prescaler.val + m) (if m = 0 then s.time.quiet else 0)) := by
  induction m generalizing s with
  | zero => exact congrArg (runClock p rest) (prescaled_self s).symm
  | succ m ih =>
    have kept := prescaled_prescaler s 0 (show s.time.prescaler.val < 100 by omega)
    have one := (clockEdge_locked p hr).trans (feed_counts p 1 _ (by rw [kept]; omega))
    rw [kept] at one
    have count := prescaled_prescaler s (n := s.time.prescaler.val + 1) 0 (by omega)
    rw [List.replicate_succ, List.cons_append, runClock_cons p _ _ _ (by rw [one]; rfl), one]
    refine (ih (prescaled s (s.time.prescaler.val + 1) 0) hr (by rw [count]; omega)).trans ?_
    rw [count]
    unfold prescaled
    simp only [Nat.add_assoc, Nat.add_comm 1 m, Nat.add_one_ne_zero, if_false, ite_self]

/-- Each way in which the source in force fills the prescaler, with the units since the last edge that it leaves. -/
def Fills (s : State) (clock : List ClockEvent) (quiet : Fin 20) : Prop :=
  (s.time.refState = .fallback ∧ clock = List.replicate (100 - s.time.prescaler.val) .unit ∧ quiet = s.time.quiet) ∨
  (s.time.refState = .locked ∧ clock = List.replicate (100 - s.time.prescaler.val) .edge ∧ quiet = 0) ∨
  (s.time.refState = .warmup ∧ clock = [.unit] ∧ s.time.prescaler.val = 99 ∧ s.time.quiet.val < 19 ∧
    quiet = s.time.quiet + 1)

theorem runClock_fills (p : Sample) {s : State} {clock : List ClockEvent} {quiet : Fin 20} (h : Fills s clock quiet) :
    runClock p clock s = nextTick p { s with time := { s.time with prescaler := 0, quiet := quiet } } := by
  have hn := s.time.prescaler.isLt
  have last : ∀ e : ClockEvent, List.replicate (100 - s.time.prescaler.val) e =
      List.replicate (99 - s.time.prescaler.val) e ++ [e] := fun e => by
    rw [← List.replicate_succ']
    congr 1
    omega
  have full : ∀ q, prescaled s 99 q = prescaled s 99 q ∧ (prescaled s 99 q).time.prescaler.val = 99 := fun q =>
    ⟨rfl, prescaled_prescaler s q (by omega)⟩
  rcases h with ⟨hr, rfl, rfl⟩ | ⟨hr, rfl, rfl⟩ | ⟨hr, rfl, h99, hq, rfl⟩
  · rw [last, runClock_units p _ _ s hr (by omega), Nat.add_sub_cancel' (by omega), runClock_single,
      clockUnit_fallback p (by exact hr), feed_fills p 1 _ (by rw [(full _).2]), (full _).2]
    rfl
  · rw [last, runClock_edges p _ _ s hr (by omega), Nat.add_sub_cancel' (by omega), runClock_single,
      clockEdge_locked p (by exact hr), (full _).2, feed_fills p 1 _ (by rw [prescaled_prescaler _ _ (by omega)]),
      prescaled_prescaler _ _ (by omega)]
    rfl
  · have heard : silent s = false := by
      unfold silent lossUnits
      exact decide_eq_false (by omega)
    have one : clockEvent p .unit s = feed p 1 (s.onTime fun t => { t with quiet := t.quiet + 1 }) := by
      change clockUnit p s = _
      unfold clockUnit
      simp only [hr, heard, Bool.false_eq_true, if_false]
    have count : (s.onTime fun t => { t with quiet := t.quiet + 1 }).time.prescaler.val = 99 := h99
    rw [runClock_single, one, feed_fills p 1 _ (by rw [count]), count]
    rfl

/-! ### The tick -/

/-- What every tick advances: the counts go on from those before it. -/
theorem nextTick_counts (p : Sample) (s : State) :
    let t := nextTick p s
    t.time.counts = (advanceTime false s.time).counts ∧
    t.time.wrapDue = decide (s.time.tickCount = 0xFFFFFFFF) ∧
    t.time.serviceDue = decide (99 ≤ s.time.servicePrescaler) ∧
    t.time.scanLeft = (if 99 ≤ s.time.servicePrescaler then 8 else 0) ∧
    t.power.chopCounter = s.power.chopCounter + 1 ∧ t.power.chopDue = decide (s.power.chopCounter + 1 = 0) ∧
    t.pins = p := by
  obtain ⟨hcounts, hchop⟩ := catchUp_counts s
  have landed : (landAll (catchUp s)).time = (catchUp s).time ∧ (landAll (catchUp s)).power = (catchUp s).power := by simp
  unfold nextTick
  generalize landAll (catchUp s) = v at landed
  generalize catchUp s = w at landed hcounts hchop
  obtain ⟨ltime, lpower⟩ := landed
  intro t
  have time : t.time = advanceTime v.race.state.racing w.time := by rw [← ltime]; rfl
  have power : t.power = advanceChop w.power := by rw [← lpower]; rfl
  have tick := counts_tickCount hcounts
  have service : w.time.servicePrescaler = s.time.servicePrescaler :=
    show w.time.counts.servicePrescaler = s.time.counts.servicePrescaler by rw [hcounts]
  have due : serviceTicks ≤ s.time.servicePrescaler + 1 ↔ 99 ≤ s.time.servicePrescaler := by
    unfold serviceTicks
    omega
  refine ⟨?_, ?_, ?_, ?_, ?_, ?_, rfl⟩
  · have same : ∀ (r : Bool) (u w : Timebase), u.counts = w.counts →
        (advanceTime r u).counts = (advanceTime false w).counts := by
      intro r u w h
      obtain ⟨⟩ := u
      obtain ⟨⟩ := w
      simp only [Timebase.counts, Timebase.mk.injEq] at h
      simp only [advanceTime, Timebase.counts, Timebase.mk.injEq]
      simp [h]
    rw [time]
    exact same _ _ _ hcounts
  · rw [time, ← tick]
    rfl
  · rw [time]
    simp only [advanceTime, service, due]
  · rw [time]
    simp only [advanceTime, service, due, decide_eq_true_eq]
    rfl
  · rw [power, ← hchop]
    rfl
  · rw [power, ← hchop]
    rfl

theorem now_succ (s : State) :
    ((if s.time.tickCount = 0xFFFFFFFF then s.time.epoch + 1 else s.time.epoch) ++ (s.time.tickCount + 1) : Stamp) =
      now s + 1 := by
  unfold now
  apply BitVec.eq_of_toNat_eq
  rw [BitVec.toNat_add, BitVec.toNat_append, BitVec.toNat_append]
  have ht := s.time.tickCount.isLt
  have he := s.time.epoch.isLt
  rw [← Nat.shiftLeft_add_eq_or_of_lt (BitVec.isLt _), ← Nat.shiftLeft_add_eq_or_of_lt ht, Nat.shiftLeft_eq, Nat.shiftLeft_eq]
  split
  next h =>
    have : s.time.tickCount.toNat = 2 ^ 32 - 1 := by rw [h]; rfl
    rw [BitVec.toNat_add, BitVec.toNat_add, this, show (1 : BitVec 8).toNat = 1 from rfl,
      show (1 : BitVec 32).toNat = 1 from rfl, show (1 : BitVec 40).toNat = 1 from rfl]
    omega
  next h =>
    have : s.time.tickCount.toNat ≠ 2 ^ 32 - 1 := fun hn => h (BitVec.eq_of_toNat_eq hn)
    rw [BitVec.toNat_add, show (1 : BitVec 32).toNat = 1 from rfl, show (1 : BitVec 40).toNat = 1 from rfl]
    omega

/-- A tick advances the stamp by one. -/
theorem now_nextTick (p : Sample) (s : State) : now (nextTick p s) = now s + 1 := by
  obtain ⟨hcounts, -⟩ := nextTick_counts p s
  rw [← now_succ]
  unfold now
  rw [counts_tickCount hcounts, counts_epoch hcounts]
  simp only [advanceTime, decide_eq_true_eq]

/-! ### The samples of a tick (R39, R40, R49, R51, R165) -/

theorem advance_input (p : Sample) (s : State) (n : GateIn) :
    (advance p s).input n = sampleInput (now (advance p s)) (p.gi.getLsbD n.val) (s.input n) := by
  have stamp : now (advance p s) = now ((s.onTime (advanceTime s.race.state.racing)).onPower advanceChop) := by
    have time : (advance p s).time = ((s.onTime (advanceTime s.race.state.racing)).onPower advanceChop).time := rfl
    unfold now
    rw [time]
  rw [stamp]
  exact pick_tabulate _ n

theorem sampleInput_unmapped (x : Stamp) (high : Bool) {r : InputRec} (h : r.mapping = none) : sampleInput x high r = r := by
  unfold sampleInput
  rw [h]

/-- One sample of a mapped input, by the phase of its filter. -/
theorem sampleInput_mapped (x : Stamp) (high : Bool) {r : InputRec} {m : GateMapping} (h : r.mapping = some m) :
    let active := high = m.activeHigh
    (r.phase = .quiet → sampleInput x high r = if active then
        { r with phase := .arming, count := 1, onset := some x } else r) ∧
    (r.phase = .arming → sampleInput x high r = if active then { r with count := min 3 (r.count + 1) }
      else { r with phase := .quiet, count := 0, onset := none }) ∧
    (r.phase = .broken → sampleInput x high r = if active then r
      else { r with phase := .clearing, count := 1, release := some x }) ∧
    (r.phase = .clearing → sampleInput x high r = if active then
        { r with phase := .broken, count := 0, release := none }
      else { r with count := min 3 (r.count + 1) }) := by
  unfold sampleInput
  refine ⟨fun hp => ?_, fun hp => ?_, fun hp => ?_, fun hp => ?_⟩ <;> simp only [h, hp, decide_eq_true_eq]

theorem sampleLevel_eq (span : Nat) (active : Bool) (d : Debounce) :
    sampleLevel span active d = { d with run := if active = d.level then 0 else min span (d.run + 1) } := by
  unfold sampleLevel
  split <;> rfl

theorem advance_powerLane (p : Sample) (s : State) (k : Lane) :
    (advance p s).powerLane k = if s.power.chopCounter = 49 then catchPin (s.powerLane k) else s.powerLane k := by
  have starts : s.power.chopCounter + 1 = 0 ↔ s.power.chopCounter = 49 := by
    generalize s.power.chopCounter = c
    revert c
    decide
  change pick (if decide (s.power.chopCounter + 1 = 0) then s.power.lanes.map catchPin else s.power.lanes) k = _
  simp only [decide_eq_true_eq, starts]
  split
  · exact pick_map _ _ _
  · rfl

/-- All that a tick changes when nothing is due before it. -/
theorem advance_eq (p : Sample) (s : State) :
    let t := advance p s
    t = { s with
      pins := p
      time := { s.time with
        tickCount := s.time.tickCount + 1
        epoch := if s.time.tickCount = 0xFFFFFFFF then s.time.epoch + 1 else s.time.epoch
        wrapDue := t.time.wrapDue, servicePrescaler := t.time.servicePrescaler
        serviceDue := t.time.serviceDue, scanLeft := t.time.scanLeft
        racingTicks := s.time.racingTicks + (if s.race.state.racing then 1 else 0)
        raced := s.race.state.racing, idleNow := false }
      power := { s.power with
        chopCounter := t.power.chopCounter, chopDue := t.power.chopDue, lanes := t.power.lanes }
      gates := { s.gates with
        inputs := t.gates.inputs, driver := t.gates.driver, marshal := t.gates.marshal,
        director := t.gates.director, draw := t.gates.draw } } := by
  have racing : s.time.racingTicks + (if s.race.state.racing then 1 else 0) =
      if s.race.state.racing then s.time.racingTicks + 1 else s.time.racingTicks := by split <;> rfl
  have epoch : (if s.time.tickCount = 0xFFFFFFFF then s.time.epoch + 1 else s.time.epoch) =
      if decide (s.time.tickCount = 0xFFFFFFFF) then s.time.epoch + 1 else s.time.epoch := by
    simp only [decide_eq_true_eq]
  rw [racing, epoch]
  rfl

/-- Settles O22: what fills the prescaler (`runClock_units`, `runClock_edges`, `runClock_fills`), what every tick advances
(`nextTick_counts`), and what it changes where nothing is due (`advance_eq`). -/
theorem tickAdvancesStampAndSamples : Obligations.TickAdvancesStampAndSamples := by
  intro s p m clock quiet hphase n
  have runs : ∀ clock, exec (.tick ⟨p, clock⟩) s = .next (runClock p clock s) := fun clock => by
    change Host.Outcome.next (takeTick ⟨p, clock⟩ s) = _
    unfold takeTick counting
    rw [decide_eq_true hphase, if_pos rfl]
  refine ⟨fun hn => ⟨fun hr => ?_, fun hr hm => ?_⟩, fun hfills => ?_⟩
  · have := runClock_units p m [] s hr hn
    rw [List.append_nil] at this
    rw [runs, this]
    rfl
  · have := runClock_edges p m [] s hr hn
    rw [List.append_nil, if_neg (by omega)] at this
    rw [runs, this]
    rfl
  · intro full
    obtain ⟨t, ht⟩ : ∃ t, t = nextTick p full := ⟨_, rfl⟩
    have hnow : now t = now full + 1 := by rw [ht, now_nextTick]
    obtain ⟨hcounts, hwrap, hservice, hscan, hchop, hchopDue, hpins⟩ := nextTick_counts p full
    rw [← ht] at hcounts hwrap hservice hscan hchop hchopDue hpins
    have count : ∀ {α : Type} (f : Timebase → α), f t.time.counts = f (advanceTime false full.time).counts :=
      fun f => congrArg f hcounts
    have service : t.time.servicePrescaler = if 99 ≤ s.time.servicePrescaler then 0 else s.time.servicePrescaler + 1 := by
      refine (count Timebase.servicePrescaler).trans ?_
      refine if_congr (decide_eq_true_iff.trans ?_) rfl rfl
      change 100 ≤ s.time.servicePrescaler + 1 ↔ _
      omega
    have chopDue : t.power.chopDue = decide (s.power.chopCounter = 49) := by
      refine hchopDue.trans (decide_eq_decide.mpr ?_)
      change s.power.chopCounter + 1 = 0 ↔ _
      generalize s.power.chopCounter = c
      revert c
      decide
    refine ⟨t, ?_, hnow, hwrap, service, hservice, hscan, count Timebase.refState, count Timebase.prescaler,
      count Timebase.warmupCount, count Timebase.lockStamp, count Timebase.unlockStamp, hchop, chopDue, hpins,
      fun hquiet hturns => ?_⟩
    · rw [runs, runClock_fills p hfills, ht]
    · have advanced : t = advance p full := by
        rw [ht]
        unfold nextTick
        rw [hquiet, landAll_idle full hturns]
      clear ht hnow hcounts hwrap hservice hscan hchop hchopDue hpins count service chopDue
      subst advanced
      refine ⟨advance_eq p full, advance_powerLane p full, fun i hi => ?_, fun i g hi => ?_, fun k => ?_, fun i => ?_, ?_,
        fun k => ?_⟩
      · exact (advance_input p full i).trans (sampleInput_unmapped _ _ hi)
      · rw [advance_input]
        exact sampleInput_mapped _ _ hi
      · exact (pick_tabulate _ k).trans (sampleLevel_eq _ _ _)
      · exact (pick_tabulate _ i).trans (sampleLevel_eq _ _ _)
      · exact sampleLevel_eq _ _ _
      · exact (pick_tabulate _ k).trans (sampleLevel_eq _ _ _)

end Sys2Proof.Machine

/-! PROOFS. Stamps and the epoch (R29 to R31), and the reference states (R24 to R27). -/

namespace Sys2Proof.Machine

open Config

/-! ### The order of stamps (R31) -/

theorem interval_eq (a b : Stamp) : interval a b = (b.toNat + 2 ^ 40 - a.toNat) % 2 ^ 40 := by
  unfold interval
  rw [BitVec.toNat_sub]
  have := a.isLt
  congr 1
  omega

theorem isLater_iff (a b : Stamp) : isLater a b = true ↔ 0 < interval a b ∧ interval a b < 2 ^ 39 := by
  unfold isLater
  rw [Bool.and_eq_true, decide_eq_true_eq, decide_eq_true_eq]

theorem isLater_self (a : Stamp) : isLater a a = false := by
  simp [isLater, interval_self]

/-- Of two stamps at most one is later than the other. -/
theorem isLater_asymm {a b : Stamp} (h : isLater a b = true) : isLater b a = false := by
  rw [isLater_iff, interval_eq] at h
  have ha := a.isLt
  have hb := b.isLt
  refine Bool.eq_false_iff.mpr fun hba => ?_
  rw [isLater_iff, interval_eq] at hba
  omega

theorem laterOf_later {a b : Stamp} (h : isLater a b = true) : laterOf a b = b ∧ laterOf b a = b :=
  ⟨if_pos h, if_neg (by simp [isLater_asymm h])⟩

theorem atOrAfter_iff (a b : Stamp) : atOrAfter a b = true ↔ isLater a b = true ∨ a = b := by
  unfold atOrAfter
  rw [Bool.or_eq_true, decide_eq_true_eq, or_comm]

/-! ### TICK (R24) -/

theorem exec_tick {s : State} (h : s.phase ≠ .inReset) (p : Sample) (clock : List ClockEvent) :
    exec (.tick ⟨p, clock⟩) s = .next (runClock p clock s) := by
  change Host.Outcome.next (takeTick ⟨p, clock⟩ s) = _
  unfold takeTick counting
  rw [decide_eq_true h, if_pos rfl]

theorem exec_tick_single {s : State} (h : s.phase ≠ .inReset) (p : Sample) (e : ClockEvent) :
    exec (.tick ⟨p, [e]⟩) s = .next (clockEvent p e s) := by
  rw [exec_tick h, runClock_single]

/-! ### The wrap of the tick count (R29, R30) -/

theorem wrapNotice_due {u : State} (h : u.time.wrapDue = true) :
    wrapNotice u = deliver (plainNotice .clock 3 (currentLabel u) (now u) u.time.epoch.toNat 0)
      { u with time := { u.time with wrapDue := false } } := if_pos h

/-- Settles O23. -/
theorem stampOrderAndEpochWrap : Obligations.StampOrderAndEpochWrap := by
  refine ⟨fun a b => ⟨interval_eq a b, isLater_iff a b, atOrAfter_iff a b, laterOf_later, ite_self a⟩,
    fun s p q clock other hphase hnone => ⟨fun htick => ?_, fun htick hsource => ?_⟩⟩
  · change Host.Outcome.next (takeWrap ⟨p, clock⟩ s) = _
    unfold takeWrap
    rw [if_neg (by simp [hnone]), if_neg htick]
  · have fills : ∃ quiet, Fills s clock quiet := by
      obtain h | h := hsource
      · exact ⟨_, .inl ⟨h.1, h.2, rfl⟩⟩
      · exact ⟨_, .inr (.inl ⟨h.1, h.2, rfl⟩)⟩
    obtain ⟨quiet, hfills⟩ := fills
    have ticked : exec (.tick ⟨p, clock⟩) s =
        .next (nextTick p { s with time := { s.time with prescaler := 0, quiet := quiet } }) := by
      rw [exec_tick hphase, runClock_fills p hfills]
    obtain ⟨hcounts, hwrap, -⟩ := nextTick_counts p { s with time := { s.time with prescaler := 0, quiet := quiet } }
    generalize nextTick p { s with time := { s.time with prescaler := 0, quiet := quiet } } = u at ticked hcounts hwrap
    have wraps : u.time.wrapDue = true := hwrap.trans (decide_eq_true htick)
    refine ⟨u, ticked, ?_, ?_, fun t ht => ⟨?_, ?_⟩⟩
    · refine (counts_tickCount hcounts).trans ?_
      change s.time.tickCount + 1 = 0
      rw [htick]
      rfl
    · refine (counts_epoch hcounts).trans ?_
      change (if decide (s.time.tickCount = 0xFFFFFFFF) then s.time.epoch + 1 else s.time.epoch) = _
      rw [decide_eq_true htick, if_pos rfl]
    · have taken : takeTick ⟨p, clock⟩ s = u := by
        have same : Host.Outcome.next (takeTick ⟨p, clock⟩ s) = Host.Outcome.next u := ticked
        injection same
      change Host.Outcome.next (takeWrap ⟨p, clock⟩ s) = _
      unfold takeWrap
      rw [if_neg (by simp [hnone]), if_pos htick, taken, wrapNotice_due wraps, ht]
    · change Host.Outcome.next (takeWrap ⟨q, other⟩ u) = _
      unfold takeWrap
      rw [if_pos wraps, wrapNotice_due wraps, ht]

/-! ### The reference states (R25 to R27) -/

theorem silent_false {s : State} (h : s.time.quiet.val < 19) : silent s = false := by
  unfold silent lossUnits
  exact decide_eq_false (by omega)

theorem silent_true {s : State} (h : s.time.quiet.val = 19) : silent s = true := by
  unfold silent lossUnits
  exact decide_eq_true (by omega)

theorem clockUnit_locked (p : Sample) {s : State} (h : s.time.refState = .locked) :
    clockUnit p s = if silent s then reportLoss (feed p 20 s)
      else s.onTime fun t => { t with quiet := t.quiet + 1 } := by
  unfold clockUnit
  simp only [h]
  rfl

theorem clockUnit_warmup (p : Sample) {s : State} (h : s.time.refState = .warmup) :
    clockUnit p s = feed p 1 (if silent s then
        s.onTime fun t => { t with refState := .fallback, warmupCount := 0, quiet := 0 }
      else s.onTime fun t => { t with quiet := t.quiet + 1 }) := by
  unfold clockUnit
  simp only [h]

/-- An edge in WARMUP counts a cycle, or locks (R27). -/
theorem clockEdge_warmup (p : Sample) {s : State} (h : s.time.refState = .warmup) :
    clockEdge p s = if s.time.warmupCount < 65535 then
        s.onTime fun t => { t with warmupCount := t.warmupCount + 1, quiet := 0 }
      else lockReference s := by
  have ends : warmupEnds s = true ↔ ¬ s.time.warmupCount < 65535 := by
    unfold warmupEnds warmupCycles
    rw [decide_eq_true_eq]
    omega
  unfold clockEdge
  simp only [h, ends, ite_not]

theorem clockEdge_fallback (p : Sample) {s : State} (h : s.time.refState = .fallback) : clockEdge p s = startWarmup s := by
  unfold clockEdge
  simp only [h]

theorem lockReference_eq (s : State) :
    let span := min 0xFFFFFFFF (interval (s.time.unlockStamp.getD 0) (now s) / 100)
    lockReference s =
      deliver (plainNotice .clock 2 (currentLabel s) (now s) (span / 65536) (span % 65536)) { s with
        time := { s.time with refState := .locked, lockStamp := some (now s), warmupCount := 0, quiet := 0 } } := by
  simp only [lockReference, unlockedSpan, sat32, Nat.min_comm]
  rfl

theorem reportLoss_eq (u : State) :
    reportLoss u = deliver (plainNotice .clock 1 (currentLabel u) (now u) 0 0) { u with
      time := { u.time with refState := .fallback, unlockStamp := some (now u), quiet := 0 }
      port := { u.port with flt := u.port.flt ||| 1 } } := rfl

theorem quiet_succ {x : Fin 20} (h : x.val < 19) : (x + 1).val = x.val + 1 := by
  rw [Fin.val_add]
  exact Nat.mod_eq_of_lt (by change x.val + 1 < 20; omega)

/-- Units without an edge in LOCKED, short of a loss, only measure the silence. -/
theorem passUnits_locked (p : Sample) (m : Nat) (s : State) (hr : s.time.refState = .locked)
    (h : s.time.quiet.val + m = 19) :
    passUnits p m s = s.onTime fun t => { t with quiet := 19 } := by
  induction m generalizing s with
  | zero =>
    have last : s.time.quiet = 19 := Fin.ext h
    unfold passUnits State.onTime
    rw [← last]
  | succ m ih =>
    unfold passUnits
    rw [clockUnit_locked p hr, silent_false (by omega), if_neg (by simp)]
    exact ih _ hr (by rw [show (s.onTime fun t => { t with quiet := t.quiet + 1 }).time.quiet = s.time.quiet + 1 from rfl,
      quiet_succ (by omega)]; omega)

/-- Units without an edge in WARMUP, short of a loss, measure the silence and feed the prescaler. -/
theorem passUnits_warmup (p : Sample) (m : Nat) (s : State) (hr : s.time.refState = .warmup)
    (h : s.time.quiet.val + m = 19) (hn : s.time.prescaler.val + m < 100) :
    passUnits p m s = prescaled s (s.time.prescaler.val + m) 19 := by
  induction m generalizing s with
  | zero =>
    have last : s.time.quiet = 19 := Fin.ext h
    rw [← last]
    exact (prescaled_self s).symm
  | succ m ih =>
    have quieter : (s.onTime fun t => { t with quiet := t.quiet + 1 }).time.quiet.val = s.time.quiet.val + 1 :=
      quiet_succ (by omega)
    have one : clockUnit p s = prescaled s (s.time.prescaler.val + 1) (s.time.quiet + 1) := by
      rw [clockUnit_warmup p hr, silent_false (by omega), if_neg (by simp)]
      exact feed_counts p 1 _ (by change s.time.prescaler.val + 1 < 100; omega)
    have count := prescaled_prescaler s (n := s.time.prescaler.val + 1) (s.time.quiet + 1) (by omega)
    unfold passUnits
    rw [one]
    refine (ih (prescaled s (s.time.prescaler.val + 1) (s.time.quiet + 1)) hr (by
      change (s.time.quiet + 1).val + m = 19
      rw [quiet_succ (by omega)]
      omega) (by rw [count]; omega)).trans ?_
    rw [count]
    unfold prescaled
    simp only [Nat.add_assoc, Nat.add_comm 1 m]

theorem passUnits_add (p : Sample) (m n : Nat) (s : State) : passUnits p (m + n) s = passUnits p n (passUnits p m s) := by
  induction m generalizing s with
  | zero => rw [Nat.zero_add]; rfl
  | succ m ih =>
    rw [Nat.succ_add]
    exact ih _

theorem exec_refLost {s : State} (h : s.phase ≠ .inReset) (hr : s.time.refState ≠ .fallback) (p : Sample) :
    exec (.refLost p) s = .next (passUnits p (20 - s.time.quiet.val) s) := by
  change Host.Outcome.next (takeRefLost p s) = _
  unfold takeRefLost counting
  rw [decide_eq_true h, decide_eq_true hr]
  rfl

theorem exec_refBack {s : State} (h : s.phase ≠ .inReset) (p : Sample) (clock : List ClockEvent) :
    exec (.refBack ⟨p, clock⟩) s = .next (runWarmup p clock s) := by
  change Host.Outcome.next (takeRefBack ⟨p, clock⟩ s) = _
  unfold takeRefBack counting
  rw [decide_eq_true h, if_pos rfl]

theorem runWarmup_over (p : Sample) (clock : List ClockEvent) {s : State} (h : s.time.refState ≠ .warmup) :
    runWarmup p clock s = s := by
  cases clock with
  | nil => rfl
  | cons e rest => exact if_neg h

/-- The loss from LOCKED at the end of 2 µs of silence (R26). -/
theorem exec_refLost_locked {s : State} (h : s.phase ≠ .inReset) (hr : s.time.refState = .locked) (p : Sample) :
    exec (.refLost p) s = .next (reportLoss (feed p 20 (s.onTime fun t => { t with quiet := 19 }))) := by
  have hq := s.time.quiet.isLt
  rw [exec_refLost h (by rw [hr]; decide), show 20 - s.time.quiet.val = 19 - s.time.quiet.val + 1 by omega, passUnits_add,
    passUnits_locked p _ s hr (by omega)]
  have lost : silent (s.onTime fun t => { t with quiet := 19 }) = true := silent_true rfl
  exact congrArg Host.Outcome.next ((clockUnit_locked p (by exact hr)).trans (if_pos lost))

/-- Settles O24, by the reference state (`clockUnit_locked`, `clockUnit_warmup` and the lemmas after them). -/
theorem referenceFollowsItsSources : Obligations.ReferenceFollowsItsSources := by
  intro s p hphase n q lost
  have hq : q < 20 := s.time.quiet.isLt
  have hn : n < 100 := s.time.prescaler.isLt
  refine ⟨fun hr => ⟨fun hn => ?_, fun hq => ?_, fun hq => ?_, fun hlow => ?_, fun hfull => ?_⟩,
    fun hr => ⟨fun hw => ?_, fun hw => ?_, fun hq hn => ?_, fun hq => ?_, fun hlow => ?_⟩,
    fun hr => ?_, fun hr => ?_, fun hr clock => ?_, ?_⟩
  · have kept := prescaled_prescaler s 0 (show n < 100 by omega)
    have := feed_counts p 1 (prescaled s n 0) (by rw [kept]; omega)
    rw [kept] at this
    rw [exec_tick_single hphase, clockEdge_locked p hr, this]
    rfl
  · rw [exec_tick_single hphase]
    exact congrArg _ ((clockUnit_locked p hr).trans (if_neg (by simp [silent_false hq])))
  · rw [exec_tick_single hphase, exec_refLost hphase (by rw [hr]; decide), show 20 - s.time.quiet.val = 1 by omega]
    rfl
  · have kept : (s.onTime fun t => { t with quiet := 19 }).time.prescaler.val = n := rfl
    rw [exec_refLost_locked hphase hr, feed_counts p 20 _ (by rw [kept]; omega), kept]
    rfl
  · intro u
    have kept : (s.onTime fun t => { t with quiet := 19 }).time.prescaler.val = n := rfl
    have filled : prescaled (s.onTime fun t => { t with quiet := 19 }) (n + 20) 19 =
        { s with time := { s.time with prescaler := Fin.ofNat 100 (n - 80), quiet := 19 } } := by
      have wrapped : Fin.ofNat 100 (n + 20) = Fin.ofNat 100 (n - 80) := Fin.ext (by
        change (n + 20) % 100 = (n - 80) % 100
        omega)
      unfold prescaled
      rw [wrapped]
      rfl
    have fed : feed p 20 (s.onTime fun t => { t with quiet := 19 }) = u :=
      (feed_fills p 20 _ (by rw [kept]; omega)).trans (congrArg (nextTick p) filled)
    refine ⟨now_nextTick p _, ?_⟩
    rw [exec_refLost_locked hphase hr, fed]
    exact congrArg Host.Outcome.next (reportLoss_eq u)
  · intro t
    have one : clockEvent p .edge s = t := (clockEdge_warmup p hr).trans (if_pos hw)
    refine ⟨by rw [exec_tick_single hphase, one], fun rest => ?_⟩
    rw [exec_refBack hphase, exec_refBack (s := t) hphase, ← one]
    exact congrArg _ (if_pos hr)
  · intro span t
    have one : clockEvent p .edge s = t := ((clockEdge_warmup p hr).trans (if_neg (by omega))).trans (lockReference_eq s)
    refine ⟨by rw [exec_tick_single hphase, one], fun rest => ?_⟩
    have locked : t.time.refState = .locked := by simp [t]
    rw [exec_refBack hphase, show runWarmup p (.edge :: rest) s = runWarmup p rest (clockEvent p .edge s) from if_pos hr, one,
      runWarmup_over p rest (by rw [locked]; decide)]
  · rw [exec_tick_single hphase]
    have one := (clockUnit_warmup p hr).trans (congrArg (feed p 1) (if_neg (by simp [silent_false hq])))
    exact congrArg _ (one.trans (feed_counts p 1 _ (by change n + 1 < 100; omega)))
  · rw [exec_tick_single hphase, exec_refLost hphase (by rw [hr]; decide), show 20 - s.time.quiet.val = 1 by omega]
    rfl
  · have count := prescaled_prescaler s (n := n + (19 - q)) 19 (by omega)
    have last : silent (prescaled s (n + (19 - q)) 19) = true := silent_true rfl
    have one := (clockUnit_warmup p (s := prescaled s (n + (19 - q)) 19) (by exact hr)).trans
      (congrArg (feed p 1) (if_pos last))
    have fed := feed_counts p 1 ((prescaled s (n + (19 - q)) 19).onTime fun t =>
      { t with refState := .fallback, warmupCount := 0, quiet := 0 }) (by
        change (prescaled s (n + (19 - q)) 19).time.prescaler.val + 1 < 100
        rw [count]
        omega)
    rw [exec_refLost hphase (by rw [hr]; decide), show 20 - s.time.quiet.val = 19 - q + 1 by omega, passUnits_add,
      passUnits_warmup p _ s hr (by omega) (by omega)]
    refine congrArg _ (one.trans (fed.trans ?_))
    change prescaled _ ((prescaled s (n + (19 - q)) 19).time.prescaler.val + 1) _ = _
    rw [count, Nat.add_assoc]
    rfl
  · intro started
    refine ⟨?_, ?_, fun hn => ?_, ?_⟩
    · rw [exec_tick_single hphase]
      exact congrArg _ (clockEdge_fallback p hr)
    · change Host.Outcome.next (if counting s && decide (s.time.refState = .fallback) then startWarmup s else s) = _
      unfold counting
      rw [decide_eq_true hphase, decide_eq_true hr]
      rfl
    · rw [exec_tick_single hphase, clockUnit_fallback p hr]
      exact congrArg _ (feed_counts p 1 s (by omega))
    · change Host.Outcome.next (takeRefLost p s) = _
      unfold takeRefLost
      rw [hr]
      simp
  · change Host.Outcome.next (if counting s && decide (s.time.refState = .fallback) then startWarmup s else s) = _
    rw [decide_eq_false hr, Bool.and_false]
    rfl
  · rw [exec_refBack hphase, runWarmup_over p clock hr]
  · rw [exec_refBack hphase]
    rfl

end Sys2Proof.Machine

/-! PROOFS. The gate front end: qualified breaks, releases, stuck gates, buttons and draw inputs (chapter 3). -/

namespace Sys2Proof.Machine

open Config

/-! ### The tallies (R74) -/

theorem timing_iff (st : LaneState) : st.timing = true ↔ st = .lapping ∨ st = .hunt := by
  cases st <;> simp [LaneState.timing]

/-- A discarded crossing is counted on every lane but a VACANT one (R74). -/
theorem countDiscard_eq {l : LapLane} (h : l.state ≠ .vacant) : countDiscard l = discardCounted l := by
  unfold countDiscard discardCounted
  simp only [if_neg h, timing_iff]
  rfl

theorem countDiscard_if (l : LapLane) : countDiscard l = if l.state = .vacant then l else discardCounted l := by
  split
  next h => exact if_pos h
  next h => exact countDiscard_eq h

/-! ### Gate inputs (R39 to R45) -/

theorem isFold_eq_false {r : InputRec} {a : Stamp} (h : ∀ e, r.holdOffEnd = some e → atOrAfter e a = true) :
    isFold r a = false := by
  unfold isFold
  split
  · rfl
  next e he => rw [h e he]; rfl

theorem isFold_eq_true {r : InputRec} {a e : Stamp} (he : r.holdOffEnd = some e) (h : atOrAfter e a = false) :
    isFold r a = true := by
  simp only [isFold, he, h]
  rfl

theorem breakDue_true {s : State} {n : GateIn} {m : GateMapping} (hm : (s.input n).mapping = some m)
    (hp : (s.input n).phase = .arming) (hc : (s.input n).count = 3) : breakDue s n = true := by
  simp [breakDue, hm, hp, hc]

/-- The third active sample on a mapped input (R41, R42). -/
theorem takeBreak_eq {s : State} {n : GateIn} {m : GateMapping} {a : Stamp} (hm : (s.input n).mapping = some m)
    (hp : (s.input n).phase = .arming) (hc : (s.input n).count = 3) (ha : (s.input n).onset = some a) :
    takeBreak n s =
      let broken := s.onInput n fun r => { r with phase := .broken, count := 0 }
      if isFold (s.input n) a then takeFold m.lane broken
      else enqueueCrossing { stamp := a, lane := m.lane, gate := m.gate }
        (broken.onInput n fun r => { r with holdOffEnd := some (stampAfter a (s.gates.holdOff.getD 0)) }) := by
  have qualified : takeBreak n s = qualify n s := if_pos (breakDue_true hm hp hc)
  rw [qualified]
  unfold qualify
  simp only [hm, ha]
  rfl

/-- A break that is no fold is a crossing, and opens a hold-off window (R41, R45). -/
theorem takeBreak_crossing {s : State} {n : GateIn} {m : GateMapping} {a : Stamp} (hm : (s.input n).mapping = some m)
    (hp : (s.input n).phase = .arming) (hc : (s.input n).count = 3) (ha : (s.input n).onset = some a)
    (hf : isFold (s.input n) a = false) :
    takeBreak n s = enqueueCrossing { stamp := a, lane := m.lane, gate := m.gate }
      { s with gates := { s.gates with inputs := put s.gates.inputs n { s.input n with
        phase := .broken, count := 0, holdOffEnd := some (a + BitVec.ofNat 40 (100 * s.gates.holdOff.getD 0)) } } } := by
  refine ((takeBreak_eq hm hp hc ha).trans (if_neg (by simp [hf]))).trans (congrArg (enqueueCrossing _) ?_)
  simp only [State.onInput, State.onGates, amend, pick_put_same, put_put]
  rfl

/-- A break inside a hold-off window is a fold, counted at once (R42, R74). -/
theorem takeBreak_fold {s : State} {n : GateIn} {m : GateMapping} {a : Stamp} (hm : (s.input n).mapping = some m)
    (hp : (s.input n).phase = .arming) (hc : (s.input n).count = 3) (ha : (s.input n).onset = some a)
    (hf : isFold (s.input n) a = true) :
    takeBreak n s = { s with
      gates := { s.gates with inputs := put s.gates.inputs n { s.input n with phase := .broken, count := 0 } }
      laps := { s.laps with lanes := put s.laps.lanes m.lane (countDiscard (s.lap m.lane)) } } := by
  exact (takeBreak_eq hm hp hc ha).trans (if_pos hf)

theorem enqueueCrossing_room (c : Crossing) {s : State} (h : s.gates.queue.length < 64) :
    enqueueCrossing c s = { s with gates := { s.gates with queue := s.gates.queue ++ [c] } } := if_pos h

theorem enqueueCrossing_full (c : Crossing) {s : State} (h : 64 ≤ s.gates.queue.length) :
    enqueueCrossing c s = { s with port := { s.port with flt := s.port.flt ||| 2 } } := if_neg (by simpa [crossingHold] using h)

/-- A release returns the input to QUIET, and reports a stuck break (R40, R44). -/
theorem takeRelease_eq {s : State} {n : GateIn} {m : GateMapping} (hm : (s.input n).mapping = some m)
    (hp : (s.input n).phase = .clearing) (hc : (s.input n).count = 3) :
    takeRelease n s = releaseBreak n s := if_pos (by simp [releaseDue, hm, hp, hc])

theorem stuckDue_iff {s : State} {n : GateIn} {m : GateMapping} {a : Stamp} (hm : (s.input n).mapping = some m)
    (hp : (s.input n).phase = .broken ∨ (s.input n).phase = .clearing) (hs : (s.input n).stuck = false)
    (ha : (s.input n).onset = some a) : stuckDue s n = true ↔ 500000 ≤ interval a (now s) := by
  have held : (decide ((s.input n).phase = .broken) || decide ((s.input n).phase = .clearing)) = true := by simpa using hp
  simp only [stuckDue, hm, hs, ha, held, durationEnded, stuckMs]
  exact decide_eq_true_iff

theorem gateNotice_eq (subcode : Nat) {n : GateIn} {m : GateMapping} (x : Stamp) (b : Nat) {s : State}
    (hm : (s.input n).mapping = some m) :
    gateNotice subcode n x b s =
      deliver (laneNotice .anomaly subcode m.lane (currentRacer s m.lane) (currentLabel s) x n.val b) s := by
  simp only [gateNotice, hm]

/-- Settles O25, by the filter's answer (`takeBreak_crossing`, `takeBreak_fold`, `takeRelease_eq`, `stuckDue_iff`). -/
theorem gateBreaksReleasesAndStuckGates : Obligations.GateBreaksReleasesAndStuckGates := by
  constructor
  · intro s n m a r hm hp hc ha
    refine ⟨fun hopen => ?_, fun e he hfold => ?_⟩
    · have crossed := takeBreak_crossing hm hp hc ha (isFold_eq_false hopen)
      exact ⟨fun hroom => congrArg Host.Outcome.next (crossed.trans (enqueueCrossing_room _ hroom)),
        fun hfull => congrArg Host.Outcome.next (crossed.trans (enqueueCrossing_full _ hfull))⟩
    · refine congrArg Host.Outcome.next ((takeBreak_fold hm hp hc ha (isFold_eq_true he hfold)).trans ?_)
      rw [countDiscard_if]
  · intro s n m r hm
    refine ⟨fun hp hc => ?_, fun a hp hs ha => ⟨fun hdue => ?_, fun hdue => ?_⟩⟩
    · have released := takeRelease_eq hm hp hc
      refine ⟨fun hs => congrArg Host.Outcome.next (released.trans ?_),
        fun a b hs ha hb => congrArg Host.Outcome.next (released.trans ?_)⟩
      · have not_stuck : (s.input n).stuck = false := hs
        simp only [releaseBreak, not_stuck]
        rfl
      · have stuck : (s.input n).stuck = true := hs
        have onset : (s.input n).onset = some a := ha
        have release : (s.input n).release = some b := hb
        simp only [releaseBreak, stuck, onset, release]
        exact gateNotice_eq 5 b _ (by simpa using show (s.input n).mapping = some m from hm)
    · have becomes : takeStuck n s = becomeStuck n s := if_pos ((stuckDue_iff hm hp hs ha).mpr hdue)
      refine congrArg Host.Outcome.next (becomes.trans ?_)
      have onset : (s.input n).onset = some a := ha
      have mapped : (s.input n).mapping = some m := hm
      simp only [becomeStuck, onset, mapped]
      exact gateNotice_eq 4 (a + 500000) m.gate.val (by simpa using show (s.input n).mapping = some m from hm)
    · refine congrArg Host.Outcome.next (if_neg ?_)
      rw [stuckDue_iff hm hp hs ha]
      omega

/-! ### Buttons and draw inputs (R49 to R53, R128) -/

/-- A button whose filter has counted its run out is released: its level changes and nothing else. -/
theorem exec_buttonRelease (b : Button) {s : State} (h : buttonOf s b = { level := true, run := 2001 }) :
    exec (.buttonRelease b) s = .next (setButton b { level := false, run := 0 } s) := by
  refine congrArg Host.Outcome.next (if_pos ?_)
  simp [buttonReleaseDue, h, buttonRun]

theorem drawWatched_iff (s : State) (k : Lane) :
    drawWatched s k = true ↔
      s.race.state = .countdown ∧ ∃ h, s.race.snapshot = some h ∧ h.liveGrid = true ∧ pick h.racers k ≠ 0 := by
  unfold drawWatched occupiedLane currentRacer
  cases s.race.snapshot <;> simp [and_left_comm, and_comm]

theorem exec_drawRise {s : State} {k : Lane} (h : pick s.gates.draw k = { level := false, run := 201 }) :
    exec (.drawRise k) s = .next (drawRises k s) := by
  refine congrArg Host.Outcome.next (if_pos ?_)
  simp [riseDue, h, drawRun]

theorem exec_drawFall {s : State} {k : Lane} (h : pick s.gates.draw k = { level := true, run := 201 }) :
    exec (.drawFall k) s = .next (drawFalls k s) := by
  refine congrArg Host.Outcome.next (if_pos ?_)
  simp [fallDue, h, drawRun]

theorem abandonRun_eq (r : DrawRun) : abandonRun r = if r = .spent then .spent else .idle := by
  cases r <;> simp [abandonRun]

/-- A fall ends a run that is over, changes the level, and abandons a run that is not (R52, R128). -/
theorem drawFalls_eq (k : Lane) (s : State) :
    drawFalls k s =
      let v := takeRunEnd k s
      { v with
        gates := { v.gates with draw := put v.gates.draw k { level := false, run := 0 } }
        race := { v.race with
          drawRuns := put v.race.drawRuns k (if pick v.race.drawRuns k = .spent then .spent else .idle) } } := by
  dsimp only
  rw [← abandonRun_eq]
  rfl

theorem runEnd_early {s : State} {k : Lane}
    (h : ∀ b, pick s.race.drawRuns k = .timing b → interval b (now s) < 100 * (raceTimes s).jumpDraw) : runEnd s k = none := by
  unfold runEnd
  split
  next b hb => simp [durationEnded, h b hb]
  · rfl

theorem runEnd_over {s : State} {k : Lane} {b : Stamp} (hw : drawWatched s k = true)
    (hb : pick s.race.drawRuns k = .timing b) (h : 100 * (raceTimes s).jumpDraw ≤ interval b (now s)) :
    runEnd s k = some (b + BitVec.ofNat 40 (100 * (raceTimes s).jumpDraw)) := by
  simp only [runEnd, hb, hw, durationEnded, decide_eq_true h]
  rfl

theorem takeRunEnd_none {s : State} {k : Lane} (h : runEnd s k = none) : takeRunEnd k s = s := by
  simp only [takeRunEnd, h]

theorem takeRunEnd_some {s : State} {k : Lane} {x : Stamp} (h : runEnd s k = some x) :
    takeRunEnd k s = jumpOnce k x (s.onRace fun r => { r with drawRuns := put r.drawRuns k .spent }) := by
  simp only [takeRunEnd, h]

/-- Settles O26 (`exec_buttonRelease`, `exec_drawRise`, `drawFalls_eq`, `runEnd_over`). -/
theorem releasesDrawLevelsAndRuns : Obligations.ReleasesDrawLevelsAndRuns := by
  intro s k post
  refine ⟨exec_buttonRelease (.driver k), exec_buttonRelease (.marshal post), exec_buttonRelease .director,
    fun hd => ?_, fun hd => ?_, fun h b hstate hsnap hlive hracer hb => ?_⟩
  · intro u
    refine ⟨fun h hstate hsnap hlive hracer hidle => ?_, fun hor => ?_⟩
    · have watched : drawWatched u k = true := (drawWatched_iff s k).mpr ⟨hstate, h, hsnap, hlive, hracer⟩
      refine (exec_drawRise hd).trans (congrArg Host.Outcome.next (if_pos ?_))
      exact Bool.and_eq_true_iff.mpr ⟨watched, decide_eq_true hidle⟩
    · refine (exec_drawRise hd).trans (congrArg Host.Outcome.next (if_neg fun hboth => ?_))
      obtain ⟨hwatched, hidle⟩ := Bool.and_eq_true_iff.mp hboth
      obtain hc | hr := hor
      · exact hc ((drawWatched_iff s k).mp hwatched).1
      · exact hr (of_decide_eq_true hidle)
  · intro fallen
    have falls := (exec_drawFall hd).trans (congrArg Host.Outcome.next (drawFalls_eq k s))
    refine ⟨fun hearly => ?_, takeRunEnd k s, rfl, falls⟩
    rw [takeRunEnd_none (runEnd_early hearly)] at falls
    exact falls
  · intro runs
    have watched : drawWatched s k = true := (drawWatched_iff s k).mpr ⟨hstate, h, hsnap, hlive, hracer⟩
    refine ⟨fun hearly => ?_, fun hover => ⟨fun hmark => ?_, fun hmark => ?_⟩⟩
    · refine congrArg Host.Outcome.next (takeRunEnd_none (runEnd_early fun c hc => ?_))
      obtain rfl : c = b := by simpa [hb] using hc.symm
      exact hearly
    · refine congrArg Host.Outcome.next ((takeRunEnd_some (runEnd_over watched hb hover)).trans ?_)
      exact if_pos hmark
    · refine congrArg Host.Outcome.next ((takeRunEnd_some (runEnd_over watched hb hover)).trans ?_)
      exact if_neg (show ¬ pick s.race.jumpMarks k = true by simp [hmark])

end Sys2Proof.Machine

/-! PROOFS. What race control's moves do: a countdown, GREEN, RUNOUT, calls and resumes entered (chapters 6 and 7). -/

namespace Sys2Proof.Machine

open Config

/-! ### Lane power at a change of race state (R169) -/

theorem powerRace_eq (r : RaceState) (x : Stamp) (s : State) :
    powerRace r x s = { s with power := { s.power with state := r, lanes := (powerRace r x s).power.lanes } } := by
  unfold powerRace
  rw [evalAll_eq]
  rfl

theorem powerRace_powerLane (r : RaceState) (x : Stamp) (s : State) (k : Lane) :
    (powerRace r x s).powerLane k = evalOf x (s.onPower fun p => { p with state := r }) k := by
  unfold powerRace
  rw [evalAll_eq]
  exact pick_tabulate _ k

/-- An evaluation reads lane power's own inputs and the stamp alone. -/
theorem LaneEvaluated.congr {r : RaceState} {x : Stamp} {target : Nat} {s t : State} {l m : PowerLane}
    (h : LaneEvaluated r x target s l m) (hport : t.port.lanesOff = s.port.lanesOff)
    (hgrid : t.power.liveGrid = s.power.liveGrid) (hramp : t.power.rampTime = s.power.rampTime) (hnow : now t = now s) :
    LaneEvaluated r x target t l m := by
  simpa only [LaneEvaluated, LaneFree, DutyFollows, hport, hgrid, hramp, hnow] using h

theorem powerRace_restored (r : RaceState) (x : Stamp) (s : State) : PowerRestored r x s (powerRace r x s) := by
  refine ⟨by rw [powerRace_eq], fun k => ?_⟩
  rw [powerRace_powerLane]
  exact evalOf_evaluated x (s.onPower fun p => { p with state := r }) k

/-- Lane power restored in a state that differs in nothing an evaluation reads. -/
theorem PowerRestored.congr {r : RaceState} {x : Stamp} {s t u v : State} (h : PowerRestored r x s u)
    (hport : t.port = s.port) (hpower : t.power = s.power) (hnow : now t = now s) (hv : v.power = u.power) :
    PowerRestored r x t v := by
  obtain ⟨hu, hlanes⟩ := h
  have lane : ∀ k, t.powerLane k = s.powerLane k := fun k => by simp only [State.powerLane, hpower]
  have laneV : ∀ k, v.powerLane k = u.powerLane k := fun k => by simp only [State.powerLane, hv]
  refine ⟨by rw [hv, hpower, hu], fun k => ?_⟩
  rw [lane, laneV]
  exact (hlanes k).congr (by rw [hport]) (by rw [hpower]) (by rw [hpower]) hnow

/-- A race state in which no lane may be powered. -/
def RaceState.unpowered (r : RaceState) : Prop := r = .idle ∨ r = .staged ∨ r = .called ∨ r = .resuming

theorem powerRace_cut {r : RaceState} (hr : r.unpowered) (x : Stamp) (s : State) : PowerCut r s (powerRace r x s) := by
  rw [powerRace_off r x s hr]
  exact ⟨rfl, fun k => pick_tabulate _ k⟩

theorem PowerCut.congr {r : RaceState} {s t u v : State} (h : PowerCut r s u) (hpower : t.power = s.power)
    (hv : v.power = u.power) : PowerCut r t v := by
  obtain ⟨hu, hlanes⟩ := h
  refine ⟨by rw [hv, hpower, hu], fun k => ?_⟩
  have lane : t.powerLane k = s.powerLane k := by simp only [State.powerLane, hpower]
  have laneV : v.powerLane k = u.powerLane k := by simp only [State.powerLane, hv]
  rw [lane, laneV]
  exact hlanes k

/-! ### What the race reads of its heat -/

theorem currentLabel_some {s : State} {h : HeatSnapshot} (hs : s.race.snapshot = some h) : currentLabel s = h.label := by
  simp only [currentLabel, hs]

theorem currentRacer_some {s : State} {h : HeatSnapshot} (hs : s.race.snapshot = some h) (k : Lane) :
    currentRacer s k = pick h.racers k := by
  simp only [currentRacer, hs]

theorem timed_eq (m : EndMode) : m.timed = decide (m ≠ .laps) := by cases m <;> rfl

/-! ### The countdown and GREEN (R124, R126) -/

/-- Race control's own part of a countdown, and the change handed to the lap engine (R124). -/
def countdownRace (e : Stamp) (s : State) : State :=
  handChange .countdown e (s.onRace fun r => { r with
    state := .countdown, countdownStamp := some e, countdownStep := 0, jumpMarks := Vector.replicate 8 false,
    lfsr := s.race.lfsr.map (lfsrSteps 16),
    hold := drawnHold (raceTimes s) ((s.race.lfsr.map (lfsrSteps 16)).getD 0) })

theorem enterCountdown_eq (e : Stamp) (s : State) {h : HeatSnapshot} (hs : s.race.snapshot = some h) :
    let u := setLamps lampsDark (powerRace .countdown e (countdownRace e s))
    enterCountdown e s = { deliver (plainNotice .heat 3 h.label e s.race.cardCursor.val u.race.hold) u with
      race := { u.race with drawRuns := tabulate fun k =>
        if h.liveGrid && occupiedLane s k && (pick s.gates.draw k).level then .timing e else .idle } } := by
  intro u
  have snapshot : u.race.snapshot = some h := by simpa [u, countdownRace, setLamps] using hs
  have cursor : u.race.cardCursor = s.race.cardCursor := by simp [u, countdownRace, setLamps]
  obtain ⟨d, hd⟩ : ∃ d, d = deliver (plainNotice .heat 3 h.label e s.race.cardCursor.val u.race.hold) u := ⟨_, rfl⟩
  have noticed : heatNotice 3 (currentLabel u) e u.race.hold u = d := by
    rw [hd, currentLabel_some snapshot, ← cursor]
    rfl
  have unfolded : enterCountdown e s = d.onRace fun r => { r with
      drawRuns := tabulate fun k =>
        if h.liveGrid && occupiedLane d k && (pick d.gates.draw k).level then .timing e else .idle } := by
    rw [← noticed]
    unfold enterCountdown
    simp only [hs]
    rfl
  have gates : d.gates = s.gates := by rw [hd]; simp [u, countdownRace, setLamps]
  have race : d.race = u.race := by rw [hd]; simp
  have occupied : ∀ k, occupiedLane d k = occupiedLane s k := fun k => by
    simp only [occupiedLane, currentRacer, race, snapshot, hs]
  rw [unfolded, ← hd]
  simp only [gates, occupied]
  unfold State.onRace
  rw [race, gates]

/-- A countdown entered with every lane off, as it is in STAGED (R124, R167). -/
theorem enterCountdown_entered (e : Stamp) (s : State) {h : HeatSnapshot} (hs : s.race.snapshot = some h)
    (hoff : ∀ k, (s.powerLane k).cond = false) : CountdownEntered e s (enterCountdown e s) := by
  obtain ⟨hpower, hlanes⟩ := (powerRace_restored .countdown e (countdownRace e s)).congr (t := s)
    (v := powerRace .countdown e (countdownRace e s)) rfl rfl rfl rfl
  refine ⟨setLamps lampsDark (powerRace .countdown e (countdownRace e s)), h, hs, ?_, hpower,
    fun k => ⟨fun hfree => ?_, fun hnot => ?_⟩, ?_, fun k => ?_⟩
  · rw [powerRace_eq]
    rfl
  · obtain ⟨-, -, -, hon⟩ := hlanes k
    exact hon ⟨hfree.1, .inr (.inr ⟨rfl, hfree.2⟩)⟩ (hoff k) (.inl rfl)
  · obtain ⟨hno, -⟩ := hlanes k
    refine hno fun hyes => hnot ⟨hyes.1, ?_⟩
    obtain hg | hr | hc := hyes.2
    · cases hg
    · cases hr
    · exact hc.2
  · rw [enterCountdown_eq e s hs]
  · rw [enterCountdown_eq e s hs]
    refine (pick_tabulate _ k).trans (if_congr ?_ rfl rfl)
    simp [occupiedLane, currentRacer, hs, and_assoc]

/-- GREEN entered (R126). -/
theorem enterGreen_entered (g : Stamp) (s : State) {h : HeatSnapshot} (hs : s.race.snapshot = some h) :
    GreenEntered g s (enterGreen g s) := by
  obtain ⟨v, hv⟩ : ∃ v, v = startRacing g (handChange .green g (setLamps lampGreen (s.onRace fun r => { r with
      state := .green, drawRuns := Vector.replicate 8 .idle }))) := ⟨_, rfl⟩
  obtain ⟨u, hu⟩ : ∃ u, u = (powerRace .green g v).onRace fun r => { r with timeLimitWatch := h.endMode.timed } := ⟨_, rfl⟩
  have entered : enterGreen g s = heatNotice 4 (currentLabel u) g 0 u := by
    rw [hu, hv]
    unfold enterGreen
    simp only [hs]
  have race : u.race.snapshot = some h ∧ u.race.cardCursor = s.race.cardCursor := by
    rw [hu, hv]
    simp [setLamps, hs]
  refine ⟨u, h, hs, ?_, (powerRace_restored .green g v).congr ?_ ?_ ?_ ?_, ?_⟩
  · rw [hu, powerRace_eq, hv, timed_eq]
    rfl
  · rw [hv]; rfl
  · rw [hv]; rfl
  · rw [hv]; rfl
  · rw [hu]; rfl
  · rw [entered, currentLabel_some race.1]
    unfold heatNotice
    rw [race.2]

/-! ### The run-out (R114, R116) -/

theorem runoutNotice_eq (cause : Nat) (by_ : Option Lane) (x : Stamp) {s : State} {h : HeatSnapshot}
    (hs : s.race.snapshot = some h) : runoutNotice cause by_ x s = deliver (runoutNoticeOf h x cause by_ s) s := by
  unfold runoutNotice runoutNoticeOf
  rw [currentLabel_some hs]
  cases by_ with
  | none => rfl
  | some k => simp only [currentRacer_some hs]

theorem runoutLimit_some {s : State} {h : HeatSnapshot} (hs : s.race.snapshot = some h) : runoutLimit s = h.runoutLimit := by
  simp only [runoutLimit, hs]

/-- The heat clock and the racing tick count at a stamp read the timebase, and of the race only whether it is racing. -/
theorem racingTicksAt_congr {s t : State} (x : Stamp) (htime : t.time = s.time)
    (hrace : t.race.state.racing = s.race.state.racing) : racingTicksAt x t = racingTicksAt x s := by
  simp only [racingTicksAt, now, htime, hrace]

theorem heatClock_congr {s t : State} (htime : t.time = s.time) : heatClock t = heatClock s := by
  simp only [heatClock, htime]

/-- RUNOUT entered from GREEN (R114), with a deadline that may have been reached already (log 13). -/
theorem enterRunout_entered (x : Stamp) (cause : Nat) (by_ : Option Lane) (s : State) {h : HeatSnapshot}
    (hs : s.race.snapshot = some h) (hracing : s.race.state.racing = true) :
    RunoutEntered x cause by_ s (enterRunout x cause by_ s) := by
  obtain ⟨v, hv⟩ : ∃ v, v = handChange .runout x (s.onRace fun r => { r with
      state := .runout, timeLimitWatch := false, runoutDeadline := some (heatClockAt x s + h.runoutLimit),
      runoutWait := true }) := ⟨_, rfl⟩
  obtain ⟨u, hu⟩ : ∃ u, u = setLamps (lampsFor .runout) (powerRace .runout x v) := ⟨_, rfl⟩
  obtain ⟨w, hw⟩ : ∃ w, w = deliver (runoutNoticeOf h x cause by_ s) u := ⟨_, rfl⟩
  have uSnapshot : u.race.snapshot = some h := by rw [hu, hv]; simpa [setLamps] using hs
  have uCursor : u.race.cardCursor = s.race.cardCursor := by rw [hu, hv]; simp [setLamps]
  have noticed : runoutNotice cause by_ x u = w := by
    rw [runoutNotice_eq cause by_ x uSnapshot, hw]
    unfold runoutNoticeOf
    rw [uCursor]
  have wTime : w.time = s.time := by rw [hw, hu, hv]; simp [setLamps]
  have wRace : w.race = u.race := by rw [hw]; simp
  have wLaps : w.laps = u.laps := by rw [hw]; simp
  have wRacing : w.race.state.racing = s.race.state.racing := by
    rw [wRace, hracing, hu, hv]
    simp [setLamps, RaceState.racing]
  have entered : enterRunout x cause by_ s = if heatClockAt x s + h.runoutLimit ≤ heatClock s then
      expireRunout (reachedAt x (heatClockAt x s + h.runoutLimit) w) w else w := by
    rw [← heatClock_congr wTime, ← noticed, hu, hv]
    unfold enterRunout
    simp only [runoutLimit_some hs]
  refine ⟨u, w, h, hs, ?_, ?_, hw, fun hearly => ?_, fun hlate => ?_⟩
  · rw [hu, powerRace_eq, hv]
    rfl
  · refine (powerRace_restored .runout x v).congr ?_ ?_ ?_ ?_
    · rw [hv]; rfl
    · rw [hv]; rfl
    · rw [hv]; rfl
    · rw [hu]; rfl
  · rw [entered, if_neg (by omega)]
  · refine ⟨reachedAt x (heatClockAt x s + h.runoutLimit) w, fun hreached => ?_, fun hnot => ?_, ?_⟩
    · exact if_pos (by rwa [racingTicksAt_congr x wTime wRacing])
    · have late : reachedAt x (heatClockAt x s + h.runoutLimit) w =
          now w - BitVec.ofNat 40 (w.time.racingTicks - 100 * (heatClockAt x s + h.runoutLimit)) :=
        if_neg (by rw [racingTicksAt_congr x wTime wRacing]; omega)
      have stamp : now w = now s := by simp only [now, wTime]
      rw [late, stamp, wTime, BitVec.sub_add_cancel]
    · rw [entered, if_pos hlate]
      unfold expireRunout handChange State.onRace State.onLaps
      simp only [wRace, wLaps]

end Sys2Proof.Machine

/-! PROOFS. Calls and resumes: what a call does by the race's state, what it is charged, and how a resume begins and ends
(R129 to R138). -/

namespace Sys2Proof.Machine

open Config

/-! ### The notice and the charge of a call (R134, R135) -/

theorem callNotice_eq (o : CallOrigin) (outcome : Nat) (u : State) :
    callNotice o outcome (now u) u = deliver (callNoticeOf o outcome u) u := by
  unfold callNotice callNoticeOf
  cases o.lane <;> rfl

/-- A call is charged and reported at the present stamp. -/
theorem chargeCall_reported (o : CallOrigin) (outcome : Nat) (u : State) :
    CallReported o outcome u (chargeCall o outcome (now u) u) := by
  refine ⟨fun k hsource hlane hracer => ?_, fun hnot => ?_⟩
  · have occupied : occupiedLane u k = true := decide_eq_true hracer
    obtain ⟨v, hv⟩ : ∃ v : State, v = { u with race := { u.race with
        callsUsed := put u.race.callsUsed k (min 255 (pick u.race.callsUsed k + 1)) } } := ⟨_, rfl⟩
    have charged : chargedLane o u = some k := by simp [chargedLane, hsource, hlane, occupied]
    have notice : callNotice o outcome (now u) v = deliver (callNoticeOf o outcome u) v := by
      have same := callNotice_eq o outcome v
      rw [hv] at same ⊢
      exact same
    have allowed : callsAllowed (deliver (callNoticeOf o outcome u) v) = callsAllowed u := by
      simp only [callsAllowed, deliver_keeps, hv]
    have used : pick (deliver (callNoticeOf o outcome u) v).race.callsUsed k = min 255 (pick u.race.callsUsed k + 1) := by
      simp [hv]
    refine ⟨v, hv, ?_⟩
    have unfolded : chargeCall o outcome (now u) u =
        if callsAllowed (callNotice o outcome (now u) v) ≠ 0 ∧
            callsAllowed (callNotice o outcome (now u) v) < pick (callNotice o outcome (now u) v).race.callsUsed k then
          trigger trigCalls k (now u) (callNotice o outcome (now u) v) else callNotice o outcome (now u) v := by
      rw [hv]
      simp only [chargeCall, charged]
      rfl
    rw [unfolded, notice, allowed, used]
  · have uncharged : chargedLane o u = none := by
      unfold chargedLane
      split
      next k hs hl =>
        obtain hd | hn | ⟨j, hj, hracer⟩ := hnot
        · exact absurd hs hd
        · simp [hl] at hn
        · obtain rfl : k = j := by simpa [hl] using hj
          simp [occupiedLane, hracer]
      · rfl
    simp only [chargeCall, uncharged]
    exact callNotice_eq o outcome u

/-! ### Calls (R129 to R133) -/

/-- A call that takes the race to a state without power: the lanes are off, and the call is charged and reported. -/
theorem powerRace_called {r : RaceState} (hr : r.unpowered) (o : CallOrigin) (outcome : Nat) {s v t : State}
    
    (ht : t = chargeCall o outcome (now s) (powerRace r (now s) v)) (hpower : v.power = s.power) (htime : v.time = s.time) :
    ∃ u : State, u = { v with power := u.power } ∧ PowerCut r s u ∧ CallReported o outcome u t := by
  refine ⟨powerRace r (now s) v, ?_, (powerRace_cut hr (now s) v).congr hpower.symm rfl, ?_⟩
  · rw [powerRace_eq]
  · have stamp : now (powerRace r (now s) v) = now s := by simp only [now, powerRace_keeps, htime]
    have reported := chargeCall_reported o outcome (powerRace r (now s) v)
    rw [stamp] at reported
    rw [ht]
    exact reported

/-- A call in GREEN or in a RUNOUT that goes on: CALLED from there, and the racing tick count stops (R131, R35). -/
theorem callStart_eq (o : CallOrigin) (w : State) :
    callStart o (now w) w =
      chargeCall o 1 (now w) (powerRace .called (now w) (handChange
        (.called (if w.race.state = .runout then .runout else .green)) (now w) (w.onRace fun r => { r with
          state := .called, calledFrom := if w.race.state = .runout then .runout else .green,
          runoutBackup := if w.race.state = .runout then w.race.runoutDeadline.getD 0 - heatClock w
            else w.race.runoutBackup,
          lamps := lampAmber, flashStart := some (now w) }))) := by
  unfold callStart
  simp only [stopRacing_now]

/-- A call in COUNTDOWN: back to STAGED (R130). -/
theorem callRestage_eq (o : CallOrigin) (c : Stamp) (w : State) :
    callRestage o c w = chargeCall o 4 c (powerRace .staged c (handChange .restaged c (setLamps lampsDark
      (w.onRace fun r => { r with
        state := .staged, countdownStep := 0, drawRuns := Vector.replicate 8 .idle, stagedStamp := c })))) := rfl

/-- A call in RESUMING: CALLED again (R133). -/
theorem callAgain_eq (o : CallOrigin) (c : Stamp) (w : State) :
    callAgain o c w = chargeCall o 2 c (powerRace .called c (handChange (.called w.race.calledFrom) c
      (w.onRace fun r => { r with state := .called, resumeStart := none, lamps := lampAmber, flashStart := some c }))) := rfl

/-- The state in which a call is reported: race control's part and the change handed on, every lane off. -/
def CalledWith (o : CallOrigin) (outcome : Nat) (r : RaceState) (prepared s t : State) : Prop :=
  ∃ u : State, u = { prepared with power := u.power } ∧ PowerCut r s u ∧ CallReported o outcome u t

/-- Race control's counts once a call has been counted (R129). -/
def countedRace (o : CallOrigin) (s : State) : RaceControl :=
  { s.race with
    callCount := min 65535 (s.race.callCount + 1), lastCallSource := some o.source, lastCallWho := o.who }

theorem countCall_eq (o : CallOrigin) (s : State) : countCall o s = { s with race := countedRace o s } := rfl

theorem countdown_call (o : CallOrigin) {s : State} (h : s.race.state = .countdown) :
    CalledWith o 4 .staged { s with
      race := { countedRace o s with
        state := .staged, countdownStep := 0, drawRuns := Vector.replicate 8 .idle, stagedStamp := now s, lamps := 0,
        flashStart := none }
      laps := { s.laps with changes := s.laps.changes ++ [{ kind := .restaged, stamp := now s }] } }
      s (takeCall o (now s) s) := by
  have taken : takeCall o (now s) s = callRestage o (now s) (countCall o s) := by simp only [takeCall, h]
  rw [callRestage_eq, countCall_eq] at taken
  simp only [handChange, setLamps, lampsDark, State.onRace, State.onLaps] at taken
  exact powerRace_called (.inr (.inl rfl)) o 4 taken rfl rfl

theorem racing_call (o : CallOrigin) {s : State} {from_ : CalledFrom} {backup : Nat}
    (htake : takeCall o (now s) s = callStart o (now s) (countCall o s))
    (hfrom : (if (countCall o s).race.state = .runout then CalledFrom.runout else .green) = from_)
    (hbackup : (if (countCall o s).race.state = .runout then
      (countCall o s).race.runoutDeadline.getD 0 - heatClock (countCall o s)
      else (countCall o s).race.runoutBackup) = backup) :
    CalledWith o 1 .called { s with
      race := { countedRace o s with
        state := .called, calledFrom := from_, runoutBackup := backup, lamps := 0x20, flashStart := some (now s) }
      laps := { s.laps with changes := s.laps.changes ++ [{ kind := .called from_, stamp := now s }] } }
      s (takeCall o (now s) s) := by
  have started := callStart_eq o (countCall o s)
  rw [hfrom, hbackup, countCall_eq] at started
  rw [countCall_eq] at htake
  simp only [handChange, lampAmber, State.onRace, State.onLaps] at started
  exact powerRace_called (.inr (.inr (.inl rfl))) o 1 (htake.trans started) rfl rfl

theorem resuming_call (o : CallOrigin) {s : State} (h : s.race.state = .resuming) :
    CalledWith o 2 .called { s with
      race := { countedRace o s with state := .called, resumeStart := none, lamps := 0x20, flashStart := some (now s) }
      laps := { s.laps with changes := s.laps.changes ++ [{ kind := .called s.race.calledFrom, stamp := now s }] } }
      s (takeCall o (now s) s) := by
  have taken : takeCall o (now s) s = callAgain o (now s) (countCall o s) := by simp only [takeCall, h]
  rw [callAgain_eq, countCall_eq] at taken
  simp only [handChange, lampAmber, State.onRace, State.onLaps] at taken
  exact powerRace_called (.inr (.inr (.inl rfl))) o 2 taken rfl rfl

theorem green_call (o : CallOrigin) {s : State} (h : s.race.state = .green) :
    CalledWith o 1 .called { s with
      race := { countedRace o s with
        state := .called, calledFrom := .green, runoutBackup := s.race.runoutBackup, lamps := 0x20,
        flashStart := some (now s) }
      laps := { s.laps with changes := s.laps.changes ++ [{ kind := .called .green, stamp := now s }] } }
      s (takeCall o (now s) s) := by
  have green : (countCall o s).race.state ≠ .runout := by
    change s.race.state ≠ _
    rw [h]
    decide
  exact racing_call o (by simp only [takeCall, h]) (if_neg green) (if_neg green)

theorem runout_call (o : CallOrigin) {s : State} (h : s.race.state = .runout) (hwait : s.race.runoutWait = true) :
    CalledWith o 1 .called { s with
      race := { countedRace o s with
        state := .called, calledFrom := .runout, runoutBackup := s.race.runoutDeadline.getD 0 - heatClock s,
        lamps := 0x20, flashStart := some (now s) }
      laps := { s.laps with changes := s.laps.changes ++ [{ kind := .called .runout, stamp := now s }] } }
      s (takeCall o (now s) s) := by
  have runout : (countCall o s).race.state = .runout := h
  exact racing_call o (by simp [takeCall, h, runoutOver, hwait]) (if_pos runout) (if_pos runout)

theorem called_call (o : CallOrigin) {s : State} (h : s.race.state = .called) :
    takeCall o (now s) s = deliver (callNoticeOf o 3 (countCall o s)) (countCall o s) := by
  have taken : takeCall o (now s) s = callNotice o 3 (now (countCall o s)) (countCall o s) := by
    simp only [takeCall, h]
    rfl
  rw [taken, callNotice_eq]

/-- Race control takes a call by the race's state (R129 to R133). -/
theorem takeCall_taken (o : CallOrigin) (s : State) : CallTaken o s (takeCall o (now s) s) := by
  refine ⟨fun h => ?_, fun h => countdown_call o h, fun h => green_call o h, fun h hover => ?_,
    fun h hwait => runout_call o h hwait, fun h => called_call o h, fun h => resuming_call o h⟩
  · obtain h | h := h <;> simp only [takeCall, h]
  · simp [takeCall, h, runoutOver, hover]

/-! ### The resume begins (R137) -/

/-- In CALLED every lane is off already, and a change to RESUMING leaves it so. -/
theorem powerRace_resuming {s : State} (hs : PowerSound s) (hstate : s.power.state = .called) (x : Stamp) :
    powerRace .resuming x s = { s with power := { s.power with state := .resuming } } := by
  have off : ∀ k, turnOff (s.powerLane k) = s.powerLane k := fun k => by
    have agrees := (powerSound_iff s).mp hs k
    have no_power : laneCondition s k = false := by simp [laneCondition, hstate]
    rw [no_power] at agrees
    exact turnOff_of_agrees agrees
  rw [powerRace_off .resuming x s (.inr (.inr (.inr rfl)))]
  simp only [off]
  have same : (tabulate fun k => s.powerLane k) = s.power.lanes := by
    apply Vector.ext
    intro i hi
    exact pick_tabulate (fun k => s.powerLane k) ⟨i, hi⟩
  rw [same]

theorem beginResume_begun {s : State} (hs : PowerSound s) (hstate : s.power.state = .called) (x : Stamp) :
    ResumeBegun x s (beginResume x s) := by
  have off : PowerSound (handChange .resuming x (s.onRace fun r => { r with
      state := .resuming, resumeStart := some x, lamps := lampAmber, flashStart := none })) := hs
  unfold ResumeBegun beginResume
  simp only
  rw [powerRace_resuming off hstate]
  rfl

/-! ### Presses of buttons (R50, R109, R129, R139) -/

theorem exec_press (b : Button) {s : State} (h : buttonOf s b = { level := false, run := 2001 }) :
    takePress b s = pressed b (setButton b { level := true, run := 0 } s) := by
  refine if_pos ?_
  simp [pressDue, h, buttonRun]

/-- Settles O27 (`takeCall_taken`). -/
theorem driverAndMarshalPressesCall : Obligations.DriverAndMarshalPressesCall := by
  intro s k post
  refine ⟨fun h => ⟨_, congrArg Host.Outcome.next (exec_press (.driver k) h), takeCall_taken _ _⟩,
    fun h => ⟨_, congrArg Host.Outcome.next (exec_press (.marshal post) h), takeCall_taken _ _⟩, fun h => ?_⟩
  refine congrArg Host.Outcome.next (if_neg ?_)
  have not_run : (pick s.gates.driver k).run ≠ 2001 := by omega
  simp [pressDue, buttonOf, buttonRun, not_run]

/-- Settles O28 (`enterCountdown_entered`, `beginResume_begun`). -/
theorem directorPressStartsOrResumes : Obligations.DirectorPressStartsOrResumes := by
  intro s hrace hpower hd u
  obtain ⟨-, -, -, hstate⟩ := hrace
  have press : exec .directorResumePress s = .next (pressed .director u) :=
    congrArg Host.Outcome.next (exec_press .director hd)
  rw [press]
  refine ⟨fun h hs hsnap hheld => ⟨_, rfl, ?_⟩, fun hs => ⟨_, rfl, ?_⟩, fun h hs hsnap hheld => ?_, fun hns hnc => ?_⟩
  · have started : pressed .director u = enterCountdown (now s) u := by
      have state : u.race.state = .staged := hs
      have snapshot : u.race.snapshot = some h := hsnap
      simp only [pressed, state, snapshot, if_pos hheld]
      rfl
    rw [started]
    refine enterCountdown_entered (now s) u hsnap fun k => ?_
    have agrees := (hpower k).1
    have staged : s.power.state = .staged := hstate.trans hs
    rw [show laneCondition s k = false by simp [laneCondition, staged]] at agrees
    exact agrees
  · have begun : pressed .director u = beginResume (now s) u := by
      have state : u.race.state = .called := hs
      simp only [pressed, state]
      rfl
    rw [begun]
    exact beginResume_begun (s := u) hpower (hstate.trans hs) (now s)
  · have state : u.race.state = .staged := hs
    have snapshot : u.race.snapshot = some h := hsnap
    simp only [pressed, state, snapshot, hheld]
    rfl
  · have state : u.race.state ≠ .staged ∧ u.race.state ≠ .called := ⟨hns, hnc⟩
    refine congrArg Host.Outcome.next ?_
    unfold pressed
    dsimp only
    split
    next h => exact absurd h state.1
    next h => exact absurd h state.2
    · rfl

end Sys2Proof.Machine

/-! PROOFS. Slips: how the slip at the cursor is taken and finished (R13 to R15), and the slips of race control, of the
penalty unit, of standings and of the tally. -/

namespace Sys2Proof.Machine

open Config

/-! ### Work that writes in the notice list alone -/

/-- From s the device has come to t by work that writes no byte outside the notice list, with no host access left
waiting, and that leaves the slip cursor. -/
structure NoticesOnly (s t : State) : Prop where
  cursor : t.port.slipCursor = s.port.slipCursor
  spared : s.port.turns = [] →
    t.port.turns = [] ∧ ∀ j, ¬ Within 0xE00 0x800 j → readByte t j = readByte s j

theorem NoticesOnly.refl (s : State) : NoticesOnly s s := ⟨rfl, fun h => ⟨h, fun _ _ => rfl⟩⟩

section
variable {s t u : State} (h : NoticesOnly s t)
include h

theorem NoticesOnly.trans (g : NoticesOnly t u) : NoticesOnly s u where
  cursor := g.cursor.trans h.cursor
  spared hq := by
    obtain ⟨ht, hb⟩ := h.spared hq
    obtain ⟨hu, hc⟩ := g.spared ht
    exact ⟨hu, fun j hj => (hc j hj).trans (hb j hj)⟩

/-- A change that leaves record memory and the host port alone. -/
theorem NoticesOnly.same (hmem : u.mem = t.mem) (hport : u.port = t.port) : NoticesOnly s u :=
  h.trans ⟨by rw [hport], fun hq => ⟨by rw [hport]; exact hq, fun j _ => by simp only [readByte, hmem]⟩⟩

theorem NoticesOnly.deliver (n : Notice) : NoticesOnly s (Machine.deliver n t) :=
  h.trans ⟨(deliver_port n t).2.2.2.1, fun hq => ⟨(deliver_idle n t hq).1, fun _ hj => deliver_spares n t hq hj⟩⟩

theorem NoticesOnly.penNotice (kind : NoticeKind) (sub : Nat) (k : Lane) (x : Stamp) (a b : Nat) :
    NoticesOnly s (Machine.penNotice kind sub k x a b t) := h.deliver _

theorem NoticesOnly.actAtOnce (r : Response) (k : Lane) (n : Nat) : NoticesOnly s (Machine.actAtOnce r k n t) :=
  h.same (by simp) (by simp)

theorem NoticesOnly.convert (k : Lane) (e : PenEntry) (x : Stamp) : NoticesOnly s (Machine.convert k e x t) :=
  (h.penNotice _ _ k x _ _).actAtOnce _ k _

theorem NoticesOnly.enqueuePenalty (k : Lane) (e : PenEntry) : NoticesOnly s (Machine.enqueuePenalty k e t) := by
  unfold Machine.enqueuePenalty
  split
  · exact h.convert k e _
  · exact h.same rfl rfl

theorem NoticesOnly.issue (r : Fin 8) (k : Lane) (x : Stamp) (p : Response) (a d w : Nat) :
    NoticesOnly s (Machine.issue r k x p a d w t) := by
  have noticed := (h.same (u := t.onPen fun p => { p with serial := nextSerial t.pen }) rfl rfl).penNotice .penalty r.val k x
    (nextSerial t.pen).toNat (p.code * 256 + qualifier p a w)
  unfold Machine.issue
  dsimp only
  split
  · exact noticed.enqueuePenalty k _
  · exact noticed.enqueuePenalty k _
  · exact noticed.actAtOnce _ k _

theorem NoticesOnly.trigger (r : Fin 8) (k : Lane) (x : Stamp) : NoticesOnly s (Machine.trigger r k x t) := by
  unfold Machine.trigger
  split
  · exact h
  · dsimp only
    split
    · exact h
    · split
      · exact (h.same (by rfl) (by rfl)).issue r k x _ _ _ _
      · exact (h.same (by rfl) (by rfl)).issue r k x _ _ _ _
    · exact h.issue r k x _ _ _ _

theorem NoticesOnly.endService (k : Lane) (x : Stamp) (sub n : Nat) : NoticesOnly s (Machine.endService k x sub n t) := by
  unfold Machine.endService
  split
  · exact h
  · exact (h.same (by simp) (by simp)).penNotice _ _ k x _ _

theorem NoticesOnly.heatNotice (sub : Nat) (label : Byte) (x : Stamp) (b : Nat) :
    NoticesOnly s (Machine.heatNotice sub label x b t) := h.deliver _

theorem NoticesOnly.enterCountdown (e : Stamp) : NoticesOnly s (Machine.enterCountdown e t) := by
  unfold Machine.enterCountdown
  dsimp only
  refine NoticesOnly.same (NoticesOnly.heatNotice (h.same ?_ ?_) _ _ _ _) rfl rfl <;> simp [setLamps]

theorem NoticesOnly.runoutNotice (c : Nat) (b : Option Lane) (x : Stamp) : NoticesOnly s (Machine.runoutNotice c b x t) := by
  unfold Machine.runoutNotice
  dsimp only
  split <;> exact h.deliver _

theorem NoticesOnly.expireRunout (x : Stamp) : NoticesOnly s (Machine.expireRunout x t) := h.same (by simp) (by simp)

theorem NoticesOnly.enterRunout (x : Stamp) (c : Nat) (b : Option Lane) : NoticesOnly s (Machine.enterRunout x c b t) := by
  have noticed : ∀ u : State, u.mem = t.mem → u.port = t.port → NoticesOnly s (Machine.runoutNotice c b x u) :=
    fun u hm hp => (h.same hm hp).runoutNotice c b x
  unfold Machine.enterRunout
  dsimp only
  split
  · exact (noticed _ (by simp [setLamps]) (by simp [setLamps])).expireRunout _
  · exact noticed _ (by simp [setLamps]) (by simp [setLamps])

theorem NoticesOnly.callNotice (o : CallOrigin) (n : Nat) (c : Stamp) : NoticesOnly s (Machine.callNotice o n c t) := by
  unfold Machine.callNotice
  dsimp only
  split <;> exact h.deliver _

theorem NoticesOnly.chargeCall (o : CallOrigin) (n : Nat) (c : Stamp) : NoticesOnly s (Machine.chargeCall o n c t) := by
  unfold Machine.chargeCall
  split
  · exact h.callNotice o n c
  · dsimp only
    split
    · exact ((h.same (by rfl) (by rfl)).callNotice o n c).trigger _ _ _
    · exact (h.same (by rfl) (by rfl)).callNotice o n c

theorem NoticesOnly.takeCall (o : CallOrigin) (c : Stamp) : NoticesOnly s (Machine.takeCall o c t) := by
  unfold Machine.takeCall callRestage callStart callMerge callAgain
  dsimp only
  split
  · exact h
  · exact h
  · exact (h.same (by simp [countCall, setLamps]) (by simp [countCall, setLamps])).chargeCall o _ c
  · exact (h.same (by simp [countCall]) (by simp [countCall])).chargeCall o _ c
  · split
    · exact h
    · exact (h.same (by simp [countCall]) (by simp [countCall])).chargeCall o _ c
  · exact (h.same (by rfl) (by rfl)).callNotice o _ c
  · exact (h.same (by simp [countCall]) (by simp [countCall])).chargeCall o _ c

theorem NoticesOnly.beginResume (x : Stamp) : NoticesOnly s (Machine.beginResume x t) := by
  unfold Machine.beginResume resumeNotice
  exact NoticesOnly.deliver (h.same (by simp) (by simp)) _

end

/-! ### A slip taken and finished (R13, R14) -/

/-- An answer whose work wrote in the notice list alone finishes the slip, which still reads POSTED. -/
theorem finishSlip_noticesOnly {s : State} {kind : Nat} (hw : SlipWaits kind s) {r : SlipAnswer}
    (h : NoticesOnly s r.state) : SlipFinished r.code r.detail r.state (finishSlip r) := by
  obtain ⟨-, -, -, hq, hposted, -⟩ := hw
  obtain ⟨ht, hb⟩ := h.spared hq
  have hs := slipAddr_bounds s.port.slipCursor
  refine finishSlip_posted r ht ?_
  rw [h.cursor, hb _ (by unfold Within; omega), hposted]

/-- The slip at the cursor as the device reads it. -/
def slipRead (s : State) : Slip := readSlip s (slipAddr s.port.slipCursor)

theorem slipRead_kind {kind : Nat} {s : State} (hw : SlipWaits kind s) : (slipRead s).kind = kind := by
  obtain ⟨-, -, -, -, -, hkind, hlt⟩ := hw
  change readField s (slipAddr s.port.slipCursor + 1) 1 = kind
  rw [readField_one, hkind, BitVec.toNat_ofNat]
  exact Nat.mod_eq_of_lt hlt

/-- A slip that waits, of a kind that is meant, is acted on and finished. -/
theorem takeSlip_waits {kind : Nat} {s : State} (hw : SlipWaits kind s) {meant : Nat → Bool} (hm : meant kind = true) :
    takeSlip meant s = finishSlip (slipAction (slipRead s) s) := by
  have hkind := slipRead_kind hw
  obtain ⟨hphase, hdue, hleft, hq, hposted, -⟩ := hw
  have read : deviceRead (slipHere s) s = (s, readByte s (slipHere s)) := deviceRead_idle s hq _
  have fetched : fetchSlip s = (slipRead s, s) := by
    unfold fetchSlip
    rw [gather_idle s hq]
    rfl
  have on : scanOn s = true := by simp [scanOn, hphase, hdue, hleft]
  have posted : readByte s (slipHere s) = 1 := hposted
  unfold takeSlip
  simp only [read, fetched, on, posted, hkind, hm]
  rfl

theorem withSetup_loaded {s : State} (h : s.port.setupLoaded = true) (act : State → SlipAnswer) : withSetup act s = act s :=
  if_pos h

theorem withSetup_not {s : State} (h : ¬ s.port.setupLoaded = true) (act : State → SlipAnswer) :
    withSetup act s = refuseSlip s slipNoSetup := if_neg h

/-- A refusal finishes the slip in the state as it was. -/
theorem finishSlip_refused {kind : Nat} {s : State} (hw : SlipWaits kind s) (code detail : Nat) :
    SlipFinished code detail s (finishSlip { state := s, code := code, detail := detail }) :=
  finishSlip_noticesOnly hw (NoticesOnly.refl s)

/-! ### START, END HEAT, CALL and RESUME (R110, R113, R136, R137) -/

theorem staged_unpowered {s : State} (hrace : RaceSound s) (hpower : PowerSound s) (hs : s.race.state = .staged) (k : Lane) :
    (s.powerLane k).cond = false := by
  obtain ⟨-, -, -, hstate⟩ := hrace
  have agrees := (hpower k).1
  have staged : s.power.state = .staged := hstate.trans hs
  rwa [show laneCondition s k = false by simp [laneCondition, staged]] at agrees

theorem actStart_staged {s : State} {h : HeatSnapshot} (hs : s.race.state = .staged) (hsnap : s.race.snapshot = some h) :
    actStart s = if h.startHeld then acceptSlip (enterCountdown (now s) s) else refuseSlip s slipBadState := by
  simp only [actStart, hs, hsnap]

theorem actStart_other {s : State} (hs : s.race.state ≠ .staged) : actStart s = refuseSlip s slipBadState := by
  unfold actStart
  split
  next h _ => exact absurd h hs
  · rfl

/-- Settles O46 (`enterCountdown_entered`, `finishSlip_noticesOnly`). -/
theorem startSlipBeginsHeldHeat : Obligations.StartSlipBeginsHeldHeat := by
  intro s hw hrace hpower loaded
  have action : slipAction (slipRead s) s = withSetup actStart s := by simp only [slipAction, slipRead_kind hw]
  have taken : exec .start s = .next (finishSlip (withSetup actStart s)) :=
    congrArg Host.Outcome.next ((takeSlip_waits hw rfl).trans (by rw [action]))
  refine ⟨_, taken, fun hload => ?_, fun hload hs => ?_, fun h hload hs hsnap hheld => ?_, fun h hload hs hsnap hheld => ?_⟩
  · rw [withSetup_not hload]
    exact finishSlip_refused hw _ _
  · rw [withSetup_loaded hload, actStart_other hs]
    exact finishSlip_refused hw _ _
  · rw [withSetup_loaded hload, actStart_staged hs hsnap, if_neg (by simp [hheld])]
    exact finishSlip_refused hw _ _
  · rw [withSetup_loaded hload, actStart_staged hs hsnap, if_pos hheld]
    exact ⟨_, enterCountdown_entered (now s) s hsnap (staged_unpowered hrace hpower hs),
      finishSlip_noticesOnly hw ((NoticesOnly.refl s).enterCountdown _)⟩

/-- Settles O47 (`enterRunout_entered`, `finishSlip_noticesOnly`). -/
theorem endHeatSlipMovesToRunout : Obligations.EndHeatSlipMovesToRunout := by
  intro s hw hrace _
  have action : slipAction (slipRead s) s = withSetup actEndHeat s := by simp only [slipAction, slipRead_kind hw]
  have taken : exec .endHeat s = .next (finishSlip (withSetup actEndHeat s)) :=
    congrArg Host.Outcome.next ((takeSlip_waits hw rfl).trans (by rw [action]))
  refine ⟨_, taken, fun hload => ?_, fun hload hs => ?_, fun hload hs => ?_⟩
  · rw [withSetup_not (by simp [hload])]
    exact finishSlip_refused hw _ _
  · rw [withSetup_loaded hload, actEndHeat, if_neg hs]
    exact finishSlip_refused hw _ _
  · obtain ⟨-, hsnap, -⟩ := hrace
    obtain ⟨h, hh⟩ := Option.ne_none_iff_exists'.mp fun hn => by
      rw [hsnap.mp hn] at hs
      cases hs
    rw [withSetup_loaded hload, actEndHeat, if_pos hs]
    exact ⟨_, enterRunout_entered (now s) 3 none s hh (by rw [hs]; rfl),
      finishSlip_noticesOnly hw ((NoticesOnly.refl s).enterRunout _ _ _)⟩

end Sys2Proof.Machine

/-! PROOFS. The slips of race control, of the penalty unit and of standings (R79, R83, R120, R136, R137, R158, R159, R179). -/

namespace Sys2Proof.Machine

open Config

/-! ### The abort (R120) -/

/-- The heat entry voided: the reason, and VOID where it read RUNNING. -/
theorem voidAborted_written (s : State) (hq : s.port.turns = []) :
    let a := entryAddr s.race.cardCursor
    voidAborted s = { s with mem := (voidAborted s).mem } ∧
    readByte (voidAborted s) (a + 7) = 8 ∧ readByte (voidAborted s) a = (if readByte s a = 2 then 4 else readByte s a) ∧
    ∀ j, j ≠ a → j ≠ a + 7 → readByte (voidAborted s) j = readByte s j := by
  have hb := entryAddr_bounds s.race.cardCursor
  generalize ha : entryAddr s.race.cardCursor = a at *
  have hmem : memSize = 0x8000 := rfl
  have reason : ∀ j, readByte (writeBytes (a + 7) [8] s) j = if j = a + 7 then 8 else readByte s j := fun j => by
    split
    next h => rw [h, readByte_writeByte_same _ _ _ (by omega)]
    next h => exact readByte_writeBytes_outside _ _ _ _ (by simp; omega)
  have seen : recheck a 0xFF 2 (deviceWrite (a + 7) [8] s) = (writeBytes (a + 7) [8] s, decide (readByte s a = 2)) := by
    rw [deviceWrite_idle s hq, recheck_idle _ (by simpa using hq), reason a, if_neg (by omega)]
    congr 1
    rw [show readByte s a &&& 0xFF = readByte s a from BitVec.and_allOnes]
  have unfolded : voidAborted s = if readByte s a = 2 then writeBytes a [4] (writeBytes (a + 7) [8] s)
      else writeBytes (a + 7) [8] s := by
    unfold voidAborted
    simp only [ha, seen, decide_eq_true_eq]
    rw [deviceWrite_idle _ (by simpa using hq)]
  rw [unfolded]
  dsimp only
  by_cases hrun : readByte s a = 2
  · rw [if_pos hrun, if_pos hrun]
    refine ⟨rfl, ?_, ?_, fun j hj h7 => ?_⟩
    · rw [readByte_writeBytes_outside _ _ _ _ (by simp), reason, if_pos rfl]
    · exact readByte_writeByte_same _ _ _ (by omega)
    · rw [readByte_writeBytes_outside _ _ _ _ (by simp; omega), reason, if_neg h7]
  · rw [if_neg hrun, if_neg hrun]
    refine ⟨rfl, ?_, ?_, fun j _ h7 => ?_⟩
    · rw [reason, if_pos rfl]
    · rw [reason, if_neg (by omega)]
    · rw [reason, if_neg h7]

/-- What the return to IDLE leaves of a lane at lane power (R169). -/
def idleLane (l : PowerLane) : PowerLane :=
  { l with occupied := false, finished := false, cardCap := 0, serving := none, cond := false, rampStart := none,
           mode := .off, nextPin := none }

theorem powerIdle_eq (x : Stamp) (s : State) :
    powerIdle x s = { s with power := { s.power with
      state := .idle, liveGrid := false, lanes := s.power.lanes.map idleLane } } := by
  unfold powerIdle
  rw [powerRace_off .idle x _ (.inl rfl)]
  have lanes : ∀ v : Vector PowerLane 8, (tabulate fun k => turnOff (pick (v.map fun l => { l with
      occupied := false, finished := false, cardCap := 0, serving := none, rampStart := none }) k)) = v.map idleLane := by
    intro v
    apply Vector.ext
    intro i hi
    refine (pick_tabulate _ ⟨i, hi⟩).trans ?_
    rw [pick_map]
    exact (pick_map v idleLane ⟨i, hi⟩).symm
  exact congrArg (fun ls => ({ s with power := { s.power with state := .idle, liveGrid := false, lanes := ls } } : State))
    (lanes s.power.lanes)

/-- The changes an abort leaves waiting: no RETIRE and no cut (R79). -/
def keptChanges (cs : List Change) : List Change :=
  cs.filter fun c => match c.kind with
    | .retire _ => false
    | .cutUnfinished => false
    | _ => true

/-- The blocks as the abort leaves them, before the heat entry is written (R120, R169). -/
theorem abortIdle_eq (s : State) :
    abortIdle (now s) s = { s with
      race := raceIdle s.race
      laps := { s.laps with changes := keptChanges s.laps.changes ++ [{ kind := .abort, stamp := now s }] }
      pen := { s.pen with heatStaged := false }
      time := { s.time with idleNow := true }
      power := { s.power with state := .idle, liveGrid := false, lanes := s.power.lanes.map idleLane } } := by
  unfold abortIdle timeIdle
  rw [powerIdle_eq, stopRacing_now]
  rfl

/-- What a read heat entry is after an abort, and what the abort leaves behind (R120). -/
theorem finishSlip_abortHeat {s : State} (hw : SlipWaits 6 s) :
    let a := entryAddr s.race.cardCursor
    ∃ u v : State,
      u = { abortIdle (now s) s with mem := u.mem } ∧
      readByte u (a + 7) = 8 ∧ readByte u a = (if readByte s a = 2 then 4 else readByte s a) ∧
      (∀ j, j ≠ a → j ≠ a + 7 → readByte u j = readByte s j) ∧
      v = { deliver (plainNotice .heat 7 (currentLabel s) (now s) s.race.cardCursor.val 8) u with
        race := { u.race with cardCursor := s.race.cardCursor + 1, snapshot := none } } ∧
      SlipFinished 0 0 v (finishSlip (acceptSlip (abortHeat (now s) s))) := by
  obtain ⟨-, -, -, hq, hposted, -⟩ := hw
  obtain ⟨w, hwdef⟩ : ∃ w, w = abortIdle (now s) s := ⟨_, rfl⟩
  have hcursor : w.race.cardCursor = s.race.cardCursor := by rw [hwdef, abortIdle_eq]; rfl
  have hwq : w.port.turns = [] := by rw [hwdef, abortIdle_eq]; exact hq
  have hwb : ∀ j, readByte w j = readByte s j := fun j => by rw [hwdef, abortIdle_eq]; rfl
  have hwslip : w.port.slipCursor = s.port.slipCursor := by rw [hwdef, abortIdle_eq]
  obtain ⟨hvoid, h7, ha, hothers⟩ := voidAborted_written w hwq
  rw [hcursor] at h7 ha hothers
  simp only [hwb] at ha hothers
  obtain ⟨u, hu⟩ : ∃ u, u = voidAborted w := ⟨_, rfl⟩
  rw [← hu] at hvoid h7 ha hothers
  have urace : u.race = w.race := by rw [hvoid]
  obtain ⟨v, hv⟩ : ∃ v, v = { deliver (plainNotice .heat 7 (currentLabel s) (now s) s.race.cardCursor.val 8) u with
      race := { u.race with cardCursor := s.race.cardCursor + 1, snapshot := none } } := ⟨_, rfl⟩
  have aborted : abortHeat (now s) s = v := by
    rw [abortHeat_eq, ← hwdef, ← hu, hv]
    unfold heatNotice State.onRace
    simp only [deliver_keeps, urace, hcursor]
  have spares : NoticesOnly u v := ((NoticesOnly.refl u).deliver _).same (by rw [hv]) (by rw [hv])
  have uq : u.port.turns = [] := by rw [hvoid]; exact hwq
  have uslip : u.port.slipCursor = s.port.slipCursor := by rw [hvoid]; exact hwslip
  obtain ⟨vq, vbytes⟩ := spares.spared uq
  refine ⟨u, v, by rw [hwdef] at hvoid; exact hvoid, h7, ha, hothers, hv, ?_⟩
  rw [aborted]
  have hslip := slipAddr_bounds s.port.slipCursor
  have hentry := entryAddr_bounds s.race.cardCursor
  refine finishSlip_posted (acceptSlip v) vq ?_
  change readByte v (slipAddr v.port.slipCursor) = 1
  rw [spares.cursor, uslip, vbytes _ (by unfold Within; omega), hothers _ (by omega) (by omega), hposted]

/-- Settles O48 (`takeCall_taken`, `beginResume_begun`, `finishSlip_abortHeat`). -/
theorem callResumeAndAbortSlips : Obligations.CallResumeAndAbortSlips := by
  refine ⟨fun s hw => ?_, fun s hw hrace hpower => ?_, fun s hw => ?_⟩
  · have action : slipAction (slipRead s) s = actCall s := by simp only [slipAction, slipRead_kind hw]
    have taken : exec .call s = .next (finishSlip (actCall s)) :=
      congrArg Host.Outcome.next ((takeSlip_waits hw rfl).trans (by rw [action]))
    have expired : runoutOver s = true ↔ s.race.state = .runout ∧ s.race.runoutWait = false := by simp [runoutOver]
    refine ⟨_, taken, fun hno => ?_, fun hni hns hrun => ?_⟩
    · rw [actCall, if_pos (by rwa [expired])]
      exact finishSlip_refused hw _ _
    · have allowed : ¬ (s.race.state = .idle ∨ s.race.state = .staged ∨ runoutOver s = true) := by
        rw [expired]
        rintro (h | h | ⟨h, hf⟩)
        · exact hni h
        · exact hns h
        · rw [hrun h] at hf
          cases hf
      rw [actCall, if_neg allowed]
      exact ⟨_, takeCall_taken _ s, finishSlip_noticesOnly hw ((NoticesOnly.refl s).takeCall _ _)⟩
  · have action : slipAction (slipRead s) s = actResume s := by simp only [slipAction, slipRead_kind hw]
    have taken : exec .resume s = .next (finishSlip (actResume s)) :=
      congrArg Host.Outcome.next ((takeSlip_waits hw rfl).trans (by rw [action]))
    obtain ⟨-, -, -, hstate⟩ := hrace
    refine ⟨_, taken, fun hno => ?_, fun hc => ?_⟩
    · rw [actResume, if_neg hno]
      exact finishSlip_refused hw _ _
    · rw [actResume, if_pos hc]
      exact ⟨_, beginResume_begun hpower (hstate.trans hc) (now s),
        finishSlip_noticesOnly hw ((NoticesOnly.refl s).beginResume _)⟩
  · have action : slipAction (slipRead s) s = withSetup actAbortHeat s := by simp only [slipAction, slipRead_kind hw]
    have taken : exec .abortHeat s = .next (finishSlip (withSetup actAbortHeat s)) :=
      congrArg Host.Outcome.next ((takeSlip_waits hw rfl).trans (by rw [action]))
    refine ⟨_, taken, fun hload => ?_, fun hload hs => ?_, fun hload hs => ?_⟩
    · rw [withSetup_not (by simp [hload])]
      exact finishSlip_refused hw _ _
    · rw [withSetup_loaded hload, actAbortHeat, if_pos hs]
      exact finishSlip_refused hw _ _
    · obtain ⟨u, v, hu, h7, ha, hothers, hv, hfin⟩ := finishSlip_abortHeat hw
      rw [withSetup_loaded hload, actAbortHeat, if_neg hs]
      rw [abortIdle_eq] at hu
      have lanes : u.power.lanes = s.power.lanes.map idleLane := by rw [hu]
      have changes : u.laps.changes = keptChanges s.laps.changes ++ [{ kind := .abort, stamp := now s }] := by rw [hu]
      refine ⟨u, v, ?_, changes, fun k => ?_, h7, ha, hothers, hv, hfin⟩
      · rw [lanes, changes]
        exact hu
      · change pick u.power.lanes k = _
        rw [lanes]
        exact pick_map _ _ k

end Sys2Proof.Machine

/-! PROOFS. The slips that name a lane: PENALISE, PARDON, ADJUST and RETIRE (R83, R158, R159, R179). -/

namespace Sys2Proof.Machine

open Config

/-! ### The lane and the arguments of a slip (R14) -/

theorem laneOf_laneNo (k : Lane) : laneOf (laneNo k) = some k := by
  unfold laneOf laneNo
  rw [dif_pos (by omega)]
  simp

theorem laneOf_some {n : Nat} {k : Lane} (h : laneOf n = some k) : n = laneNo k := by
  unfold laneOf at h
  split at h
  · obtain rfl := Option.some.inj h
    unfold laneNo
    dsimp only
    omega
  · simp at h

theorem laneOf_none {n : Nat} (h : ∀ k, n ≠ laneNo k) : laneOf n = none :=
  Option.eq_none_iff_forall_ne_some.mpr fun k hk => h k (laneOf_some hk)

theorem slipRead_lane (s : State) : (slipRead s).lane = laneOf (readField s (slipAddr s.port.slipCursor + 4) 1) := rfl

/-- The lane of a slip has no racer in the heat (R158). -/
theorem racerLane_none {s : State}
    (h : ∀ k, readField s (slipAddr s.port.slipCursor + 4) 1 = laneNo k → currentRacer s k = 0) :
    racerLane (slipRead s) s = none := by
  unfold racerLane
  rw [slipRead_lane]
  cases hl : laneOf (readField s (slipAddr s.port.slipCursor + 4) 1) with
  | none => rfl
  | some k =>
    have empty : occupiedLane s k = false := decide_eq_false (not_not.mpr (h k (laneOf_some hl)))
    simp [Option.filter, empty]

theorem racerLane_some {s : State} {k : Lane}
    (hl : readField s (slipAddr s.port.slipCursor + 4) 1 = laneNo k) (hr : currentRacer s k ≠ 0) :
    racerLane (slipRead s) s = some k := by
  have occupied : occupiedLane s k = true := decide_eq_true hr
  unfold racerLane
  rw [slipRead_lane, hl, laneOf_laneNo]
  simp [Option.filter, occupied]

theorem slipRead_arg (s : State) : (slipRead s).arg.toNat = readField s (slipAddr s.port.slipCursor + 7) 1 :=
  (readField_one _ _).symm

theorem slipRead_serial {s : State} {serial : Half}
    (h : serial.toNat = readField s (slipAddr s.port.slipCursor + 7) 2) : (slipRead s).serial = serial := by
  change BitVec.ofNat 16 (readField s (slipAddr s.port.slipCursor + 7) 2) = serial
  rw [← h, BitVec.ofNat_toNat, BitVec.setWidth_eq]

/-! ### The end of a service (R152, R159) -/

theorem targetDuty_unserved (l : PowerLane) : targetDuty { l with serving := none } = l.cardCap := rfl

/-- The lap engine is told of the end of a service: the end of a HALT starts the stall watch anew (R82). -/
def toldServiceEnd (k : Lane) (kind : ServiceKind) (s : State) : LapEngine :=
  match kind with
  | .halt => { s.laps with lanes := put s.laps.lanes k { s.lap k with stallRef := heatClock s } }
  | .cap => s.laps

/-- The serving entry dropped: the lane evaluated with no serving kind (R152, R168). -/
theorem dropServing_eq {k : Lane} {s : State} {e : PenEntry} (he : (s.penLane k).serving = some e) (x : Stamp) :
    ∃ m, dropServing k x s = { s with
        pen := { s.pen with lanes := put s.pen.lanes k { s.penLane k with serving := none } }
        laps := toldServiceEnd k e.kind s
        power := { s.power with lanes := put s.power.lanes k m } } ∧
      LaneEvaluated s.power.state x (s.powerLane k).cardCap s { s.powerLane k with serving := none } m := by
  obtain ⟨w, hw⟩ : ∃ w : State, w = { s with
      pen := { s.pen with lanes := put s.pen.lanes k { s.penLane k with serving := none } }
      laps := toldServiceEnd k e.kind s
      power := { s.power with lanes := put s.power.lanes k { s.powerLane k with serving := none } } } := ⟨_, rfl⟩
  have lane : w.powerLane k = { s.powerLane k with serving := none } := by
    rw [hw]
    exact pick_put_same _ _ _
  have dropped : dropServing k x s = evalLane x k w := by
    unfold dropServing
    simp only [he]
    rw [hw]
    cases e.kind <;> rfl
  refine ⟨evalOf x w k, ?_, ?_⟩
  · rw [dropped, evalLane_eq]
    rw [hw, put_put]
  · have evaluated := evalOf_evaluated x w k
    rw [lane] at evaluated
    have power : w.power.state = s.power.state ∧ w.power.liveGrid = s.power.liveGrid ∧
        w.power.rampTime = s.power.rampTime ∧ w.port = s.port ∧ w.time = s.time := by
      rw [hw]
      exact ⟨rfl, rfl, rfl, rfl, rfl⟩
    obtain ⟨hstate, hgrid, hramp, hport, htime⟩ := power
    rw [hstate] at evaluated
    exact evaluated.congr (by rw [hport]) hgrid.symm hramp.symm (by simp only [now, htime])

/-- A service that ends leaves its lane evaluated anew and reports what remained. -/
theorem endService_ended {k : Lane} {s : State} {e : PenEntry} (he : (s.penLane k).serving = some e) (x : Stamp)
    (sub remaining : Nat) : ServiceEnded k x sub remaining s (endService k x sub remaining s) := by
  obtain ⟨m, hdrop, hlane⟩ := dropServing_eq he x
  obtain ⟨v, hv⟩ : ∃ v, v = dropServing k x s := ⟨_, rfl⟩
  have ended : endService k x sub remaining s = penNotice .served sub k x e.serial.toNat remaining v := by
    unfold endService
    simp only [he, hv]
  rw [← hv] at hdrop
  have lane : v.powerLane k = m := by
    rw [hdrop]
    exact pick_put_same _ _ _
  have racer : (v.penLane k).racer = (s.penLane k).racer := by
    rw [hdrop]
    change (pick (put s.pen.lanes k _) k).racer = _
    rw [pick_put_same]
  have label : v.pen.label = s.pen.label := by rw [hdrop]
  refine ⟨e, v, he, ?_, ?_, ?_⟩
  · rw [lane]
    exact hdrop
  · rw [lane]
    exact hlane
  · rw [ended]
    unfold penNotice
    rw [racer, label]

/-! ### PENALISE and PARDON (R158, R159) -/

theorem find_of_first {α : Type} {p : α → Bool} {q r : List α} {e : α} (hq : ∀ d ∈ q, p d = false) (he : p e = true) :
    (q ++ e :: r).find? p = some e := by
  rw [List.find?_append, List.find?_eq_none.mpr fun d hd => by simp [hq d hd]]
  simp [he]

theorem actPenalise_lane {s : State} {k : Lane} (hs : s.race.state ≠ .idle)
    (hl : racerLane (slipRead s) s = some k) :
    actPenalise (slipRead s) s = if 3 < (slipRead s).arg.toNat then refuseSlip s slipBadArg
      else acceptSlip (trigger (Fin.ofNat 8 (4 + (slipRead s).arg.toNat)) k (now s) s) := by
  simp only [actPenalise, if_neg hs, hl]

/-- A PARDON of the entry that a lane serves. -/
theorem actPardon_serving {s : State} {k : Lane} {e : PenEntry} (hs : s.race.state ≠ .idle)
    (hl : racerLane (slipRead s) s = some k) (he : (s.penLane k).serving = some e) (hserial : e.serial = (slipRead s).serial) :
    actPardon (slipRead s) s = acceptSlip (endService k (now s) 2 (servingRemaining s k) s) := by
  have held : (s.penLane k).serving.filter (fun e => decide (e.serial = (slipRead s).serial)) = some e := by
    rw [he]
    simp [Option.filter, hserial]
  simp only [actPardon, if_neg hs, hl, held]

theorem not_serving {s : State} {k : Lane} {serial : Half}
    (h : ∀ e, (s.penLane k).serving = some e → e.serial ≠ serial) :
    (s.penLane k).serving.filter (fun e => decide (e.serial = serial)) = none := by
  cases he : (s.penLane k).serving with
  | none => rfl
  | some e => simp [Option.filter, h e he]

/-- A PARDON of a pending entry, where the lane serves none with the serial. -/
theorem actPardon_pending {s : State} {k : Lane} {e : PenEntry} (hs : s.race.state ≠ .idle)
    (hl : racerLane (slipRead s) s = some k)
    (hserving : ∀ e, (s.penLane k).serving = some e → e.serial ≠ (slipRead s).serial)
    (hfind : (s.penLane k).queue.find? (fun e => decide (e.serial = (slipRead s).serial)) = some e) :
    actPardon (slipRead s) s = acceptSlip (penNotice .served 2 k (now s) (slipRead s).serial.toNat e.amount
      (s.onPenLane k fun l => { l with queue := l.queue.erase e })) := by
  simp only [actPardon, if_neg hs, hl, not_serving hserving, hfind]

theorem actPardon_notFound {s : State} {k : Lane} (hs : s.race.state ≠ .idle)
    (hl : racerLane (slipRead s) s = some k)
    (hserving : ∀ e, (s.penLane k).serving = some e → e.serial ≠ (slipRead s).serial)
    (hfind : (s.penLane k).queue.find? (fun e => decide (e.serial = (slipRead s).serial)) = none) :
    actPardon (slipRead s) s = refuseSlip s slipNotFound := by
  simp only [actPardon, if_neg hs, hl, not_serving hserving, hfind]

/-- The pardoned entry taken out of the queue, with its notice. -/
theorem pardoned_eq {s : State} {k : Lane} {q r : List PenEntry} {e : PenEntry} (hq : (s.penLane k).queue = q ++ e :: r)
    (hfirst : e ∉ q) (serial : Half) :
    penNotice .served 2 k (now s) serial.toNat e.amount (s.onPenLane k fun l => { l with queue := l.queue.erase e }) =
      deliver (laneNotice .served 2 k (s.penLane k).racer s.pen.label (now s) serial.toNat e.amount)
        { s with pen := { s.pen with lanes := put s.pen.lanes k { s.penLane k with queue := q ++ r } } } := by
  have erased : (s.penLane k).queue.erase e = q ++ r := by
    rw [hq, List.erase_append_right _ hfirst, List.erase_cons_head]
  have taken : (s.onPenLane k fun l => { l with queue := l.queue.erase e }) =
      { s with pen := { s.pen with lanes := put s.pen.lanes k { s.penLane k with queue := q ++ r } } } := by
    rw [← erased]
    rfl
  rw [taken]
  unfold penNotice
  have racer : (State.penLane { s with pen := { s.pen with
      lanes := put s.pen.lanes k { s.penLane k with queue := q ++ r } } } k).racer = (s.penLane k).racer := by
    change (pick (put s.pen.lanes k _) k).racer = _
    rw [pick_put_same]
  rw [racer]

/-- What PENALISE and PARDON check before their lane's own checks (R15, R158, R159). -/
theorem slip_of_penalties {s t : State}
    (h : SlipWaits 7 s ∧ exec .penalise s = .next t ∨ SlipWaits 8 s ∧ exec .pardon s = .next t) :
    ∃ kind act, SlipWaits kind s ∧ (act = actPenalise ∨ act = actPardon) ∧
      t = finishSlip (withSetup (act (slipRead s)) s) := by
  obtain ⟨hw, ht⟩ | ⟨hw, ht⟩ := h
  · have action : slipAction (slipRead s) s = withSetup (actPenalise (slipRead s)) s := by
      simp only [slipAction, slipRead_kind hw]
    have taken : exec .penalise s = .next _ := congrArg Host.Outcome.next ((takeSlip_waits hw rfl).trans (by rw [action]))
    exact ⟨7, actPenalise, hw, .inl rfl, Host.Outcome.next.inj (ht.symm.trans taken)⟩
  · have action : slipAction (slipRead s) s = withSetup (actPardon (slipRead s)) s := by
      simp only [slipAction, slipRead_kind hw]
    have taken : exec .pardon s = .next _ := congrArg Host.Outcome.next ((takeSlip_waits hw rfl).trans (by rw [action]))
    exact ⟨8, actPardon, hw, .inr rfl, Host.Outcome.next.inj (ht.symm.trans taken)⟩

/-- Settles O49 (`endService_ended`, `pardoned_eq`, `NoticesOnly.trigger`). -/
theorem penaliseAndPardonSlips : Obligations.PenaliseAndPardonSlips := by
  intro s t a arg
  refine ⟨fun h => ?_, fun k hload hs hlane hracer => ?_⟩
  · obtain ⟨kind, act, hw, hact, rfl⟩ := slip_of_penalties h
    refine ⟨fun hload => ?_, fun hload hs => ?_, fun hload hs hno => ?_⟩
    · rw [withSetup_not (by simp [hload])]
      exact finishSlip_refused hw _ _
    · have refused : act (slipRead s) s = refuseSlip s slipBadState := by
        obtain rfl | rfl := hact
        · exact if_pos hs
        · exact if_pos hs
      rw [withSetup_loaded hload, refused]
      exact finishSlip_refused hw _ _
    · have refused : act (slipRead s) s = refuseSlip s slipBadLane := by
        obtain rfl | rfl := hact
        · simp only [actPenalise, if_neg hs, racerLane_none hno]
        · simp only [actPardon, if_neg hs, racerLane_none hno]
      rw [withSetup_loaded hload, refused]
      exact finishSlip_refused hw _ _
  · intro l
    have hl := racerLane_some hlane hracer
    refine ⟨fun hw => ?_, fun hw => ?_⟩
    · have action : slipAction (slipRead s) s = actPenalise (slipRead s) s := by
        simp only [slipAction, slipRead_kind hw, withSetup_loaded hload]
      refine ⟨_, congrArg Host.Outcome.next ((takeSlip_waits hw rfl).trans (by rw [action])), fun hbig => ?_, fun hok => ?_⟩
      · rw [actPenalise_lane hs hl, slipRead_arg, if_pos hbig]
        exact finishSlip_refused hw _ _
      · rw [actPenalise_lane hs hl, slipRead_arg, if_neg (by change ¬ 3 < arg; omega)]
        exact finishSlip_noticesOnly hw ((NoticesOnly.refl s).trigger _ k _)
    · have action : slipAction (slipRead s) s = actPardon (slipRead s) s := by
        simp only [slipAction, slipRead_kind hw, withSetup_loaded hload]
      refine ⟨_, congrArg Host.Outcome.next ((takeSlip_waits hw rfl).trans (by rw [action])), fun serial hserial => ?_⟩
      have read := slipRead_serial hserial
      refine ⟨fun e he heq => ?_, fun hserving => ⟨fun e q r hq heq hfirst => ?_, fun hnone => ?_⟩⟩
      · rw [actPardon_serving hs hl he (heq.trans read.symm)]
        exact ⟨_, endService_ended he (now s) 2 _, finishSlip_noticesOnly hw ((NoticesOnly.refl s).endService k _ _ _)⟩
      · have find : (s.penLane k).queue.find? (fun e => decide (e.serial = (slipRead s).serial)) = some e := by
          rw [show (s.penLane k).queue = q ++ e :: r from hq, read]
          exact find_of_first (fun d hd => decide_eq_false (hfirst d hd)) (decide_eq_true heq)
        have absent : e ∉ q := fun he => hfirst e he heq
        rw [actPardon_pending hs hl (by rwa [read]) find, read, pardoned_eq hq absent]
        refine finishSlip_noticesOnly hw (NoticesOnly.deliver ?_ _)
        exact (NoticesOnly.refl s).same rfl rfl
      · have find : (s.penLane k).queue.find? (fun e => decide (e.serial = (slipRead s).serial)) = none := by
          rw [read]
          exact List.find?_eq_none.mpr fun d hd => by simpa using hnone d hd
        rw [actPardon_notFound hs hl (by rwa [read]) find]
        exact finishSlip_refused hw _ _

/-! ### ADJUST and RETIRE (R83, R179) -/

theorem adjustLaps_eq (delta : Int) (n : Nat) : adjustLaps delta n = (min 65535 (max 0 ((n : Int) + delta))).toNat := by
  unfold adjustLaps
  omega

theorem slip_of_lapChanges {s t : State}
    (h : SlipWaits 9 s ∧ exec .adjust s = .next t ∨ SlipWaits 10 s ∧ exec .retire s = .next t) :
    ∃ kind act, SlipWaits kind s ∧ (act = actAdjust ∨ act = actRetire) ∧
      t = finishSlip (withSetup (act (slipRead s)) s) := by
  obtain ⟨hw, ht⟩ | ⟨hw, ht⟩ := h
  · have action : slipAction (slipRead s) s = withSetup (actAdjust (slipRead s)) s := by
      simp only [slipAction, slipRead_kind hw]
    have taken : exec .adjust s = .next _ := congrArg Host.Outcome.next ((takeSlip_waits hw rfl).trans (by rw [action]))
    exact ⟨9, actAdjust, hw, .inl rfl, Host.Outcome.next.inj (ht.symm.trans taken)⟩
  · have action : slipAction (slipRead s) s = withSetup (actRetire (slipRead s)) s := by
      simp only [slipAction, slipRead_kind hw]
    have taken : exec .retire s = .next _ := congrArg Host.Outcome.next ((takeSlip_waits hw rfl).trans (by rw [action]))
    exact ⟨10, actRetire, hw, .inr rfl, Host.Outcome.next.inj (ht.symm.trans taken)⟩

/-- An ADJUST that names a lane, by the checks in their order (R83). -/
theorem actAdjust_lane {s : State} {k : Lane} (hs : s.race.state.afterGreen = true)
    (hl : (slipRead s).lane = some k) :
    actAdjust (slipRead s) s =
      if (s.lap k).state = .vacant then refuseSlip s slipBadLane
      else if (slipRead s).arg.toInt < -5 ∨ 5 < (slipRead s).arg.toInt then refuseSlip s slipBadArg
      else acceptSlip (resort (s.onLapLane k fun l => { l with laps := adjustLaps (slipRead s).arg.toInt l.laps })) := by
  simp [actAdjust, hs, hl]

/-- A RETIRE of a lane with a racer (R179). -/
theorem actRetire_lane {s : State} {k : Lane} (hs : s.race.state.afterGreen = true)
    (hl : racerLane (slipRead s) s = some k) :
    actRetire (slipRead s) s =
      if (s.standLane k).retireMark = true ∨ (s.lap k).state = .finished then refuseSlip s slipBadLane
      else acceptSlip (handChange (.retire k) (now s) (s.onStandLane k fun l => { l with retireMark := true })) := by
  simp only [actRetire, hs, hl]
  rfl

/-- Settles O50 (`actAdjust_lane`, `actRetire_lane`). -/
theorem adjustAndRetireSlips : Obligations.AdjustAndRetireSlips := by
  intro s t a
  refine ⟨fun h => ?_, fun k hload hs hlane => ?_⟩
  · obtain ⟨kind, act, hw, hact, rfl⟩ := slip_of_lapChanges h
    refine ⟨fun hload => ?_, fun hload hs => ?_, fun hload hs hno => ?_⟩
    · rw [withSetup_not (by simp [hload])]
      exact finishSlip_refused hw _ _
    · have refused : act (slipRead s) s = refuseSlip s slipBadState := by
        obtain rfl | rfl := hact
        · exact if_pos (by simp [hs])
        · exact if_pos (by simp [hs])
      rw [withSetup_loaded hload, refused]
      exact finishSlip_refused hw _ _
    · have refused : act (slipRead s) s = refuseSlip s slipBadLane := by
        obtain rfl | rfl := hact
        · have lane : (slipRead s).lane = none := laneOf_none hno
          simp [actAdjust, hs, lane]
        · simp [actRetire, hs, racerLane_none fun k hk => absurd hk (hno k)]
      rw [withSetup_loaded hload, refused]
      exact finishSlip_refused hw _ _
  · intro l delta
    refine ⟨fun hw => ?_, fun hw => ?_⟩
    · have lane : (slipRead s).lane = some k := (congrArg laneOf hlane).trans (laneOf_laneNo k)
      have action : slipAction (slipRead s) s = actAdjust (slipRead s) s := by
        simp only [slipAction, slipRead_kind hw, withSetup_loaded hload]
      rw [actAdjust_lane hs lane] at action
      refine ⟨_, congrArg Host.Outcome.next ((takeSlip_waits hw rfl).trans (by rw [action])), fun hv => ?_, fun hv hd => ?_,
        fun hv hlo hhi => ?_⟩
      · rw [if_pos hv]
        exact finishSlip_refused hw _ _
      · have outside : (slipRead s).arg.toInt < -5 ∨ 5 < (slipRead s).arg.toInt := hd
        rw [if_neg hv, if_pos outside]
        exact finishSlip_refused hw _ _
      · have inRange : ¬ ((slipRead s).arg.toInt < -5 ∨ 5 < (slipRead s).arg.toInt) := by
          change ¬ (delta < -5 ∨ 5 < delta)
          omega
        rw [if_neg hv, if_neg inRange]
        have adjusted : (s.onLapLane k fun l => { l with laps := adjustLaps (slipRead s).arg.toInt l.laps }) =
            { s with laps := { s.laps with lanes := put s.laps.lanes k { l with
              laps := (min 65535 (max 0 ((l.laps : Int) + delta))).toNat } } } := by
          rw [← adjustLaps_eq]
          rfl
        rw [adjusted]
        refine finishSlip_noticesOnly hw ?_
        exact (NoticesOnly.refl s).same (by simp [acceptSlip]) (by simp [acceptSlip])
    · have action : slipAction (slipRead s) s = actRetire (slipRead s) s := by
        simp only [slipAction, slipRead_kind hw, withSetup_loaded hload]
      refine ⟨_, congrArg Host.Outcome.next ((takeSlip_waits hw rfl).trans (by rw [action])), fun hno => ?_,
        fun hracer hmark hfin => ?_⟩
      · have refused : actRetire (slipRead s) s = refuseSlip s slipBadLane := by
          by_cases hracer : currentRacer s k = 0
          · have none_there : racerLane (slipRead s) s = none := racerLane_none fun j hj => by
              have same : k = j := by
                have : laneNo k = laneNo j := hlane.symm.trans hj
                unfold laneNo at this
                exact Fin.ext (by omega)
              rwa [← same]
            simp [actRetire, hs, none_there]
          · rw [actRetire_lane hs (racerLane_some hlane hracer)]
            exact if_pos (hno.resolve_left hracer)
        rw [refused]
        exact finishSlip_refused hw _ _
      · have allowed : ¬ ((s.standLane k).retireMark = true ∨ (s.lap k).state = .finished) := by
          rintro (h | h)
          · rw [hmark] at h
            cases h
          · exact hfin h
        rw [actRetire_lane hs (racerLane_some hlane hracer), if_neg allowed]
        refine finishSlip_noticesOnly hw ?_
        exact (NoticesOnly.refl s).same rfl rfl

end Sys2Proof.Machine

/-! PROOFS. The racer tally: entries written with totals of 0, CLEAR TALLY, and slips of no kind (R10, R15, R183). -/

namespace Sys2Proof.Machine

open Config

/-! ### An update of several fields (R10) -/

/-- In an update of several fields a byte is its field's, where no later field covers it. -/
theorem updateBlock_field (c : Nat) (before after : List (Nat × List Byte)) (a i : Nat) (bs : List Byte) (s : State)
    (hq : s.port.turns = []) (hi : i < bs.length) (hc : a + i ≠ c) (hm : a + i < memSize)
    (hafter : ∀ f ∈ after, a + i < f.1 ∨ f.1 + f.2.length ≤ a + i) :
    readByte (updateBlock c (before ++ (a, bs) :: after) s) (a + i) = bs[i] := by
  rw [updateBlock_writes _ _ _ hq, readByte_writeBytes_outside _ _ _ _ (by simp; omega), List.foldl_append, List.foldl_cons,
    foldl_writeBytes_outside _ _ _ hafter]
  exact readByte_writeBytes_inside _ a i bs hi hm

/-! ### A tally entry with every total 0 (R107, R183) -/

/-- A tally entry as it is written with every total 0, at its address: its state and its racer, the count raised, every
total 0. -/
structure EntryZero (state racer : Byte) (a : Nat) (s t : State) : Prop where
  state : readByte t a = state
  racer : readByte t (a + 1) = racer
  count : readByte t (a + 3) = readByte s (a + 3) + 2
  zero : ∀ j, Within (a + 2) 25 j → j ≠ a + 3 → readByte t j = 0

theorem writeTallyZero_spares (state racer : Byte) (i : Fin 64) (s : State) (hq : s.port.turns = []) {j : Nat}
    (hj : ¬ Within (tallyAddr i) 27 j) : readByte (writeTallyZero state racer i s) j = readByte s j := by
  simp only [Within] at hj
  refine updateBlock_outside _ j _ s hq (by omega) ?_
  simp only [List.forall_mem_cons, List.length_replicate, List.length_singleton]
  exact ⟨by omega, by omega, by omega, by omega, fun f hf => by simp at hf⟩

theorem writeTallyZero_zero (state racer : Byte) (i : Fin 64) (s : State) (hq : s.port.turns = []) :
    EntryZero state racer (tallyAddr i) s (writeTallyZero state racer i s) := by
  have hb := tallyAddr_bounds i
  have hmem : memSize = 0x8000 := rfl
  unfold writeTallyZero
  dsimp only
  generalize tallyAddr i = a at hb
  have count := updateBlock_count (a + 3) [(a + 1, [racer]), (a + 2, [0]), (a + 4, List.replicate 23 0), (a, [state])] s hq
    (by omega)
  refine ⟨?_, ?_, count, fun j hj hne => ?_⟩
  · exact updateBlock_field (a + 3) [(a + 1, [racer]), (a + 2, [0]), (a + 4, List.replicate 23 0)] [] a 0 [state] s hq
      (by simp) (by omega) (by omega) (by simp)
  · refine updateBlock_field (a + 3) [] [(a + 2, [0]), (a + 4, List.replicate 23 0), (a, [state])] (a + 1) 0 [racer] s hq
      (by simp) (by omega) (by omega) ?_
    simp only [List.forall_mem_cons, List.length_replicate, List.length_singleton]
    exact ⟨by omega, by omega, by omega, fun f hf => by simp at hf⟩
  · simp only [Within] at hj
    obtain rfl | hlow := eq_or_ne j (a + 2)
    · refine updateBlock_field (a + 3) [(a + 1, [racer])] [(a + 4, List.replicate 23 0), (a, [state])] (a + 2) 0 [0] s hq
        (by simp) (by omega) (by omega) ?_
      simp only [List.forall_mem_cons, List.length_replicate, List.length_singleton]
      exact ⟨by omega, by omega, fun f hf => by simp at hf⟩
    · obtain ⟨n, rfl⟩ : ∃ n, j = a + 4 + n := ⟨j - (a + 4), by omega⟩
      refine (updateBlock_field (a + 3) [(a + 1, [racer]), (a + 2, [0])] [(a, [state])] (a + 4) n (List.replicate 23 0) s hq
        (by simp; omega) (by omega) (by omega) ?_).trans (List.getElem_replicate _)
      simp only [List.forall_mem_cons, List.length_singleton]
      exact ⟨by omega, fun f hf => by simp at hf⟩

theorem Within.of_entry {a j : Nat} (h : Within a 27 j) : Within a 32 j := by
  simp only [Within] at h ⊢
  omega

theorem memOnly_trans {s w t : State} (first : w = { s with mem := w.mem }) (second : t = { w with mem := t.mem }) :
    t = { s with mem := t.mem } :=
  second.trans (congrArg (fun v : State => { v with mem := t.mem }) first)

theorem tallyAddr_apart {i j : Fin 64} (h : i ≠ j) {n : Nat} (hn : Within (tallyAddr j) 32 n) :
    ¬ Within (tallyAddr i) 32 n := by
  have : i.val ≠ j.val := fun e => h (Fin.ext e)
  simp only [Within, tallyAddr, tallyBase] at hn ⊢
  omega

/-- An entry shows what it shows by its own bytes alone. -/
theorem EntryZero.congr {state racer : Byte} {a : Nat} {s t s' t' : State} (h : EntryZero state racer a s t)
    (hs : readByte s' (a + 3) = readByte s (a + 3)) (ht : ∀ j, Within a 32 j → readByte t' j = readByte t j) :
    EntryZero state racer a s' t' where
  state := (ht _ ⟨by omega, by omega⟩).trans h.state
  racer := (ht _ ⟨by omega, by omega⟩).trans h.racer
  count := by rw [ht _ ⟨by omega, by omega⟩, h.count, hs]
  zero j hj hne := (ht j (by simp only [Within] at hj ⊢; omega)).trans (h.zero j hj hne)

/-- Entries written with totals of 0, none twice: each shows that, and no other byte changes. -/
theorem writeTallyZeros_zero (state : Byte) (es : List (Byte × Fin 64)) (hes : (es.map Prod.snd).Nodup) (s : State)
    (hq : s.port.turns = []) :
    let t := es.foldl (fun t e => writeTallyZero state e.1 e.2 t) s
    t = { s with mem := t.mem } ∧ (∀ e ∈ es, EntryZero state e.1 (tallyAddr e.2) s t) ∧
      ∀ j, (∀ e ∈ es, ¬ Within (tallyAddr e.2) 27 j) → readByte t j = readByte s j := by
  induction es generalizing s with
  | nil => exact ⟨rfl, fun e h => by simp at h, fun _ _ => rfl⟩
  | cons e es ih =>
    obtain ⟨hnot, hes⟩ := List.nodup_cons.mp hes
    intro t
    simp only [t, List.foldl_cons]
    clear_value t
    have first : writeTallyZero state e.1 e.2 s = { s with mem := (writeTallyZero state e.1 e.2 s).mem } :=
      updateBlock_eq _ _ s hq
    have one := writeTallyZero_zero state e.1 e.2 s hq
    have spares := fun j => writeTallyZero_spares state e.1 e.2 s hq (j := j)
    generalize writeTallyZero state e.1 e.2 s = w at first one spares
    have hq' : w.port.turns = [] := by rw [first]; exact hq
    obtain ⟨heq, hzero, hspares⟩ := ih hes w hq'
    have apart : ∀ d ∈ es, e.2 ≠ d.2 := fun d hd h => hnot (h ▸ List.mem_map_of_mem hd)
    refine ⟨memOnly_trans first heq, ?_, fun j hj => ?_⟩
    · refine List.forall_mem_cons.mpr ⟨one.congr rfl fun j hj => hspares j fun d hd hin => ?_, fun d hd => ?_⟩
      · exact tallyAddr_apart (apart d hd).symm hj hin.of_entry
      · refine (hzero d hd).congr (spares _ fun hin => ?_).symm fun j _ => rfl
        exact tallyAddr_apart (apart d hd).symm hin.of_entry ⟨by omega, by omega⟩
    · obtain ⟨hhead, htail⟩ := List.forall_mem_cons.mp hj
      exact (hspares j htail).trans (spares j hhead)

/-- The tally cleared: every entry shows totals of 0, FREE and with no racer, and no other byte changes. -/
theorem clearTally_zero (s : State) (hq : s.port.turns = []) :
    let t := allTally.foldl (fun t i => writeTallyZero 0 0 i t) s
    t = { s with mem := t.mem } ∧ (∀ i, EntryZero 0 0 (tallyAddr i) s t) ∧
      ∀ j, (∀ i, ¬ Within (tallyAddr i) 27 j) → readByte t j = readByte s j := by
  have snds : (allTally.map fun i => ((0 : Byte), i)).map Prod.snd = allTally := by simp
  have cleared := writeTallyZeros_zero 0 (allTally.map fun i => (0, i)) (by rw [snds]; exact List.nodup_finRange 64) s hq
  dsimp only at cleared ⊢
  rw [List.foldl_map] at cleared
  obtain ⟨heq, hzero, hspares⟩ := cleared
  refine ⟨heq, fun i => hzero (0, i) (List.mem_map_of_mem (List.mem_finRange i)), fun j hj => hspares j fun e he => ?_⟩
  obtain ⟨i, -, rfl⟩ := List.mem_map.mp he
  exact hj i

/-! ### CLEAR TALLY and slips of no kind (R15, R183) -/

theorem slipAction_unknown {r : Slip} (s : State) (h : r.kind = 0 ∨ 11 < r.kind) : slipAction r s = refuseSlip s slipBadKind := by
  unfold slipAction
  split
  case h_12 => rfl
  all_goals omega

/-- Settles O51 (`clearTally_zero`, `finishSlip_posted`). -/
theorem clearTallyAndBadKindSlips : Obligations.ClearTallyAndBadKindSlips := by
  refine ⟨fun s hw => ?_, fun s kind hw hkind => ⟨_, congrArg Host.Outcome.next (takeSlip_waits hw ?_), ?_⟩⟩
  · have action : slipAction (slipRead s) s = actClearTally s := by simp only [slipAction, slipRead_kind hw]
    refine ⟨_, congrArg Host.Outcome.next ((takeSlip_waits hw rfl).trans (by rw [action])), fun hs => ?_, fun hs => ?_⟩
    · rw [actClearTally, if_pos hs]
      exact finishSlip_refused hw _ _
    · obtain ⟨-, -, -, hq, hposted, -⟩ := hw
      have cleared := clearTally_zero s hq
      rw [actClearTally, if_neg (by simp [hs])]
      dsimp only at cleared
      generalize hu : allTally.foldl (fun t i => writeTallyZero 0 0 i t) s = u at cleared ⊢
      obtain ⟨heq, hzero, hspares⟩ := cleared
      have outside : ∀ j, ¬ Within 0x1600 0x800 j → readByte u j = readByte s j := fun j hj =>
        hspares j fun i hin => hj (by have := tallyAddr_bounds i; simp only [Within] at hin ⊢; omega)
      have port : u.port = s.port := by rw [heq]
      refine ⟨u, heq, ?_, fun i => ⟨(hzero i).count, fun j hj hne => ?_, fun j hj => ?_⟩, outside⟩
      · refine finishSlip_posted { state := u, code := 0, detail := 0 } (by rw [port]; exact hq) ?_
        dsimp only
        rw [port, outside _ (by have := slipAddr_bounds s.port.slipCursor; simp only [Within]; omega), hposted]
      · obtain rfl | rfl | hin : j = tallyAddr i ∨ j = tallyAddr i + 1 ∨ Within (tallyAddr i + 2) 25 j := by
          simp only [Within] at hj ⊢; omega
        · exact (hzero i).state
        · exact (hzero i).racer
        · exact (hzero i).zero j hin hne
      · refine hspares j fun k hin => ?_
        simp only [Within, tallyAddr] at hj hin
        omega
  · simp only [Bool.or_eq_true, beq_iff_eq, decide_eq_true_eq]
    exact hkind
  · rw [slipAction_unknown s (by rw [slipRead_kind hw]; exact hkind)]
    exact finishSlip_refused hw _ _

end Sys2Proof.Machine

/-! PROOFS. Events in time: the heat by the clock, the end of a resume, HALT ends, stalls, lamps, ramps and pins
(R34 to R36, R80, R108 to R116, R124 to R126, R138, R140, R152, R164 to R166). -/

namespace Sys2Proof.Machine

open Config

/-! ### Whether a wait is over (R34, R36) -/

theorem gapDue_eq {s : State} {h : HeatSnapshot} (hs : s.race.state = .staged) (hsnap : s.race.snapshot = some h)
    (hauto : h.startHeld = false) : gapDue s = decide (100 * h.gap ≤ interval s.race.stagedStamp (now s)) := by
  unfold gapDue
  simp only [hs, hsnap, hauto]
  rfl

theorem stepDue_eq {s : State} {e : Stamp} (hs : s.race.state = .countdown) (he : s.race.countdownStamp = some e) :
    stepDue s = (decide (s.race.countdownStep < 5) &&
      decide (100 * ((s.race.countdownStep + 1) * (raceTimes s).countdownStep) ≤ interval e (now s))) := by
  unfold stepDue
  simp only [hs, he]
  rfl

theorem greenDue_eq {s : State} {e : Stamp} (hs : s.race.state = .countdown) (he : s.race.countdownStamp = some e) :
    greenDue s = (decide (s.race.countdownStep = 5) &&
      decide (100 * (5 * (raceTimes s).countdownStep + s.race.hold) ≤ interval e (now s))) := by
  unfold greenDue
  simp only [hs, he]
  rfl

theorem greenStamp_some {s : State} {e : Stamp} (he : s.race.countdownStamp = some e) :
    greenStamp s = some (e + BitVec.ofNat 40 (100 * (5 * (raceTimes s).countdownStep + s.race.hold))) := by
  simp only [greenStamp, he]
  rfl

theorem limitDue_eq {s : State} {h : HeatSnapshot} (hs : s.race.state = .green) (hw : s.race.timeLimitWatch = true)
    (hsnap : s.race.snapshot = some h) : limitDue s = decide (h.timeLimit ≤ heatClock s) := by
  simp [limitDue, hs, hw, hsnap]

theorem expiryDue_eq {s : State} {d : Nat} (hs : s.race.state = .runout) (hd : s.race.runoutDeadline = some d) :
    expiryDue s = (s.race.runoutWait && decide (d ≤ heatClock s)) := by
  simp [expiryDue, hs, hd]

/-! ### The heat by the clock (R108, R111, R116, R124 to R126) -/

/-- The next red lamp lights (R125): at LR5 a hold of 0 ends at once. -/
theorem lightNext_eq {s : State} {e : Stamp} (he : s.race.countdownStamp = some e) (hk : s.race.countdownStep + 1 ≤ 5) :
    let k := s.race.countdownStep + 1
    let lit := { s with race := { s.race with countdownStep := k, lamps := BitVec.ofNat 7 (2 ^ k - 1) } }
    lightNext s = if k = 5 ∧ s.race.hold = 0 then
      enterGreen (e + BitVec.ofNat 40 (100 * (5 * (raceTimes s).countdownStep + s.race.hold))) lit else lit := by
  intro k lit
  have lamps : redLamps k = BitVec.ofNat 7 (2 ^ k - 1) := by rw [redLamps, Nat.min_eq_left hk]
  have lighted : (s.onRace fun r => { r with countdownStep := k, lamps := redLamps k }) = lit := by
    rw [lamps]
    rfl
  have stamp : greenStamp lit = some (e + BitVec.ofNat 40 (100 * (5 * (raceTimes s).countdownStep + s.race.hold))) :=
    greenStamp_some (s := lit) he
  unfold lightNext
  dsimp only
  rw [lighted, stamp]

/-- Settles O52 (`enterCountdown_entered`, `enterGreen_entered`, `enterRunout_entered`). -/
theorem heatRunsByTheClock : Obligations.HeatRunsByTheClock := by
  intro s h hsnap hrace hpower
  refine ⟨fun hs hauto => ?_, fun e hs he => ?_, fun hs hw => ?_, fun d hs hd => ?_⟩
  · have taken : takeGapEnd s = if gapDue s then enterCountdown (stampAfter s.race.stagedStamp h.gap) s else s := by
      simp only [takeGapEnd, hsnap]
    have due := gapDue_eq hs hsnap hauto
    refine ⟨fun hnot => congrArg Host.Outcome.next ?_, fun hyes => ⟨_, congrArg Host.Outcome.next ?_,
      enterCountdown_entered _ s hsnap (staged_unpowered hrace hpower hs)⟩⟩
    · rw [taken, due, if_neg (by simpa using hnot)]
    · rw [taken, due, if_pos (by simpa using hyes)]
      rfl
  · have due := stepDue_eq hs he
    have green := greenDue_eq hs he
    have takenGreen : takeGreen s = if greenDue s then
        enterGreen (e + BitVec.ofNat 40 (100 * (5 * (raceTimes s).countdownStep + s.race.hold))) s else s := by
      simp only [takeGreen, greenStamp_some he]
    intro step k lit g
    refine ⟨fun hk hnot => congrArg Host.Outcome.next ?_, fun hk hyes => ?_, fun h5 => ⟨fun hnot => congrArg Host.Outcome.next ?_,
      fun hyes => ⟨_, congrArg Host.Outcome.next ?_, enterGreen_entered g s hsnap⟩⟩⟩
    · rw [takeCountdownStep, due, if_neg]
      simp only [Bool.and_eq_true, decide_eq_true_eq, not_and, not_le]
      exact fun _ => hnot
    · have lights : takeCountdownStep s = lightNext s := by
        rw [takeCountdownStep, due, if_pos]
        simp only [Bool.and_eq_true, decide_eq_true_eq]
        exact ⟨by omega, hyes⟩
      have lighted := lightNext_eq he hk
      refine ⟨fun hwait => congrArg Host.Outcome.next ?_, fun h5 hhold => ⟨_, congrArg Host.Outcome.next ?_,
        enterGreen_entered g lit (h := h) hsnap⟩⟩
      · rw [lights, lighted, if_neg (by omega)]
      · rw [lights, lighted, if_pos ⟨h5, hhold⟩]
    · rw [takenGreen, green, if_neg (by simp only [Bool.and_eq_true, decide_eq_true_eq]; omega)]
    · rw [takenGreen, green, if_pos (by simp only [Bool.and_eq_true, decide_eq_true_eq]; omega)]
  · have due := limitDue_eq hs hw hsnap
    refine ⟨fun hnot => congrArg Host.Outcome.next ?_, fun hyes => ⟨_, congrArg Host.Outcome.next ?_,
      enterRunout_entered (now s) 1 none s hsnap (by rw [hs]; rfl)⟩⟩
    · rw [takeTimeLimit, due, if_neg (by simpa using hnot)]
    · rw [takeTimeLimit, due, if_pos (by simpa using hyes)]
  · have due := expiryDue_eq hs hd
    refine ⟨fun hnot => congrArg Host.Outcome.next ?_, fun hyes hwait => congrArg Host.Outcome.next ?_⟩
    · rw [takeExpiry, due, if_neg]
      simp only [Bool.and_eq_true, decide_eq_true_eq, not_and, not_le]
      obtain hn | hn := hnot
      · exact fun _ => hn
      · simp [hn]
    · rw [takeExpiry, due, if_pos (by simp [hyes, hwait])]
      rfl

/-! ### The end of a resume, and of a HALT (R138, R152) -/

theorem resumeEnd_eq {s : State} {r : Stamp} (hs : s.race.state = .resuming) (hr : s.race.resumeStart = some r) :
    resumeEnd s = if 100 * (raceTimes s).resumeDelay ≤ interval r (now s) then
      some (r + BitVec.ofNat 40 (100 * (raceTimes s).resumeDelay)) else none := by
  unfold resumeEnd durationEnded stampAfter
  simp only [hs, hr, decide_eq_true_eq]

/-- The resume ended (R138): the race goes back to the state the call interrupted. -/
theorem finishResume_eq (c1 : Stamp) {s : State} {back : RaceState} (hback : s.race.calledFrom.target = back) :
    ∃ v u : State, v = { s with
        race := { s.race with
          state := back, calledFrom := .none, resumeStart := none, flashStart := none, lamps := lampsFor back,
          runoutDeadline := if back = .runout then some (heatClock s + s.race.runoutBackup) else s.race.runoutDeadline }
        laps := { s.laps with changes := s.laps.changes ++ [{ kind := .resumed back, stamp := c1 }] }
        time := { s.time with racingSince := c1 } } ∧
      u = powerRace back c1 v ∧ finishResume c1 s = deliver (plainNotice .resume 2 (currentLabel s) c1 s.race.callCount back.code) u := by
  refine ⟨_, _, rfl, rfl, ?_⟩
  unfold finishResume resumeNotice
  simp only [hback, powerRace_keeps]
  simp only [currentLabel, powerRace_keeps]
  rfl

/-- Settles O53 (`powerRace_restored`, `endService_ended`). -/
theorem resumeDoneAndHaltExpiry : Obligations.ResumeDoneAndHaltExpiry := by
  intro s _ _
  refine ⟨fun r back hs hr hfrom => ?_, fun k e he hkind => ?_⟩
  · have due := resumeEnd_eq hs hr
    have target : s.race.calledFrom.target = back := by
      obtain ⟨hc, rfl⟩ | ⟨hc, rfl⟩ := hfrom <;> rw [hc] <;> rfl
    have lamps : lampsFor back = if back = .runout then 0x41 else 0x40 := by
      obtain ⟨-, rfl⟩ | ⟨-, rfl⟩ := hfrom <;> decide
    intro c1
    refine ⟨fun hnot => congrArg Host.Outcome.next ?_, fun hyes => ?_⟩
    · rw [takeResumeDone, due, if_neg (by omega)]
    · obtain ⟨v, u, hv, hu, hfinish⟩ := finishResume_eq c1 target
      rw [lamps] at hv
      refine ⟨_, u, congrArg Host.Outcome.next ?_, ?_, ?_, hfinish⟩
      · rw [takeResumeDone, due, if_pos hyes]
      · rw [hu, powerRace_eq, hv]
      · refine (powerRace_restored back c1 v).congr ?_ ?_ ?_ (by rw [hu])
        · rw [hv]
        · rw [hv]
        · rw [hv]
          rfl
  · have serving : servingHalt s k = true := by simp [servingHalt, he, hkind]
    refine ⟨fun hnot => congrArg Host.Outcome.next (if_neg ?_), fun hracing hend => ⟨_, congrArg Host.Outcome.next (if_pos ?_),
      endService_ended he (now s) 1 0⟩⟩
    · simp only [haltDue, serving, Bool.and_eq_true, decide_eq_true_eq]
      obtain hn | hn := hnot
      · simp [hn]
      · omega
    · simp [haltDue, serving, hracing, hend]

/-! ### Stalls (R80, R81) -/

theorem stallDue_iff {s : State} {k : Lane} {u : LapSetup} (hu : s.laps.setup = some u) :
    stallDue s k = true ↔ ((s.race.state.racing = true ∨ s.time.raced = true) ∧ s.laps.view.state = .green ∧
      ((s.lap k).state = .lapping ∨ (s.lap k).state = .hunt ∨
        ((s.lap k).state = .grid ∧ s.laps.view.goneGreen = true)) ∧
      servingHalt s k = false ∧ (s.lap k).stalled = false) ∧ (s.lap k).stallRef + u.stallTime ≤ heatClock s := by
  simp only [stallDue, stallWatched, hu, Bool.and_eq_true, Bool.or_eq_true, decide_eq_true_eq, Bool.not_eq_true', timing_iff,
    or_assoc, and_assoc]

/-- Settles O54 (`stallDue_iff`, `takeCall_taken`). -/
theorem stallIsReportedOnce : Obligations.StallIsReportedOnce := by
  intro s k u hu l stalled watched
  have due := stallDue_iff (k := k) hu
  refine ⟨fun hnot => congrArg Host.Outcome.next (if_neg fun h => ?_), fun hw hreach => ?_⟩
  · obtain ⟨hw, hreach⟩ := due.mp h
    obtain hn | hn := hnot
    · exact hn hw
    · exact absurd hreach (Nat.not_le.mpr hn)
  · have taken : takeStall k s = stallLane k s := if_pos (due.mpr ⟨hw, hreach⟩)
    obtain ⟨v, hv⟩ : ∃ v, v = s.onLapLane k fun l => { l with stalled := true } := ⟨_, rfl⟩
    have lane : v.lap k = { l with stalled := true } := by rw [hv]; simp [l]
    have racers : v.laps.racers = s.laps.racers ∧ v.laps.label = s.laps.label := by rw [hv]; exact ⟨rfl, rfl⟩
    have reported : deliver (laneNotice .stall 0 k (pick v.laps.racers k) v.laps.label (now s) (v.lap k).last (v.lap k).laps) v =
        stalled := by
      rw [racers.1, racers.2, lane, hv]
      rfl
    have unfolded : stallLane k s = if u.autoCall then
        takeCall { source := .stall, lane := some k, post := 0 } (now s) stalled else stalled := by
      rw [← reported, hv]
      unfold stallLane
      simp only [hu]
      rfl
    refine ⟨fun hoff => congrArg Host.Outcome.next ?_, fun hon => ⟨_, congrArg Host.Outcome.next ?_, takeCall_taken _ stalled⟩⟩
    · rw [taken, unfolded, if_neg (by simp [hoff])]
    · have stamp : now stalled = now s := by simp only [now, stalled, deliver_keeps]
      rw [taken, unfolded, if_pos hon, stamp]

/-! ### Lamps, ramps and pins (R140, R164 to R166) -/

theorem takeRampStep_ramp {s : State} {k : Lane} {r : Stamp} (hc : (s.powerLane k).cond = true)
    (hr : (s.powerLane k).rampStart = some r) :
    takeRampStep k s = s.onPowerLane k (setDuty (s.power.rampTime.getD 0) (now s)) :=
  if_pos (by simp [hc, hr])

theorem takeChop_powerLane {s : State} (h : s.power.chopDue = true) (k : Lane) :
    (takeChop s).powerLane k = latchPin (s.powerLane k) := by
  unfold takeChop
  rw [if_pos h]
  exact pick_map _ _ k

/-- A pin latched at a duty is high for the duty's share of the period (R164). -/
theorem latchPin_high {l : PowerLane} {d : Nat} (hd : l.nextPin = some d) {s : State} {k : Lane}
    (hs : s.powerLane k = latchPin l) (u : Fin 100) :
    pinHigh s k u = decide (100 * s.power.chopCounter.val + u.val < 50 * d) := by
  have latched : latchPin l = { l with mode := if d = 100 then .on else .chopped, pinDuty := d } := by
    simp only [latchPin, hd]
  unfold pinHigh
  rw [hs, latched]
  by_cases hfull : d = 100
  · have := s.power.chopCounter.isLt
    have := u.isLt
    simp only [hfull, if_true]
    exact (decide_eq_true (by omega)).symm
  · simp only [hfull, if_false]

/-- Settles O55 (`takeRampStep_ramp`, `latchPin_high`). -/
theorem lampRampAndChopSteps : Obligations.LampRampAndChopSteps := by
  intro s k
  refine ⟨fun f hs hf => ?_, ?_, fun hdue => ?_⟩
  · have taken : takeFlash s = if durationEnded f flashMs (now s) then
        s.onRace fun r => { r with lamps := r.lamps ^^^ lampAmber, flashStart := some (stampAfter f flashMs) } else s := by
      simp only [takeFlash, hs, hf]
    have due : durationEnded f flashMs (now s) = decide (25000 ≤ interval f (now s)) := rfl
    refine ⟨fun hnot => congrArg Host.Outcome.next ?_, fun hyes => congrArg Host.Outcome.next ?_⟩
    · rw [taken, due, if_neg (by simpa using hnot)]
    · rw [taken, due, if_pos (by simpa using hyes)]
      rfl
  · intro r l ramp e hc hr
    have taken : takeRampStep k s = s.onPowerLane k (setDuty ramp (now s)) := takeRampStep_ramp hc hr
    have duty : setDuty ramp (now s) l = if ramp ≤ e then { l with duty := targetDuty l, rampStart := none }
        else { l with duty := targetDuty l * e / ramp } := by
      simp only [setDuty, l, hr, e]
    have stepped : takeRampStep k s = { s with power := { s.power with
        lanes := put s.power.lanes k (setDuty ramp (now s) l) } } := taken
    refine ⟨fun hrun => congrArg Host.Outcome.next ?_, fun hend => congrArg Host.Outcome.next ?_⟩
    · rw [stepped, duty, if_neg (by omega)]
    · rw [stepped, duty, if_pos hend]
  · have lane := takeChop_powerLane hdue
    refine ⟨takeChop s, rfl, ?_, fun hnone => ?_, fun d hd _ => ⟨?_, fun c u => ?_⟩⟩
    · unfold takeChop
      rw [if_pos hdue]
      rfl
    · rw [lane]
      unfold latchPin
      simp only [hnone]
    · simp only [lane, latchPin, hd]
    · exact latchPin_high hd (s := { takeChop s with power := { (takeChop s).power with chopCounter := c } }) (lane k) u

end Sys2Proof.Machine

/-! PROOFS. A heat folded into a racer's tally entry (R107, R182). -/

namespace Sys2Proof.Machine

open Config

/-! ### The tally entry a fold goes to -/

/-- The lowest index of a property is the one a search in index order finds. -/
theorem find_lowest {p : Fin 64 → Bool} {i : Fin 64} (hi : p i = true) (hlow : ∀ j, j < i → p j = false) :
    allTally.find? p = some i := by
  refine List.find?_eq_some_iff_getElem.mpr ⟨hi, i.val, by simp [allTally], by simp [allTally], fun j hj => ?_⟩
  have := hlow ⟨j, by omega⟩ hj
  simpa [allTally] using this

theorem find_absent {p : Fin 64 → Bool} (h : ∀ j, p j = false) : allTally.find? p = none := by
  simp [List.find?_eq_none, h]

theorem tallyHolds_iff (s : State) (racer : Byte) (i : Fin 64) :
    tallyHolds s racer i = true ↔ readByte s (tallyAddr i) = 1 ∧ readByte s (tallyAddr i + 1) = racer := by
  simp [tallyHolds]

theorem tallyHolds_false {s : State} {racer : Byte} {i : Fin 64}
    (h : ¬ (readByte s (tallyAddr i) = 1 ∧ readByte s (tallyAddr i + 1) = racer)) : tallyHolds s racer i = false :=
  Bool.eq_false_iff.mpr fun held => h ((tallyHolds_iff s racer i).mp held)

theorem tallyFree_false {s : State} {i : Fin 64} (h : readByte s (tallyAddr i) ≠ 0) : tallyFree s i = false :=
  decide_eq_false h

section
variable {s : State} {racer : Byte} (hq : s.port.turns = [])
include hq

/-- A racer's fold goes to the lowest USED entry that holds it. -/
theorem foldTarget_used {i : Fin 64} (hi : tallyHolds s racer i = true) (hlow : ∀ j, j < i → tallyHolds s racer j = false) :
    foldTarget racer s = (some i, s) := by
  simp only [foldTarget, gather_idle s hq, find_lowest hi hlow]

/-- A racer without an entry is written into the lowest FREE one. -/
theorem foldTarget_free {i : Fin 64} (hnone : ∀ j, tallyHolds s racer j = false) (hi : tallyFree s i = true)
    (hlow : ∀ j, j < i → tallyFree s j = false) : foldTarget racer s = (some i, writeTallyZero 1 racer i s) := by
  simp only [foldTarget, gather_idle s hq, find_absent hnone, find_lowest hi hlow]

/-- A full tally has no entry for a new racer. -/
theorem foldTarget_none (hnone : ∀ j, tallyHolds s racer j = false) (hfull : ∀ j, tallyFree s j = false) :
    foldTarget racer s = (none, s) := by
  simp only [foldTarget, gather_idle s hq, find_absent hnone, find_absent hfull]

end

/-! ### The totals of a fold -/

/-- The heat's best lap of a lane is better than the one its entry holds. -/
def betterLap (s : State) (k : Lane) (a : Nat) : Bool :=
  decide ((s.lap k).bestLap ≠ 0) &&
    (decide (readField s (a + 12) 4 = 0) || decide ((s.lap k).bestLap < readField s (a + 12) 4))

theorem betterLap_iff (s : State) (k : Lane) (a : Nat) : betterLap s k a = true ↔
    ((s.lap k).bestLap ≠ 0 ∧ (readField s (a + 12) 4 = 0 ∨ (s.lap k).bestLap < readField s (a + 12) 4)) := by
  simp [betterLap]

/-- The totals of an entry at address a after a lane's heat, from the first total on (R182). -/
def foldedTotals (label : Byte) (s : State) (k : Lane) (a : Nat) : List Byte :=
  bytesOf 4 (raise 0xFFFFFFFF (readField s (a + 4) 4) (heatDistance s k)) ++
    bytesOf 4 (raise 0xFFFFFFFF (readField s (a + 8) 4) (s.lap k).laps) ++
    (if betterLap s k a then bytesOf 4 (s.lap k).bestLap ++ [label]
      else bytesOf 4 (readField s (a + 12) 4) ++ [readByte s (a + 16)]) ++
    bytesOf 2 (raise 65535 (readField s (a + 17) 2) (s.penLane k).deducted) ++
    bytesOf 4 (raise 0xFFFFFFFF (readField s (a + 19) 4) (s.penLane k).timePenalty) ++
    bytesOf 2 (raise 65535 (readField s (a + 23) 2) (warningSum (s.penLane k))) ++
    bytesOf 2 (raise 65535 (readField s (a + 25) 2) (pick s.race.callsUsed k))

theorem foldedTotals_length (label : Byte) (s : State) (k : Lane) (a : Nat) : (foldedTotals label s k a).length = 23 := by
  unfold foldedTotals
  split <;> simp

/-- A fold into an entry that holds the racer is one update of that entry. -/
theorem foldLane_target {label : Byte} {s : State} {k : Lane} {i : Fin 64} (hq : s.port.turns = [])
    (hracer : pick s.stand.racers k ≠ 0) (ht : foldTarget (pick s.stand.racers k) s = (some i, s)) :
    foldLane label s k = updateBlock (tallyAddr i + 3)
      [(tallyAddr i + 2, bytesOf 1 (raise 255 (readField s (tallyAddr i + 2) 1) 1)),
        (tallyAddr i + 4, foldedTotals label s k (tallyAddr i))] s := by
  unfold foldLane foldedTotals betterLap
  simp only [if_neg hracer, ht, gather_idle s hq]

/-- A fold into an entry just written is a fold from the state in which it stands. -/
theorem foldLane_new {label : Byte} {s u : State} {k : Lane} {i : Fin 64} (hracer : pick s.stand.racers k ≠ 0)
    (ht : foldTarget (pick s.stand.racers k) s = (some i, u)) (hu : u = { s with mem := u.mem })
    (hagain : foldTarget (pick s.stand.racers k) u = (some i, u)) : foldLane label s k = foldLane label u k := by
  have stand : u.stand = s.stand := by rw [hu]
  have race : u.race = s.race := by rw [hu]
  have lap : u.lap k = s.lap k := by rw [hu]; rfl
  have pen : u.penLane k = s.penLane k := by rw [hu]; rfl
  have distance : heatDistance u k = heatDistance s k := by rw [hu]; rfl
  unfold foldLane
  simp only [stand, if_neg hracer, ht, hagain, race, lap, pen, distance]

theorem raise_lt {top c n m : Nat} (h : top < m) : raise top c n < m :=
  Nat.lt_of_le_of_lt (Nat.min_le_left _ _) h

theorem natOf_lt (bs : List Byte) : natOf bs < 256 ^ bs.length := by
  induction bs using List.reverseRecOn with
  | nil => simp [natOf]
  | append_singleton bs b ih =>
    have split : natOf (bs ++ [b]) = 256 * natOf bs + b.toNat := by simp [natOf]
    have := b.isLt
    rw [split, List.length_append, List.length_singleton, Nat.pow_succ]
    omega

theorem readField_lt (s : State) (a n : Nat) : readField s a n < 256 ^ n := by
  have := natOf_lt (readBytes s a n)
  rwa [readBytes, List.length_map, List.length_range] at this

theorem warningSum_eq (l : PenLane) : warningSum l = l.warnings.toList.sum := List.sum_eq_foldl.symm

/-- What the bytes of a fold's totals say (R182). -/
theorem foldedTotals_shows {label : Byte} {s t : State} {k : Lane} {a : Nat} (h : Holds t (a + 4) (foldedTotals label s k a)) :
    readField t (a + 4) 4 = min 0xFFFFFFFF (readField s (a + 4) 4 + heatDistance s k) ∧
    readField t (a + 8) 4 = min 0xFFFFFFFF (readField s (a + 8) 4 + (s.lap k).laps) ∧
    (betterLap s k a = true → readField t (a + 12) 4 = (s.lap k).bestLap % 2 ^ 32 ∧ readByte t (a + 16) = label) ∧
    (¬ betterLap s k a = true → readField t (a + 12) 4 = readField s (a + 12) 4 ∧ readByte t (a + 16) = readByte s (a + 16)) ∧
    readField t (a + 17) 2 = min 65535 (readField s (a + 17) 2 + (s.penLane k).deducted) ∧
    readField t (a + 19) 4 = min 0xFFFFFFFF (readField s (a + 19) 4 + (s.penLane k).timePenalty) ∧
    readField t (a + 23) 2 = min 65535 (readField s (a + 23) 2 + (s.penLane k).warnings.toList.sum) ∧
    readField t (a + 25) 2 = min 65535 (readField s (a + 25) 2 + pick s.race.callsUsed k) := by
  unfold foldedTotals at h
  have length : (if betterLap s k a then bytesOf 4 (s.lap k).bestLap ++ [label] else
      bytesOf 4 (readField s (a + 12) 4) ++ [readByte s (a + 16)]).length = 5 := by split <;> simp
  simp only [holds_append, List.length_append, bytesOf_length, length, Nat.add_assoc, Nat.reduceAdd, and_assoc] at h
  obtain ⟨hdistance, hlaps, hbest, hdeducted, htime, hwarnings, hcalls⟩ := h
  rw [warningSum_eq] at hwarnings
  refine ⟨hdistance.value (raise_lt (by decide)), hlaps.value (raise_lt (by decide)), fun hb => ?_, fun hb => ?_,
    hdeducted.value (raise_lt (by decide)), htime.value (raise_lt (by decide)), hwarnings.value (raise_lt (by decide)),
    hcalls.value (raise_lt (by decide))⟩
  · rw [if_pos hb, holds_append, holds_singleton, bytesOf_length] at hbest
    exact ⟨hbest.1.field, hbest.2⟩
  · rw [if_neg hb, holds_append, holds_singleton, bytesOf_length] at hbest
    exact ⟨hbest.1.value (readField_lt s _ 4), hbest.2⟩

/-- Settles O60 (`foldLane_target`, `foldedTotals_shows`, `writeTallyZero_zero`). -/
theorem tallyFoldAddsTheHeat : Obligations.TallyFoldAddsTheHeat := by
  intro s label k i racer holds t a l p hq
  have hb := tallyAddr_bounds i
  have hmem : memSize = 0x8000 := rfl
  have absent : (∀ j, ¬ holds j) → ∀ j, tallyHolds s racer j = false := fun hno j => tallyHolds_false (hno j)
  refine ⟨fun hracer => if_pos hracer, fun hracer hno hfull => ?_, fun hracer hno hfree hlow => ?_, fun hracer hi hlow => ?_⟩
  · have target := foldTarget_none hq (absent hno) fun j => tallyFree_false (hfull j)
    change foldLane label s k = s
    unfold foldLane
    simp only [if_neg hracer, target, racer]
  · have target := foldTarget_free hq (absent hno) (i := i) (decide_eq_true hfree) fun j hj => tallyFree_false (hlow j hj)
    have zero := writeTallyZero_zero 1 racer i s hq
    have only : writeTallyZero 1 racer i s = { s with mem := (writeTallyZero 1 racer i s).mem } := updateBlock_eq _ _ s hq
    have spares := fun j => writeTallyZero_spares 1 racer i s hq (j := j)
    obtain ⟨u, hu⟩ : ∃ u, u = writeTallyZero 1 racer i s := ⟨_, rfl⟩
    rw [← hu] at target zero only spares
    refine ⟨u, only, zero.state, zero.racer, zero.zero _ ⟨le_rfl, by omega⟩ (by omega), zero.count, fun j hj =>
      zero.zero j ?_ ?_, spares, ?_⟩
    · simp only [Within] at hj ⊢; omega
    · simp only [Within] at hj; omega
    · have kept : ∀ j, j < i → tallyHolds u racer j = false := fun j hj => by
        have apart : ∀ n, Within (tallyAddr j) 32 n → readByte u n = readByte s n := fun n hn =>
          spares n fun hin => tallyAddr_apart (Fin.ne_of_gt hj) hn hin.of_entry
        refine tallyHolds_false ?_
        rw [apart _ ⟨by omega, by omega⟩, apart _ ⟨by omega, by omega⟩]
        exact hno j
      have again := foldTarget_used (s := u) (by rw [only]; exact hq)
        ((tallyHolds_iff u racer i).mpr ⟨zero.state, zero.racer⟩) kept
      exact foldLane_new hracer target only again
  · have target := foldTarget_used hq ((tallyHolds_iff s racer i).mpr hi) fun j hj => tallyHolds_false (hlow j hj)
    have folded : t = _ := foldLane_target (label := label) hq hracer target
    have low := updateBlock_field (a + 3) [] [(a + 4, foldedTotals label s k a)] (a + 2) 0 (bytesOf 1 (raise 255 (readField s (a + 2) 1) 1))
      s hq (by simp) (by omega) (by omega) (by simp)
    have high : Holds t (a + 4) (foldedTotals label s k a) := fun n hn => by
      have := updateBlock_field (a + 3) [(a + 2, bytesOf 1 (raise 255 (readField s (a + 2) 1) 1))] [] (a + 4) n
        (foldedTotals label s k a) s hq hn (by omega) (by rw [foldedTotals_length] at hn; omega) (by simp)
      rw [folded]
      exact this
    have spares : ∀ j, ¬ Within (a + 2) 25 j → readByte t j = readByte s j := fun j hj => by
      simp only [Within] at hj
      rw [folded]
      refine updateBlock_outside _ j _ s hq (by omega) ?_
      simp only [List.forall_mem_cons, foldedTotals_length, bytesOf_length]
      exact ⟨by omega, by omega, fun f hf => by simp at hf⟩
    intro old new
    obtain ⟨hdistance, hlaps, hbest, hkept, hdeducted, htime, hwarnings, hcalls⟩ := foldedTotals_shows high
    rw [betterLap_iff] at hbest
    rw [not_congr (betterLap_iff s k a)] at hkept
    refine ⟨?_, (spares _ ?_).trans hi.1, (spares _ ?_).trans hi.2, ?_, ?_, hdistance, hlaps, hbest, hkept,
      hdeducted, htime, hwarnings, hcalls, spares⟩
    · rw [folded]
      exact updateBlock_eq _ _ s hq
    · simp only [Within]; omega
    · simp only [Within]; omega
    · rw [folded]
      exact updateBlock_count _ _ s hq (by omega)
    · have held : Holds t (a + 2) (bytesOf 1 (raise 255 (readField s (a + 2) 1) 1)) := fun n hn => by
        obtain rfl : n = 0 := by simp at hn; omega
        rw [folded]
        exact low
      exact held.value (raise_lt (by decide))

end Sys2Proof.Machine

/-! PROOFS. The scan of the slip list (R13, R14). -/

namespace Sys2Proof.Machine

open Config

/-! ### What a slip's action leaves of the scan -/

@[simp] theorem takeCall_scan (o : CallOrigin) (c : Stamp) (s : State) :
    (takeCall o c s).time.serviceDue = s.time.serviceDue ∧ (takeCall o c s).time.scanLeft = s.time.scanLeft := by
  generalize e : takeCall o c s = t
  simp only [takeCall, callStart, stopRacing] at e
  (repeat' split at e) <;> subst e <;> simp

@[simp] theorem voidAborted_time (s : State) : (voidAborted s).time = s.time := by
  unfold voidAborted
  dsimp only
  split <;> simp

@[simp] theorem abortHeat_scan (x : Stamp) (s : State) :
    (abortHeat x s).time.serviceDue = s.time.serviceDue ∧ (abortHeat x s).time.scanLeft = s.time.scanLeft := by
  rw [abortHeat_eq]
  simp [abortIdle, timeIdle, stopRacing]

theorem slipAction_scan (r : Slip) (s : State) (hq : s.port.turns = []) :
    (slipAction r s).state.phase = s.phase ∧ (slipAction r s).state.time.serviceDue = s.time.serviceDue ∧
      (slipAction r s).state.time.scanLeft = s.time.scanLeft := by
  have cleared : allTally.foldl (fun t i => writeTallyZero 0 0 i t) s = _ := (clearTally_zero s hq).1
  generalize e : slipAction r s = a
  unfold slipAction withSetup actSetup actStart actCall actResume actEndHeat actAbortHeat actPenalise actPardon actAdjust
    actRetire actClearTally refuseSlip acceptSlip at e
  dsimp only at e
  rw [cleared] at e
  (repeat' split at e) <;> subst e <;> simp [loadSetup]

/-- From s the device has come to t and has left the slip list and its cursor alone, with no host access left waiting. -/
structure SlipsSpared (s t : State) : Prop where
  turns : t.port.turns = []
  cursor : t.port.slipCursor = s.port.slipCursor
  bytes : ∀ i j, Within (slipAddr i) 16 j → readByte t j = readByte s j

theorem NoticesOnly.spares {s t : State} (h : NoticesOnly s t) (hq : s.port.turns = []) : SlipsSpared s t where
  turns := (h.spared hq).1
  cursor := h.cursor
  bytes i j hj := (h.spared hq).2 j (by have := slipAddr_bounds i; simp only [Within] at hj ⊢; omega)

theorem SlipsSpared.same {s t : State} (hq : s.port.turns = []) (hmem : t.mem = s.mem) (hturns : t.port.turns = s.port.turns)
    (hcursor : t.port.slipCursor = s.port.slipCursor) : SlipsSpared s t :=
  ⟨hturns.trans hq, hcursor, fun _ _ _ => by simp only [readByte, hmem]⟩

theorem actPenalise_noticesOnly (r : Slip) (s : State) : NoticesOnly s (actPenalise r s).state := by
  unfold actPenalise
  split
  · exact .refl s
  · split
    · exact .refl s
    · dsimp only
      split
      · exact .refl s
      · exact (NoticesOnly.refl s).trigger _ _ _

theorem actPardon_noticesOnly (r : Slip) (s : State) : NoticesOnly s (actPardon r s).state := by
  unfold actPardon
  split
  · exact .refl s
  · split
    · exact .refl s
    · dsimp only
      split
      · exact (NoticesOnly.refl s).endService _ _ _ _
      · split
        · refine NoticesOnly.penNotice ?_ _ _ _ _ _ _
          exact (NoticesOnly.refl s).same rfl rfl
        · exact .refl s

section
variable {s : State} (hq : s.port.turns = [])
include hq

theorem actSetup_spares : SlipsSpared s (actSetup s).state := by
  unfold actSetup
  rw [gather_idle s hq]
  dsimp only
  split
  · exact .same hq rfl rfl rfl
  · split
    · exact .same hq rfl rfl rfl
    · exact .same hq rfl rfl rfl

theorem abortHeat_spares : SlipsSpared s (abortHeat (now s) s) := by
  obtain ⟨w, hw⟩ : ∃ w, w = abortIdle (now s) s := ⟨_, rfl⟩
  have fields : w = { s with race := w.race, laps := w.laps, pen := w.pen, time := w.time, power := w.power } := by
    rw [hw, abortIdle_eq]
  have wq : w.port.turns = [] := by rw [fields]; exact hq
  obtain ⟨hvoid, -, -, hothers⟩ := voidAborted_written w wq
  have hb := entryAddr_bounds w.race.cardCursor
  have noticed : NoticesOnly (voidAborted w) (abortHeat (now s) s) := by
    rw [abortHeat_eq, ← hw]
    exact ((NoticesOnly.refl _).heatNotice _ _ _ _).same rfl rfl
  have later := noticed.spares (by rw [hvoid]; exact wq)
  refine ⟨later.turns, ?_, fun i j hj => ?_⟩
  · rw [later.cursor, hvoid, fields]
  · have hs := slipAddr_bounds i
    rw [later.bytes i j hj]
    simp only [Within] at hj
    rw [hothers j (by omega) (by omega), fields]
    rfl

theorem actClearTally_spares : SlipsSpared s (actClearTally s).state := by
  unfold actClearTally
  split
  · exact .same hq rfl rfl rfl
  · have cleared := clearTally_zero s hq
    dsimp only at cleared
    generalize allTally.foldl (fun t i => writeTallyZero 0 0 i t) s = u at cleared ⊢
    obtain ⟨heq, -, hspares⟩ := cleared
    have port : u.port = s.port := by rw [heq]
    refine ⟨by rw [← hq, ← port]; rfl, by rw [← port]; rfl, fun i j hj => hspares j fun k hk => ?_⟩
    have ht := tallyAddr_bounds k
    have hs := slipAddr_bounds i
    simp only [Within] at hj hk
    omega

theorem actAdjust_spares (r : Slip) : SlipsSpared s (actAdjust r s).state := by
  unfold actAdjust
  split
  · exact .same hq rfl rfl rfl
  · split
    · exact .same hq rfl rfl rfl
    · dsimp only
      split
      · exact .same hq rfl rfl rfl
      · split
        · exact .same hq rfl rfl rfl
        · exact .same hq (by simp [acceptSlip]) (by simp [acceptSlip]) (by simp [acceptSlip])

theorem actRetire_spares (r : Slip) : SlipsSpared s (actRetire r s).state := by
  unfold actRetire
  split
  · exact .same hq rfl rfl rfl
  · split
    · exact .same hq rfl rfl rfl
    · split
      · exact .same hq rfl rfl rfl
      · exact .same hq rfl rfl rfl

/-- Whatever a slip asks for, the slip list stays as it is until the slip is finished. -/
theorem slipAction_spares (r : Slip) : SlipsSpared s (slipAction r s).state := by
  have kept : SlipsSpared s s := .same hq rfl rfl rfl
  have gated : ∀ act : State → SlipAnswer, SlipsSpared s (act s).state → SlipsSpared s (withSetup act s).state := fun act h => by
    unfold withSetup
    split
    · exact h
    · exact kept
  have noticed : ∀ {t}, NoticesOnly s t → SlipsSpared s t := fun h => h.spares hq
  unfold slipAction
  split
  · exact actSetup_spares hq
  · refine gated _ ?_
    unfold actStart
    split
    · split
      · exact noticed ((NoticesOnly.refl s).enterCountdown _)
      · exact kept
    · exact kept
  · unfold actCall
    split
    · exact kept
    · exact noticed ((NoticesOnly.refl s).takeCall _ _)
  · unfold actResume
    split
    · exact noticed ((NoticesOnly.refl s).beginResume _)
    · exact kept
  · refine gated _ ?_
    unfold actEndHeat
    split
    · exact noticed ((NoticesOnly.refl s).enterRunout _ _ _)
    · exact kept
  · refine gated _ ?_
    unfold actAbortHeat
    split
    · exact kept
    · exact abortHeat_spares hq
  · exact gated _ (noticed (actPenalise_noticesOnly r s))
  · exact gated _ (noticed (actPardon_noticesOnly r s))
  · exact gated _ (actAdjust_spares hq r)
  · exact gated _ (actRetire_spares hq r)
  · exact actClearTally_spares hq
  · exact kept

end

/-! ### One slip of a scan, and the scan (R13, R14) -/

/-- The state byte of a slip. -/
def slipState (s : State) (c : Fin 32) : Byte := readByte s (slipAddr c)

/-- A scan that goes on: the service tick's scan has slips left to take, and no host access waits. -/
structure Scanning (n : Nat) (s : State) : Prop where
  phase : s.phase = .running
  due : s.time.serviceDue = true
  left : s.time.scanLeft = n
  turns : s.port.turns = []

/-- One slip of a scan: the scan has one less to take, the cursor is one on, the slip is finished, and no other slip's state
has changed. -/
structure SlipTaken (n : Nat) (s t : State) : Prop where
  scanning : Scanning n t
  cursor : t.port.slipCursor = s.port.slipCursor + 1
  finished : slipState t s.port.slipCursor = 2 ∨ slipState t s.port.slipCursor = 3
  others : ∀ c, c ≠ s.port.slipCursor → slipState t c = slipState s c

theorem slipAddr_apart {c d : Fin 32} (h : c ≠ d) : slipAddr c + 16 ≤ slipAddr d ∨ slipAddr d + 16 ≤ slipAddr c := by
  have : c.val ≠ d.val := fun e => h (Fin.ext e)
  unfold slipAddr
  omega

section
variable {n : Nat} {s : State}

theorem Scanning.read (h : Scanning n s) :
    deviceRead (slipHere s) s = (s, slipState s s.port.slipCursor) ∧ fetchSlip s = (slipRead s, s) := by
  refine ⟨deviceRead_idle s h.turns _, ?_⟩
  unfold fetchSlip
  rw [gather_idle s h.turns]
  rfl

theorem Scanning.on (h : Scanning (n + 1) s) : scanOn s = true := by
  simp [scanOn, h.phase, h.due, h.left]

/-- A slip that reads POSTED is taken, whatever it asks for. -/
theorem handleSlip_taken (h : Scanning (n + 1) s) (hposted : slipState s s.port.slipCursor = 1) :
    SlipTaken n s (handleSlip (slipRead s, s)) := by
  obtain ⟨r, hr⟩ : ∃ r, r = slipAction (slipRead s) s := ⟨_, rfl⟩
  have spared : SlipsSpared s r.state := hr ▸ slipAction_spares h.turns (slipRead s)
  have scan := slipAction_scan (slipRead s) s h.turns
  rw [← hr] at scan
  obtain ⟨hphase, hdue, hleft⟩ := scan
  have finished : SlipFinished r.code r.detail r.state (finishSlip r) := by
    refine finishSlip_posted r spared.turns ?_
    rw [spared.cursor, spared.bytes s.port.slipCursor _ ⟨le_rfl, by omega⟩]
    exact hposted
  obtain ⟨heq, hstate, -, -, hothers⟩ := finished
  have handled : handleSlip (slipRead s, s) = finishSlip r := by rw [hr]; rfl
  rw [handled]
  generalize finishSlip r = t at heq hstate hothers
  rw [spared.cursor] at hstate hothers
  refine ⟨⟨?_, ?_, ?_, ?_⟩, ?_, ?_, fun c hc => ?_⟩
  · rw [heq]; exact hphase.trans h.phase
  · rw [heq]; exact hdue.trans h.due
  · rw [heq]
    dsimp only
    rw [hleft, h.left]
    rfl
  · rw [heq]; exact spared.turns
  · rw [heq]
    dsimp only
    rw [spared.cursor]
  · unfold slipState
    rw [hstate]
    split
    · exact .inl rfl
    · exact .inr rfl
  · have apart := slipAddr_apart hc
    refine (hothers _ ?_).trans (spared.bytes c _ ⟨le_rfl, by omega⟩)
    simp only [Within]
    omega

theorem takeSlip_scanning (h : Scanning (n + 1) s) (hposted : slipState s s.port.slipCursor = 1) :
    takeSlip (fun _ => true) s = handleSlip (slipRead s, s) := by
  obtain ⟨hread, hfetch⟩ := h.read
  unfold takeSlip
  simp [hread, hfetch, h.on, hposted]

theorem scanSlips_posted (h : Scanning (n + 1) s) (hposted : slipState s s.port.slipCursor = 1) :
    scanSlips (n + 1) s = scanSlips n (handleSlip (slipRead s, s)) := by
  obtain ⟨hread, hfetch⟩ := h.read
  rw [scanSlips, if_pos h.on, hread]
  simp [hposted, hfetch]

theorem scanSlips_stops (h : Scanning n s) (hnot : slipState s s.port.slipCursor ≠ 1) : scanSlips n s = s := by
  obtain ⟨hread, -⟩ := h.read
  cases n with
  | zero => rfl
  | succ n =>
    rw [scanSlips, if_pos h.on, hread]
    exact if_neg hnot

end

/-- A scan from s that took m of its n slips and came to t. -/
structure ScanTaken (n m : Nat) (s t : State) : Prop where
  le : m ≤ n
  iterated : t = (takeSlip fun _ => true)^[m] s
  scanning : Scanning (n - m) t
  cursor : t.port.slipCursor = s.port.slipCursor + Fin.ofNat 32 m
  stopped : m = n ∨ slipState t t.port.slipCursor ≠ 1
  posted : ∀ i, i < m → slipState s (s.port.slipCursor + Fin.ofNat 32 i) = 1
  finished : ∀ i, i < m → slipState t (s.port.slipCursor + Fin.ofNat 32 i) = 2 ∨
    slipState t (s.port.slipCursor + Fin.ofNat 32 i) = 3
  others : ∀ c, (∀ i, i < m → c ≠ s.port.slipCursor + Fin.ofNat 32 i) → slipState t c = slipState s c

theorem fin_add_succ (c : Fin 32) (i : Nat) : c + 1 + Fin.ofNat 32 i = c + Fin.ofNat 32 (i + 1) := by
  ext
  simp only [Fin.val_add, Fin.ofNat, Fin.val_one]
  omega

theorem ScanTaken.none {n : Nat} {s : State} (h : Scanning n s) (hstop : 0 = n ∨ slipState s s.port.slipCursor ≠ 1) :
    ScanTaken n 0 s s :=
  ⟨Nat.zero_le n, rfl, h, by simp, hstop, fun i hi => absurd hi (by omega), fun i hi => absurd hi (by omega), fun _ _ => rfl⟩

theorem ScanTaken.cons {n m : Nat} {s u t : State} (hposted : slipState s s.port.slipCursor = 1)
    (htake : takeSlip (fun _ => true) s = u) (hu : SlipTaken n s u) (h : ScanTaken n m u t) :
    ScanTaken (n + 1) (m + 1) s t := by
  have next : ∀ i, u.port.slipCursor + Fin.ofNat 32 i = s.port.slipCursor + Fin.ofNat 32 (i + 1) := fun i => by
    rw [hu.cursor, fin_add_succ]
  have posted := h.posted
  have finished := h.finished
  have others := h.others
  simp only [next] at posted finished others
  have away : ∀ i, i < m → s.port.slipCursor + Fin.ofNat 32 (i + 1) ≠ s.port.slipCursor := fun i hi heq => by
    have one := posted i hi
    rw [heq] at one
    obtain h2 | h3 := hu.finished
    · rw [one] at h2; exact absurd h2 (by decide)
    · rw [one] at h3; exact absurd h3 (by decide)
  refine ⟨Nat.succ_le_succ h.le, ?_, ?_, ?_, ?_, fun i hi => ?_, fun i hi => ?_, fun c hc => ?_⟩
  · rw [Function.iterate_succ_apply, htake]
    exact h.iterated
  · simpa using h.scanning
  · rw [h.cursor, next]
  · exact h.stopped.imp (congrArg (· + 1)) id
  · cases i with
    | zero => simpa using hposted
    | succ i => exact (hu.others _ (away i (by omega))).symm.trans (posted i (by omega))
  · cases i with
    | zero =>
      have kept := others s.port.slipCursor fun i hi => (away i hi).symm
      simpa [kept] using hu.finished
    | succ i => exact finished i (by omega)
  · refine (others c fun i hi => hc (i + 1) (by omega)).trans (hu.others c ?_)
    simpa using hc 0 (by omega)

theorem scanSlips_taken {n : Nat} {s : State} (h : Scanning n s) : ∃ m, ScanTaken n m s (scanSlips n s) := by
  induction n generalizing s with
  | zero => exact ⟨0, .none h (.inl rfl)⟩
  | succ n ih =>
    by_cases hposted : slipState s s.port.slipCursor = 1
    · have taken := handleSlip_taken h hposted
      obtain ⟨m, hm⟩ := ih taken.scanning
      rw [scanSlips_posted h hposted]
      exact ⟨m + 1, hm.cons hposted (takeSlip_scanning h hposted) taken⟩
    · rw [scanSlips_stops h hposted]
      exact ⟨0, .none h (.inr hposted)⟩

/-- Settles O45 (`scanSlips_taken`). -/
theorem slipScanStopsAtFirstNotPosted : Obligations.SlipScanStopsAtFirstNotPosted := by
  intro s hphase hdue t hq
  have scanning : Scanning s.time.scanLeft s := ⟨hphase, hdue, rfl, hq⟩
  obtain ⟨n, taken⟩ := scanSlips_taken scanning
  exact ⟨scanSlips_stops scanning, n, taken.le, taken.iterated, taken.cursor, taken.scanning.left, taken.stopped,
    fun i hi => ⟨taken.posted i hi, taken.finished i hi⟩⟩

end Sys2Proof.Machine

/-! PROOFS. The penalty unit: serials, triggers and responses (R144 to R149). -/

namespace Sys2Proof.Machine

open Config

/-! ### The next serial (R146) -/

theorem bumpSerial_toNat (c : Half) : (bumpSerial c).toNat = if c.toNat = 65535 then 1 else c.toNat + 1 := by
  unfold bumpSerial
  have := c.isLt
  by_cases h : c = 0xFFFF
  · subst h; rfl
  · have hn : c.toNat ≠ 65535 := fun e => h (BitVec.eq_of_toNat_eq e)
    rw [if_neg h, if_neg hn, BitVec.toNat_add, show (1 : Half).toNat = 1 from rfl]
    omega

/-- The serial counter after some more raises than one. -/
theorem iterate_bumpSerial_toNat (c : Half) (i : Nat) :
    (bumpSerial^[i + 1] c).toNat = ((bumpSerial c).toNat - 1 + i) % 65535 + 1 := by
  induction i with
  | zero =>
    have := c.isLt
    have := bumpSerial_toNat c
    rw [Function.iterate_one]
    split at this <;> omega
  | succ i ih =>
    rw [Function.iterate_succ_apply', bumpSerial_toNat, ih]
    split <;> omega

theorem iterate_bumpSerial_inj (c : Half) {i j : Nat} (hi : i < 65535) (hj : j < 65535)
    (h : bumpSerial^[i + 1] c = bumpSerial^[j + 1] c) : i = j := by
  have := congrArg BitVec.toNat h
  rw [iterate_bumpSerial_toNat, iterate_bumpSerial_toNat] at this
  omega

/-- The search takes the first serial that is not held, unless it runs out of steps. -/
theorem skipHeld_iterate (held : List Half) (n : Nat) (c : Half) :
    ∃ i, i ≤ n ∧ skipHeld held n c = bumpSerial^[i + 1] c ∧ (∀ j, j < i → bumpSerial^[j + 1] c ∈ held) ∧
      (skipHeld held n c ∈ held → i = n) := by
  induction n generalizing c with
  | zero => exact ⟨0, le_rfl, rfl, fun j hj => absurd hj (by omega), fun _ => rfl⟩
  | succ n ih =>
    by_cases h : bumpSerial c ∈ held
    · obtain ⟨i, hi, heq, hheld, hend⟩ := ih (bumpSerial c)
      have skipped : skipHeld held (n + 1) c = skipHeld held n (bumpSerial c) := if_pos h
      rw [skipped]
      refine ⟨i + 1, by omega, heq, fun j hj => ?_, fun hin => by rw [hend hin]⟩
      cases j with
      | zero => exact h
      | succ j => exact hheld j (by omega)
    · have stopped : skipHeld held (n + 1) c = bumpSerial c := if_neg h
      rw [stopped]
      exact ⟨0, by omega, rfl, fun j hj => absurd hj (by omega), fun hin => absurd hin h⟩

/-- With fewer serials held than there are, the search ends at one that is free. -/
theorem skipHeld_free (held : List Half) (hlen : held.length < 65535) (c : Half) :
    skipHeld held held.length c ∉ held ∧
      ∃ i, skipHeld held held.length c = bumpSerial^[i + 1] c ∧ ∀ j, j < i → bumpSerial^[j + 1] c ∈ held := by
  obtain ⟨i, -, heq, hheld, hend⟩ := skipHeld_iterate held held.length c
  refine ⟨fun hin => ?_, i, heq, hheld⟩
  obtain rfl := hend hin
  have all : ∀ j, j < held.length + 1 → bumpSerial^[j + 1] c ∈ held := fun j hj => by
    obtain h | rfl := Nat.lt_or_eq_of_le (Nat.le_of_lt_succ hj)
    · exact hheld j h
    · exact heq ▸ hin
  have nodup : ((List.range (held.length + 1)).map fun j => bumpSerial^[j + 1] c).Nodup :=
    List.Nodup.map_on (fun a ha b hb h => iterate_bumpSerial_inj c (by simp at ha; omega) (by simp at hb; omega) h)
      List.nodup_range
  have sub : ((List.range (held.length + 1)).map fun j => bumpSerial^[j + 1] c) ⊆ held := fun w hw => by
    obtain ⟨j, hj, rfl⟩ := List.mem_map.mp hw
    exact all j (by simpa using hj)
  have := (nodup.subperm sub).length_le
  simp at this

theorem mem_heldSerials (s : State) (w : Half) : w ∈ heldSerials s.pen ↔
    ∃ j e, ((s.penLane j).serving = some e ∨ e ∈ (s.penLane j).queue) ∧ e.serial = w := by
  have lane : ∀ l, l ∈ s.pen.lanes.toList ↔ ∃ j, s.penLane j = l := fun l => by
    rw [Vector.mem_toList_iff, Vector.mem_iff_getElem]
    exact ⟨fun ⟨i, hi, h⟩ => ⟨⟨i, hi⟩, h⟩, fun ⟨j, h⟩ => ⟨j.val, j.isLt, h⟩⟩
  simp only [heldSerials, List.mem_flatMap, lane, heldEntries, List.mem_map, List.mem_append, Option.mem_toList]
  constructor
  · rintro ⟨l, ⟨j, rfl⟩, e, he, rfl⟩
    exact ⟨j, e, he, rfl⟩
  · rintro ⟨j, e, he, rfl⟩
    exact ⟨_, ⟨j, rfl⟩, e, he, rfl⟩

theorem heldSerials_length (s : State) (h : ∀ k, (s.penLane k).queue.length ≤ 8) : (heldSerials s.pen).length ≤ 72 := by
  have each : ∀ n ∈ s.pen.lanes.toList.map fun l => ((heldEntries l).map PenEntry.serial).length, n ≤ 9 := fun n hn => by
    obtain ⟨l, hl, rfl⟩ := List.mem_map.mp hn
    rw [Vector.mem_toList_iff, Vector.mem_iff_getElem] at hl
    obtain ⟨i, hi, rfl⟩ := hl
    have queue := h ⟨i, hi⟩
    have serving : (s.penLane ⟨i, hi⟩).serving.toList.length ≤ 1 := by cases (s.penLane ⟨i, hi⟩).serving <;> simp
    change ((heldEntries (s.penLane ⟨i, hi⟩)).map PenEntry.serial).length ≤ 9
    rw [List.length_map, heldEntries, List.length_append]
    omega
  have := List.sum_le_card_nsmul _ 9 each
  simp only [List.length_map, Vector.length_toList, smul_eq_mul] at this
  simp only [heldSerials, List.length_flatMap, List.length_map]
  exact this

theorem nextSerial_free (s : State) (h : ∀ k, (s.penLane k).queue.length ≤ 8) :
    nextSerial s.pen ∉ heldSerials s.pen ∧ ∃ i, nextSerial s.pen = bumpSerial^[i + 1] s.pen.serial ∧
      ∀ j, j < i → bumpSerial^[j + 1] s.pen.serial ∈ heldSerials s.pen := by
  have := heldSerials_length s h
  exact skipHeld_free (heldSerials s.pen) (by omega) s.pen.serial

/-! ### Responses (R145 to R149) -/

/-- A lane with its warning counters replaced. -/
def PenLane.warned (l : PenLane) (w : Vector Nat 8) : PenLane := { l with warnings := w }

/-- A lane's penalty state replaced. -/
def withPenLane (k : Lane) (m : PenLane) (s : State) : State := { s with pen := { s.pen with lanes := put s.pen.lanes k m } }

/-- A response issued on a lane that has come to m: the serial and the PENALTY notice, before its effect (R146). -/
def issuedOn (t : Fin 8) (k : Lane) (x : Stamp) (code detail : Nat) (m : PenLane) (s : State) : State :=
  deliver (laneNotice .penalty t.val k (s.penLane k).racer s.pen.label x (nextSerial s.pen).toNat (code * 256 + detail))
    { s with pen := { s.pen with serial := nextSerial s.pen, lanes := put s.pen.lanes k m } }

@[simp] theorem issuedOn_pen (t : Fin 8) (k : Lane) (x : Stamp) (code detail : Nat) (m : PenLane) (s : State) :
    (issuedOn t k x code detail m s).pen = { s.pen with serial := nextSerial s.pen, lanes := put s.pen.lanes k m } := by
  simp [issuedOn]

theorem onPenLane_eq {s : State} {k : Lane} {m : PenLane} (h : s.penLane k = m) (f : PenLane → PenLane) :
    s.onPenLane k f = withPenLane k (f m) s := by
  rw [← h]
  rfl

theorem heldSerials_congr {p q : PenaltyUnit} (h : ∀ k, heldEntries (pick p.lanes k) = heldEntries (pick q.lanes k)) :
    heldSerials p = heldSerials q := by
  have lanes : p.lanes.toList.map heldEntries = q.lanes.toList.map heldEntries := by
    refine List.ext_getElem (by simp) fun i hi hj => ?_
    simp only [List.getElem_map, Vector.getElem_toList]
    exact h ⟨i, by simpa using hi⟩
  have each : ∀ p : PenaltyUnit, heldSerials p = (p.lanes.toList.map heldEntries).flatMap fun es => es.map PenEntry.serial :=
    fun p => by rw [heldSerials, List.flatMap_map]
  rw [each p, each q, lanes]

/-- A lane's warnings are no matter to the next serial. -/
theorem nextSerial_warnings (k : Lane) (w : Vector Nat 8) (s : State) :
    nextSerial (withPenLane k ((s.penLane k).warned w) s).pen = nextSerial s.pen := by
  have held : heldSerials (withPenLane k ((s.penLane k).warned w) s).pen = heldSerials s.pen := by
    refine heldSerials_congr fun j => ?_
    by_cases hj : j = k
    · subst hj
      simp [withPenLane, heldEntries, State.penLane, PenLane.warned]
    · simp [withPenLane, pick_put_ne _ _ hj]
  unfold nextSerial
  rw [held]
  rfl

/-- What a response does to a lane that has come to m: its serial and notice, and then its effect (R147 to R149). -/
def issueEffect (t : Fin 8) (k : Lane) (x : Stamp) (r : Response) (amount duty : Nat) (serial : Half) (v : State) : State :=
  match r with
  | .halt => enqueuePenalty k
      { serial := serial, trigger := t, kind := .halt, amount := amount, duty := 0, callStamp := x } v
  | .cap => enqueuePenalty k
      { serial := serial, trigger := t, kind := .cap, amount := amount, duty := duty, callStamp := x } v
  | r => actAtOnce r k amount v

theorem issue_eq (t : Fin 8) (k : Lane) (x : Stamp) (r : Response) (amount duty n : Nat) (w : Vector Nat 8) (s : State) :
    issue t k x r amount duty n (withPenLane k ((s.penLane k).warned w) s) =
      issueEffect t k x r amount duty (nextSerial s.pen)
        (issuedOn t k x r.code (qualifier r amount n) ((s.penLane k).warned w) s) := by
  have serial := nextSerial_warnings k w s
  have racer : ((withPenLane k ((s.penLane k).warned w) s).penLane k).racer = (s.penLane k).racer := by
    simp [withPenLane, State.penLane, PenLane.warned]
  have noticed : penNotice .penalty t.val k x (nextSerial s.pen).toNat (r.code * 256 + qualifier r amount n)
      ((withPenLane k ((s.penLane k).warned w) s).onPen fun p => { p with serial := nextSerial s.pen }) =
      issuedOn t k x r.code (qualifier r amount n) ((s.penLane k).warned w) s := by
    unfold penNotice issuedOn
    rw [← racer]
    rfl
  unfold issue issueEffect
  rw [serial]
  dsimp only
  cases r <;> dsimp only <;> rw [noticed]

theorem issuedOn_penLane (t : Fin 8) (k : Lane) (x : Stamp) (code detail : Nat) (m : PenLane) (s : State) :
    (issuedOn t k x code detail m s).penLane k = m := by
  simp [State.penLane]

/-- A HALT or CAP issued on a lane (R148): it joins the queue of a lane that runs on and has room, else it converts. -/
theorem enqueuePenalty_issued (t : Fin 8) (k : Lane) (x : Stamp) (code detail : Nat) (w : Vector Nat 8) (e : PenEntry)
    (s : State) :
    let v := issuedOn t k x code detail ((s.penLane k).warned w) s
    let room := (s.penLane k).finished = false ∧ (s.penLane k).queue.length < 8
    let m := (s.penLane k).warned w
    (room → enqueuePenalty k e v = withPenLane k { m with queue := (s.penLane k).queue ++ [e] } v) ∧
    (¬ room → enqueuePenalty k e v = convert k e e.callStamp v) := by
  intro v room m
  have lane : v.penLane k = m := issuedOn_penLane t k x code detail m s
  have finished : (v.penLane k).finished = (s.penLane k).finished := by rw [lane]; rfl
  have queue : (v.penLane k).queue = (s.penLane k).queue := by rw [lane]; rfl
  refine ⟨fun hroom => ?_, fun hno => if_pos ?_⟩
  · have joins : enqueuePenalty k e v = v.onPenLane k fun l => { l with queue := l.queue ++ [e] } := by
      refine if_neg ?_
      rw [finished, queue, hroom.1]
      simp only [Bool.false_or, decide_eq_true_eq]
      exact Nat.not_le.mpr hroom.2
    rw [joins, onPenLane_eq lane]
    rfl
  · rw [finished, queue]
    by_cases hf : (s.penLane k).finished = true
    · rw [hf]
      rfl
    · have hfalse := Bool.eq_false_iff.mpr hf
      have full : ¬ (s.penLane k).queue.length < 8 := fun h => hno ⟨hfalse, h⟩
      rw [hfalse]
      simp only [Bool.false_or, decide_eq_true_eq]
      exact Nat.not_lt.mp full

/-- A response drawn on a lane whose warnings have come to w, from s to u (R146 to R149). -/
def Responds (t : Fin 8) (k : Lane) (x : Stamp) (w : Vector Nat 8) (r : Response) (amount duty : Nat) (s u : State) : Prop :=
  let l := s.penLane k
  let m := l.warned w
  let issued := fun code detail => issuedOn t k x code detail m s
  let onLane := fun (v : State) (m : PenLane) => withPenLane k m v
  let e := fun kind : ServiceKind => ({
    serial := nextSerial s.pen, trigger := t, kind := kind, amount := amount
    duty := if kind = .cap then duty else 0
    callStamp := x } : PenEntry)
  let room := l.finished = false ∧ l.queue.length < 8
  (r = .time → u = onLane (issued 5 (amount / 1000)) { m with
    timePenalty := min 0xFFFFFFFF (l.timePenalty + amount) }) ∧
  (r = .laps → ∃ v, v = onLane (issued 4 amount) { m with deducted := min 65535 (l.deducted + amount) } ∧ u = resort v) ∧
  (r = .halt → (room → u = onLane (issued 2 (amount / 1000)) { m with queue := l.queue ++ [e .halt] }) ∧
    (¬ room → u = convert k (e .halt) x (issued 2 (amount / 1000)))) ∧
  (r = .cap → (room → u = onLane (issued 3 amount) { m with queue := l.queue ++ [e .cap] }) ∧
    (¬ room → u = convert k (e .cap) x (issued 3 amount)))

theorem issueEffect_responds (t : Fin 8) (k : Lane) (x : Stamp) (w : Vector Nat 8) (r : Response) (amount duty n : Nat)
    (s : State) : Responds t k x w r amount duty s (issueEffect t k x r amount duty (nextSerial s.pen)
      (issuedOn t k x r.code (qualifier r amount n) ((s.penLane k).warned w) s)) := by
  refine ⟨?_, ?_, ?_, ?_⟩
  · rintro rfl
    exact onPenLane_eq (issuedOn_penLane t k x _ _ _ s) _
  · rintro rfl
    exact ⟨_, onPenLane_eq (issuedOn_penLane t k x _ _ _ s) _, rfl⟩
  · rintro rfl
    exact enqueuePenalty_issued t k x _ _ w _ s
  · rintro rfl
    exact enqueuePenalty_issued t k x _ _ w _ s

theorem issue_responds (t : Fin 8) (k : Lane) (x : Stamp) (w : Vector Nat 8) (r : Response) (amount duty n : Nat) (s : State) :
    Responds t k x w r amount duty s (issue t k x r amount duty n (withPenLane k ((s.penLane k).warned w) s)) := by
  rw [issue_eq]
  exact issueEffect_responds t k x w r amount duty n s

/-! ### Triggers (R144, R145) -/

theorem rowOf_some {s : State} {rows : Vector PenaltyRow 8} (h : s.pen.table = some rows) (t : Fin 8) :
    rowOf s t = pick rows t := by
  simp only [rowOf, h]

theorem trigger_ignored {t : Fin 8} {k : Lane} {x : Stamp} {s : State}
    (h : s.pen.heatStaged = false ∨ (s.penLane k).racer = 0) : trigger t k x s = s := by
  refine if_pos ?_
  obtain h | h := h <;> simp [h]

theorem trigger_staged {t : Fin 8} {k : Lane} {x : Stamp} {s : State} {rows : Vector PenaltyRow 8}
    (hs : s.pen.heatStaged = true) (hr : (s.penLane k).racer ≠ 0) (ht : s.pen.table = some rows) :
    let row := pick rows t
    let n := pick (s.penLane k).warnings t + 1
    trigger t k x s = match row.response with
      | .none => s
      | .warn => if n < row.warnLimit then
          issue t k x .warn 0 0 n (withPenLane k ((s.penLane k).warned (put (s.penLane k).warnings t n)) s)
        else issue t k x row.escResponse row.escAmount row.escDuty 0
          (withPenLane k ((s.penLane k).warned (put (s.penLane k).warnings t 0)) s)
      | r => issue t k x r row.amount row.duty 0 s := by
  unfold trigger
  rw [if_neg (by rw [hs, decide_eq_false hr]; decide), rowOf_some ht]
  dsimp only
  cases (pick rows t).response <;> rfl

theorem withPenLane_self (k : Lane) (s : State) :
    withPenLane k ((s.penLane k).warned (s.penLane k).warnings) s = s := by
  change { s with pen := { s.pen with lanes := put s.pen.lanes k (pick s.pen.lanes k) } } = s
  rw [put_pick]

/-- Settles O56 (`nextSerial_free`, `issue_responds`). -/
theorem triggersDrawTheirRowsResponse : Obligations.TriggersDrawTheirRowsResponse := by
  intro s t k x rows l row n serial issued onLane responds held on
  refine ⟨trigger_ignored, fun hqueues => ?_, fun hs hr ht => ?_⟩
  · obtain ⟨hfree, i, heq, hheld⟩ := nextSerial_free s fun j => (hqueues.2.2.2 j).2.2.1
    exact ⟨fun h => hfree ((mem_heldSerials s serial).mpr h), i, heq, fun j hj => (mem_heldSerials s _).mp (hheld j hj)⟩
  · have drawn := trigger_staged (t := t) (x := x) hs hr ht
    dsimp only at drawn
    refine ⟨fun hrow => ?_, fun hnone hwarn => ?_, fun hrow => ⟨fun hlow => ?_, fun hhigh => ?_⟩⟩
    · rw [drawn, show (pick rows t).response = .none from hrow]
    · have direct : trigger t k x s = issue t k x row.response row.amount row.duty 0 s := by
        rw [drawn]
        cases h : (pick rows t).response with
        | none => exact absurd h hnone
        | warn => exact absurd h hwarn
        | _ => simp only [row]
      have responded := issue_responds t k x l.warnings row.response row.amount row.duty 0 s
      rw [withPenLane_self, ← direct] at responded
      exact responded
    · rw [drawn, show (pick rows t).response = .warn from hrow]
      dsimp only
      rw [if_pos hlow, issue_eq]
      rfl
    · rw [drawn, show (pick rows t).response = .warn from hrow]
      dsimp only
      rw [if_neg (Nat.not_lt.mpr hhigh)]
      exact issue_responds t k x _ row.escResponse row.escAmount row.escDuty 0 s

end Sys2Proof.Machine

/-! PROOFS. Service at the line: how a service begins, advances and is checked for PUSH (R150 to R155). -/

namespace Sys2Proof.Machine

open Config

/-! ### What a trigger leaves of a service -/

@[simp] theorem actAtOnce_serving (r : Response) (k : Lane) (n : Nat) (s : State) (j : Lane) :
    ((actAtOnce r k n s).penLane j).serving = (s.penLane j).serving := by
  unfold actAtOnce
  split
  · simp only [State.penLane, resort_keeps]
    simp only [State.onPenLane, State.onPen, pick_amend]
    split <;> simp_all
  · simp only [State.onPenLane_penLane]
    split <;> rfl
  · rfl

theorem penLane_of_pen {s t : State} (h : t.pen = s.pen) (j : Lane) : t.penLane j = s.penLane j := by
  simp only [State.penLane, h]

@[simp] theorem convert_serving (k : Lane) (e : PenEntry) (x : Stamp) (s : State) (j : Lane) :
    ((convert k e x s).penLane j).serving = (s.penLane j).serving :=
  (actAtOnce_serving _ _ _ _ _).trans (congrArg PenLane.serving (penLane_of_pen (by simp) j))

@[simp] theorem enqueuePenalty_serving (k : Lane) (e : PenEntry) (s : State) (j : Lane) :
    ((enqueuePenalty k e s).penLane j).serving = (s.penLane j).serving := by
  unfold enqueuePenalty
  split
  · rw [convert_serving]
  · simp only [State.onPenLane_penLane]
    split <;> rfl

@[simp] theorem issue_serving (t : Fin 8) (k : Lane) (x : Stamp) (r : Response) (a d n : Nat) (s : State) (j : Lane) :
    ((issue t k x r a d n s).penLane j).serving = (s.penLane j).serving := by
  have noticed : ∀ b : Nat, ((penNotice .penalty t.val k x (nextSerial s.pen).toNat b
      (s.onPen fun p => { p with serial := nextSerial s.pen })).penLane j) = s.penLane j := fun b => by
    rw [penLane_of_pen (penNotice_keeps _ _ _ _ _ _ _).2.2.2.2.2.2.1]
    rfl
  unfold issue
  dsimp only
  split
  · rw [enqueuePenalty_serving, noticed]
  · rw [enqueuePenalty_serving, noticed]
  · rw [actAtOnce_serving, noticed]

@[simp] theorem trigger_serving (t : Fin 8) (k : Lane) (x : Stamp) (s : State) (j : Lane) :
    ((trigger t k x s).penLane j).serving = (s.penLane j).serving := by
  unfold trigger
  split
  · rfl
  · dsimp only
    split
    · rfl
    · split
      · rw [issue_serving, State.onPenLane_penLane]
        split <;> rfl
      · rw [issue_serving, State.onPenLane_penLane]
        split <;> rfl
    · rw [issue_serving]

/-! ### A lane's serving kind at lane power (R168) -/

/-- A change of serving kind: the lane alone is evaluated anew. -/
theorem powerServing_evaluated (k : Lane) (kind : Option ServiceKind) (duty : Nat) (x : Stamp) (s : State) :
    let l := { s.powerLane k with
      serving := kind, capDuty := if kind = some .cap then duty else (s.powerLane k).capDuty }
    ∃ m, powerServing k kind duty x s = { s with power := { s.power with lanes := put s.power.lanes k m } } ∧
      LaneEvaluated s.power.state x (targetDuty l) s l m := by
  intro l
  obtain ⟨w, hw⟩ : ∃ w, w = s.onPowerLane k fun _ => l := ⟨_, rfl⟩
  have lane : w.powerLane k = l := by rw [hw]; simp
  have evaluated := evalOf_evaluated x w k
  rw [lane, show w.power.state = s.power.state by rw [hw]; rfl] at evaluated
  refine ⟨evalOf x w k, ?_, evaluated.congr (by rw [hw]; rfl) (by rw [hw]; rfl) (by rw [hw]; rfl) (by rw [hw]; rfl)⟩
  have served : powerServing k kind duty x s = evalLane x k w := by rw [hw]; rfl
  rw [served, evalLane_eq, hw]
  simp only [State.onPowerLane, State.onPower, amend, put_put]

/-! ### The entry a service begins with (R151) -/

/-- A pending entry of a kind whose call came before the crossing. -/
def Eligible (kind : ServiceKind) (x : Stamp) (d : PenEntry) : Prop := d.kind = kind ∧ isLater d.callStamp x = true

theorem eligible_iff (kind : ServiceKind) (x : Stamp) (d : PenEntry) :
    (decide (d.kind = kind) && isLater d.callStamp x) = true ↔ Eligible kind x d := by
  simp [Eligible]

theorem eligible_false {kind : ServiceKind} {x : Stamp} {d : PenEntry} (h : ¬ Eligible kind x d) :
    (decide (d.kind = kind) && isLater d.callStamp x) = false :=
  Bool.eq_false_iff.mpr fun e => h ((eligible_iff kind x d).mp e)

theorem chooseEntry_halt {q r : List PenEntry} {e : PenEntry} {x : Stamp} (he : Eligible .halt x e)
    (hq : ∀ d ∈ q, ¬ Eligible .halt x d) : chooseEntry (q ++ e :: r) x = some e := by
  unfold chooseEntry
  rw [find_of_first (fun d hd => eligible_false (hq d hd)) ((eligible_iff _ _ _).mpr he)]

theorem chooseEntry_cap {q r : List PenEntry} {e : PenEntry} {x : Stamp} (he : Eligible .cap x e)
    (hq : ∀ d ∈ q, ¬ Eligible .cap x d) (hno : ∀ d ∈ q ++ e :: r, ¬ Eligible .halt x d) :
    chooseEntry (q ++ e :: r) x = some e := by
  unfold chooseEntry
  rw [List.find?_eq_none.mpr fun d hd => by rw [eligible_false (hno d hd)]; simp,
    find_of_first (fun d hd => eligible_false (hq d hd)) ((eligible_iff _ _ _).mpr he)]

theorem chooseEntry_none {q : List PenEntry} {x : Stamp} (h : ∀ d ∈ q, isLater d.callStamp x = false) :
    chooseEntry q x = none := by
  unfold chooseEntry
  rw [List.find?_eq_none.mpr fun d hd => by simp [h d hd], List.find?_eq_none.mpr fun d hd => by simp [h d hd]]

/-! ### Service at an accepted line crossing (R150 to R153) -/

theorem pushCheck_not_halt {s : State} {k : Lane} {x : Stamp} {view : RaceView} (h : servingHalt s k = false) :
    pushCheck k x view s = s := by
  unfold pushCheck
  simp [h]

theorem servingHalt_none {s : State} {k : Lane} (h : (s.penLane k).serving = none) :
    servingHalt s k = false ∧ servingCap s k = false := by
  simp [servingHalt, servingCap, h]

theorem serving_some {s : State} {k : Lane} {e : PenEntry} (h : (s.penLane k).serving = some e) :
    servingHalt s k = decide (e.kind = .halt) ∧ servingCap s k = decide (e.kind = .cap) := by
  simp [servingHalt, servingCap, h]

theorem penAcceptedLine_free {s : State} {k : Lane} {x : Stamp} {completion finishing : Bool} {view : RaceView}
    (h : (s.penLane k).serving = none) : penAcceptedLine k x completion finishing view s =
      if !finishing && !(s.penLane k).finished && s.pen.heatStaged then beginService k x s else s := by
  obtain ⟨hhalt, hcap⟩ := servingHalt_none h
  unfold penAcceptedLine
  simp [pushCheck_not_halt hhalt, hcap, h]

theorem beginService_none {s : State} {k : Lane} {x : Stamp} (h : chooseEntry (s.penLane k).queue x = none) :
    beginService k x s = s := by
  simp only [beginService, h]

/-- What every service changes of its lane in the penalty unit when it begins (R151). -/
def startedLane (x : Stamp) (e : PenEntry) (queue : List PenEntry) (l : PenLane) : PenLane :=
  { l with queue := queue, serving := some e, serveStamp := x, pushMark := false }

theorem erase_first {q r : List PenEntry} {e : PenEntry} (h : e ∉ q) : (q ++ e :: r).erase e = q ++ r := by
  rw [List.erase_append_right _ h, List.erase_cons_head]

theorem withPenLane_penLane (k : Lane) (m : PenLane) (s : State) : (withPenLane k m s).penLane k = m := pick_put_same _ _ _

theorem withPenLane_withPenLane (k : Lane) (m n : PenLane) (s : State) :
    withPenLane k n (withPenLane k m s) = withPenLane k n s := by
  simp only [withPenLane, put_put]

theorem onPenLane_started {s : State} {k : Lane} {e : PenEntry} {x : Stamp} {q r : List PenEntry}
    (hqueue : (s.penLane k).queue = q ++ e :: r) (hnot : e ∉ q) :
    (s.onPenLane k fun l => { l with queue := l.queue.erase e, serving := some e, serveStamp := x, pushMark := false }) =
      withPenLane k (startedLane x e (q ++ r) (s.penLane k)) s := by
  rw [← erase_first hnot, ← hqueue]
  rfl

section
variable {s : State} {k : Lane} {x : Stamp} {e : PenEntry} {q r : List PenEntry}
  (hqueue : (s.penLane k).queue = q ++ e :: r) (hnot : e ∉ q) (hchoose : chooseEntry (s.penLane k).queue x = some e)
include hqueue hnot hchoose

/-- A HALT begins: its end is the heat clock plus its amount, and the lane's power goes (R151, R162). -/
theorem beginService_halt (hkind : e.kind = .halt) : beginService k x s =
    deliver (laneNotice .serve 2 k (s.penLane k).racer s.pen.label x e.serial.toNat e.amount) { s with
      pen := { s.pen with lanes := put s.pen.lanes k { startedLane x e (q ++ r) (s.penLane k) with
        haltEnd := heatClock s + e.amount } }
      laps := { s.laps with lanes := put s.laps.lanes k { s.lap k with haltInSector := true, haltService := true } }
      power := { s.power with lanes := put s.power.lanes k { s.powerLane k with
        serving := some .halt, cond := false, rampStart := none, mode := .off, nextPin := none } } } := by
  obtain ⟨p, hp⟩ : ∃ p : PenLane, p = { startedLane x e (q ++ r) (s.penLane k) with haltEnd := heatClock s + e.amount } :=
    ⟨_, rfl⟩
  obtain ⟨u, hu⟩ : ∃ u : State, u = { s with
      pen := { s.pen with lanes := put s.pen.lanes k p }
      laps := { s.laps with lanes := put s.laps.lanes k { s.lap k with haltInSector := true, haltService := true } } } :=
    ⟨_, rfl⟩
  obtain ⟨m, hm, hoff, -⟩ := powerServing_evaluated k (some .halt) 0 x u
  have off := hoff fun h => h.1.2.2.2 rfl
  have begun : beginService k x s = penNotice .serve 2 k x e.serial.toNat e.amount (powerServing k (some .halt) 0 x u) := by
    unfold beginService
    simp only [hchoose, hkind]
    rw [onPenLane_started hqueue hnot, onPenLane_eq (withPenLane_penLane k _ s), withPenLane_withPenLane, hu, hp]
    rfl
  have lane : u.penLane k = p := by
    rw [hu]
    exact pick_put_same _ _ _
  have racer : ({ u with power := { u.power with lanes := put u.power.lanes k m } } : State).penLane k = p := lane
  rw [begun, hm]
  unfold penNotice
  rw [racer, off, hu, hp]
  rfl

/-- A CAP begins: its laps and its duty are set, and the lane's power follows them (R151, R168). -/
theorem beginService_cap (hkind : e.kind = .cap) : ∃ v : State,
    v = { s with
      pen := { s.pen with lanes := put s.pen.lanes k { startedLane x e (q ++ r) (s.penLane k) with
        capRemaining := e.amount } }
      power := { s.power with lanes := put s.power.lanes k (v.powerLane k) } } ∧
    LaneEvaluated s.power.state x (min (s.powerLane k).cardCap e.duty) s
      { s.powerLane k with serving := some .cap, capDuty := e.duty } (v.powerLane k) ∧
    beginService k x s =
      deliver (laneNotice .serve 3 k (s.penLane k).racer s.pen.label x e.serial.toNat (e.duty * 256 + e.amount)) v := by
  obtain ⟨p, hp⟩ : ∃ p : PenLane, p = { startedLane x e (q ++ r) (s.penLane k) with capRemaining := e.amount } := ⟨_, rfl⟩
  obtain ⟨u, hu⟩ : ∃ u : State, u = { s with pen := { s.pen with lanes := put s.pen.lanes k p } } := ⟨_, rfl⟩
  obtain ⟨m, hm, heval⟩ := powerServing_evaluated k (some .cap) e.duty x u
  have begun : beginService k x s = penNotice .serve 3 k x e.serial.toNat (e.duty * 256 + e.amount)
      (powerServing k (some .cap) e.duty x u) := by
    unfold beginService
    simp only [hchoose, hkind]
    rw [onPenLane_started hqueue hnot, onPenLane_eq (withPenLane_penLane k _ s), withPenLane_withPenLane, hu, hp]
    rfl
  obtain ⟨v, hv⟩ : ∃ v, v = powerServing k (some .cap) e.duty x u := ⟨_, rfl⟩
  rw [← hv] at hm begun
  have lane : v.powerLane k = m := by
    rw [hm]
    exact pick_put_same _ _ _
  have pens : v.penLane k = p := by
    rw [hm, hu]
    exact pick_put_same _ _ _
  have racer : (v.penLane k).racer = (s.penLane k).racer := by
    rw [pens, hp]
    rfl
  have label : v.pen.label = s.pen.label := by rw [hm, hu]
  refine ⟨v, ?_, ?_, ?_⟩
  · rw [lane, hm, hu, hp]
  · rw [lane]
    refine LaneEvaluated.congr (s := u) ?_ ?_ ?_ ?_ ?_
    · rw [hu] at heval ⊢
      exact heval
    · rw [hu]
    · rw [hu]
    · rw [hu]
    · rw [hu]; rfl
  · rw [begun]
    unfold penNotice
    rw [racer, label]

end

/-- A crossing on a lane that serves CAP (R153): a completion counts one of its laps, and the last ends the service. -/
theorem penAcceptedLine_cap {s : State} {k : Lane} {x : Stamp} {completion finishing : Bool} {view : RaceView} {e : PenEntry}
    (he : (s.penLane k).serving = some e) (hkind : e.kind = .cap) :
    penAcceptedLine k x completion finishing view s = if completion then advanceCap k x s else s := by
  obtain ⟨hhalt, hcap⟩ := serving_some he
  have halt : servingHalt s k = false := by rw [hhalt, hkind]; rfl
  have cap : servingCap s k = true := by rw [hcap, hkind]; rfl
  unfold penAcceptedLine
  simp [pushCheck_not_halt halt, cap, he]

/-- A crossing on a lane that serves HALT is checked for PUSH and does nothing else at the penalty unit. -/
theorem penAcceptedLine_halt {s : State} {k : Lane} {x : Stamp} {completion finishing : Bool} {view : RaceView}
    {e : PenEntry} (he : (s.penLane k).serving = some e) (hkind : e.kind = .halt) :
    penAcceptedLine k x completion finishing view s = pushCheck k x view s := by
  have kept : ((pushCheck k x view s).penLane k).serving = some e := by
    unfold pushCheck
    dsimp only
    split
    · rw [trigger_serving, State.onPenLane_penLane_same]
      exact he
    · exact he
  have cap : servingCap (pushCheck k x view s) k = false := by rw [(serving_some kept).2, hkind]; rfl
  unfold penAcceptedLine
  simp [cap, he]

theorem pushCheck_halt {s : State} {k : Lane} {y : Stamp} {view : RaceView} {e : PenEntry}
    (he : (s.penLane k).serving = some e) (hkind : e.kind = .halt) :
    let l := s.penLane k
    let due := l.pushMark = false ∧ view.state.frozen = false ∧ isLater l.serveStamp y = true ∧
      100 * s.pen.coastGrace.getD 0 < interval l.serveStamp y
    (¬ due → pushCheck k y view s = s) ∧
    (due → pushCheck k y view s = trigger trigPush k y (withPenLane k { l with pushMark := true } s)) := by
  intro l due
  have halt : servingHalt s k = true := by rw [(serving_some he).1, hkind]; rfl
  have test : (servingHalt s k && !(s.penLane k).pushMark && !view.state.frozen && isLater (s.penLane k).serveStamp y &&
      decide (100 * s.pen.coastGrace.getD 0 < interval (s.penLane k).serveStamp y)) = true ↔ due := by
    simp only [halt, Bool.and_eq_true, Bool.not_eq_true', decide_eq_true_eq, true_and, and_assoc]
    rfl
  exact ⟨fun hno => if_neg fun h => hno (test.mp h), fun hyes => if_pos (test.mpr hyes)⟩

/-- Settles O57 (`beginService_halt`, `beginService_cap`, `endService_ended`, `pushCheck_halt`). -/
theorem serviceAtTheLine : Obligations.ServiceAtTheLine := by
  intro s k x completion finishing view l taken eligible notice
  refine ⟨fun hfree hnone => ?_, fun e q r hfree hrun hstaged hon hqueue => ?_, fun e he hkind => ?_,
    fun e he hkind => ?_⟩
  · have free : taken = _ := penAcceptedLine_free hfree
    rw [free]
    obtain hfin | hnone := hnone
    · rw [hfin]; rfl
    · rw [beginService_none (chooseEntry_none hnone)]
      exact ite_self _
  · have free : taken = beginService k x s := by
      rw [show taken = _ from penAcceptedLine_free hfree, if_pos (by rw [hon, hstaged, show (s.penLane k).finished = false from hrun]; rfl)]
    have absent : ∀ kind, eligible kind e → (∀ d ∈ q, ¬ eligible kind d) → e ∉ q := fun kind he hq hin => hq e hin he
    refine ⟨fun he hq => ?_, fun he hq hno => ?_⟩
    · rw [free, beginService_halt hqueue (absent _ he hq) (by rw [hqueue]; exact chooseEntry_halt he hq) he.1]
      rfl
    · obtain ⟨v, hv, heval, hbegun⟩ := beginService_cap (k := k) hqueue (absent _ he hq)
        (by rw [hqueue]; exact chooseEntry_cap he hq (hqueue ▸ hno)) he.1
      exact ⟨v, hv, heval, free.trans hbegun⟩
  · intro counted
    have cap : taken = _ := penAcceptedLine_cap he hkind
    have lane : counted.penLane k = { l with capRemaining := l.capRemaining - 1 } := pick_put_same _ _ _
    have advanced : advanceCap k x s = if l.capRemaining - 1 = 0 then endService k x 1 0 counted else counted := by
      change (if (counted.penLane k).capRemaining = 0 then endService k x 1 0 counted else counted) = _
      rw [lane]
    refine ⟨fun hc => ?_, fun hc hmore => ?_, fun hc hlast => ?_⟩
    · rw [cap, hc]; rfl
    · rw [cap, hc, if_pos rfl, advanced, if_neg (by omega)]
    · rw [cap, hc, if_pos rfl, advanced, if_pos (by omega)]
      exact endService_ended (e := e) (by rw [lane]; exact he) x 1 0
  · have halt : taken = _ := penAcceptedLine_halt he hkind
    obtain ⟨hno, hyes⟩ := pushCheck_halt (y := x) (view := view) he hkind
    exact ⟨halt, fun h => halt.trans (hno h), fun h => halt.trans (hyes h)⟩

end Sys2Proof.Machine

/-! PROOFS. A lane's finish at the penalty unit (R148, R149, R156, R157). Notices are written by record memory and the host
port alone, whatever the other blocks hold. -/

namespace Sys2Proof.Machine

open Config

/-! ### Record memory and the host port work by themselves -/

/-- The blocks of v around the record memory and the host port of s. -/
def graft (v s : State) : State := { v with mem := s.mem, port := s.port }

theorem graft_of_keeps {s t : State} (h : t = { s with mem := t.mem, port := t.port }) : t = graft s t := h

section
variable (v : State)

theorem landTurn_graft (s : State) (h : HostTurn) : landTurn (graft v s) h = graft v (landTurn s h) := by
  unfold landTurn transfer
  cases h.data <;> rfl

theorem landReady_graft (ts : List HostTurn) (s : State) : landReady ts (graft v s) = graft v (landReady ts s) := by
  induction ts generalizing s with
  | nil => rfl
  | cons h rest ih =>
    unfold landReady
    split
    · rw [landTurn_graft, ih]
    · rfl

theorem giveWay_graft (s : State) : giveWay (graft v s) = graft v (giveWay s) := by
  have turns : (graft v s).port.turns = s.port.turns := rfl
  unfold giveWay
  rw [turns]
  cases s.port.turns with
  | nil => rfl
  | cons t ts => exact landReady_graft v _ s

theorem deviceRead_graft (a : Nat) (s : State) :
    deviceRead a (graft v s) = (graft v (deviceRead a s).1, (deviceRead a s).2) := by
  unfold deviceRead
  rw [giveWay_graft]
  rfl

theorem recheck_graft (a : Nat) (m e : Byte) (s : State) :
    recheck a m e (graft v s) = (graft v (recheck a m e s).1, (recheck a m e s).2) := by
  unfold recheck
  rw [deviceRead_graft]

theorem writeEach_graft (bs : List Byte) (a : Nat) (s : State) : writeEach a bs (graft v s) = graft v (writeEach a bs s) := by
  induction bs generalizing a s with
  | nil => rfl
  | cons b bs ih =>
    unfold writeEach
    rw [giveWay_graft]
    exact ih (a + 1) (writeBytes a [b] (giveWay s))

theorem deviceWrite_graft (a : Nat) (bs : List Byte) (s : State) : deviceWrite a bs (graft v s) = graft v (deviceWrite a bs s) := by
  have turns : (graft v s).port.turns = s.port.turns := rfl
  unfold deviceWrite
  rw [turns]
  cases s.port.turns with
  | nil => rfl
  | cons t ts => exact writeEach_graft v bs a s

theorem onPort_graft (f : HostPort → HostPort) (s : State) : (graft v s).onPort f = graft v (s.onPort f) := rfl

theorem noticeEntryEmpty_graft (s : State) :
    noticeEntryEmpty (graft v s) = (graft v (noticeEntryEmpty s).1, (noticeEntryEmpty s).2) := recheck_graft v _ _ _ s

theorem acceptNotice_graft (n : Notice) (s : State) :
    acceptNotice n (graft v s) = (graft v (acceptNotice n s).1, (acceptNotice n s).2) := rfl

theorem holdNotice_graft (h : HeldNotice) (s : State) : holdNotice h (graft v s) = graft v (holdNotice h s) := rfl

theorem writeNotice_graft (h : HeldNotice) (s : State) :
    writeNotice h (graft v s) = (graft v (writeNotice h s).1, (writeNotice h s).2) := by
  have port : (graft v s).port = s.port := rfl
  unfold writeNotice
  simp only [port, deviceWrite_graft, recheck_graft]
  split
  · rfl
  · rfl

theorem retryHeld_graft (hs : List HeldNotice) (s : State) : retryHeld hs (graft v s) = graft v (retryHeld hs s) := by
  induction hs generalizing s with
  | nil => rfl
  | cons h rest ih =>
    unfold retryHeld
    rw [noticeEntryEmpty_graft]
    dsimp only
    split
    · rw [writeNotice_graft]
      dsimp only
      split
      · rw [onPort_graft, ih]
      · rfl
    · rfl

theorem retryNotices_graft (s : State) : retryNotices (graft v s) = graft v (retryNotices s) := retryHeld_graft v _ s

/-- A notice arrives alike whatever the other blocks hold. -/
theorem deliver_graft (n : Notice) (s : State) : deliver n (graft v s) = graft v (deliver n s) := by
  unfold deliver
  rw [retryNotices_graft]
  dsimp only
  have queue : (graft v (retryNotices s)).port.noticeQueue = (retryNotices s).port.noticeQueue := rfl
  rw [queue]
  cases (retryNotices s).port.noticeQueue with
  | nil =>
    dsimp only
    rw [acceptNotice_graft]
    dsimp only
    rw [noticeEntryEmpty_graft]
    dsimp only
    split
    · rw [writeNotice_graft]
      dsimp only
      split
      · rfl
      · rfl
    · rfl
  | cons h rest =>
    dsimp only
    split
    · rfl
    · rfl

end

/-- Notices that arrive one after the other arrive alike whatever the other blocks hold. -/
theorem foldl_deliver_graft {α : Type} (f : α → Notice) (v : State) (es : List α) (s : State) :
    es.foldl (fun u e => deliver (f e) u) (graft v s) = graft v (es.foldl (fun u e => deliver (f e) u) s) := by
  induction es generalizing s with
  | nil => rfl
  | cons e es ih => rw [List.foldl_cons, List.foldl_cons, deliver_graft, ih]

/-! ### Conversions (R149, R156) -/

/-- What a lane owes after the conversion of an entry of a row: laps deducted, or time added. -/
def PenLane.paid (row : PenaltyRow) (l : PenLane) : PenLane :=
  match row.fbResponse with
  | .laps => { l with deducted := min 65535 (l.deducted + row.fbAmount) }
  | .time => { l with timePenalty := min 0xFFFFFFFF (l.timePenalty + row.fbAmount) }
  | _ => l

/-- The notice of a conversion (R149). -/
def convertNotice (rows : Vector PenaltyRow 8) (k : Lane) (racer label : Byte) (y : Stamp) (e : PenEntry) : Notice :=
  laneNotice .convert e.kind.code k racer label y e.serial.toNat (pick rows e.trigger).fbAmount

/-- A conversion: its notice, what the lane pays, and for LAPS the re-sort. -/
theorem convert_eq {rows : Vector PenaltyRow 8} {s : State} (h : s.pen.table = some rows) (k : Lane) (e : PenEntry) (x : Stamp) :
    let v := withPenLane k ((s.penLane k).paid (pick rows e.trigger))
      (deliver (convertNotice rows k (s.penLane k).racer s.pen.label x e) s)
    convert k e x s = if (pick rows e.trigger).fbResponse = .laps then resort v else v := by
  obtain ⟨d, hd⟩ : ∃ d, d = deliver (convertNotice rows k (s.penLane k).racer s.pen.label x e) s := ⟨_, rfl⟩
  have lane : d.penLane k = s.penLane k := by rw [hd]; exact penLane_of_pen (by simp) k
  have same : withPenLane k (s.penLane k) d = d := by
    rw [← lane]
    change { d with pen := { d.pen with lanes := put d.pen.lanes k (pick d.pen.lanes k) } } = d
    rw [put_pick]
  have converted : convert k e x s = actAtOnce (pick rows e.trigger).fbResponse k (pick rows e.trigger).fbAmount d := by
    unfold convert
    rw [rowOf_some h, hd]
    rfl
  rw [converted, ← hd]
  unfold actAtOnce PenLane.paid
  cases (pick rows e.trigger).fbResponse with
  | laps => exact congrArg resort (onPenLane_eq lane _)
  | time => exact onPenLane_eq lane _
  | none => exact same.symm
  | warn => exact same.symm
  | halt => exact same.symm
  | cap => exact same.symm

theorem PenLane.paid_keeps (row : PenaltyRow) (l : PenLane) : (l.paid row).queue = l.queue ∧ (l.paid row).racer = l.racer ∧
    ∀ q, { l.paid row with queue := q } = PenLane.paid row { l with queue := q } := by
  unfold PenLane.paid
  cases row.fbResponse <;> exact ⟨rfl, rfl, fun _ => rfl⟩

/-- A lane with its queue emptied and what it owed for it paid. -/
def PenLane.settled (rows : Vector PenaltyRow 8) (q : List PenEntry) (l : PenLane) : PenLane :=
  q.foldl (fun m e => m.paid (pick rows e.trigger)) { l with queue := [] }

theorem resort_stand_only (s : State) : resort s = { s with stand := (resort s).stand } := rfl

/-- One pending entry converted, and the queue left (R156): what the lane owes, its notice, and the re-sort of a LAPS. -/
theorem convert_step {rows : Vector PenaltyRow 8} (k : Lane) (x : Stamp) (e : PenEntry) (rest : List PenEntry) {s w : State}
    (ht : s.pen.table = some rows) (hw : w = withPenLane k { s.penLane k with queue := rest } s) :
    let l := s.penLane k
    let told := deliver (convertNotice rows k l.racer s.pen.label x e) s
    let u := convert k e x w
    u = { s with mem := told.mem, port := told.port, pen := u.pen, stand := u.stand } ∧
    u.pen = { s.pen with lanes := put s.pen.lanes k (PenLane.paid (pick rows e.trigger) { l with queue := rest }) } ∧
    ((pick rows e.trigger).fbResponse ≠ .laps → u.stand = s.stand) ∧
    ((pick rows e.trigger).fbResponse = .laps → u.stand = (resort { u with stand := s.stand }).stand) := by
  intro l told
  have wlane : w.penLane k = { l with queue := rest } := by rw [hw]; exact withPenLane_penLane k _ s
  have wtable : w.pen.table = some rows := by rw [hw]; exact ht
  have wlabel : w.pen.label = s.pen.label := by rw [hw]; rfl
  have arrives : deliver (convertNotice rows k l.racer s.pen.label x e) w = graft w told := by
    rw [← deliver_graft, hw]
    rfl
  have converted := convert_eq wtable k e x
  dsimp only at converted
  rw [wlane, wlabel, arrives] at converted
  obtain ⟨v, hv⟩ : ∃ v, v = withPenLane k (PenLane.paid (pick rows e.trigger) { l with queue := rest }) (graft w told) :=
    ⟨_, rfl⟩
  have parts : v = { s with
      mem := told.mem, port := told.port
      pen := { s.pen with lanes := put s.pen.lanes k (PenLane.paid (pick rows e.trigger) { l with queue := rest }) } } := by
    rw [hv, hw]
    simp only [withPenLane, graft, put_put]
  rw [← hv] at converted
  rw [converted]
  refine ⟨?_, ?_, fun hr => ?_, fun hr => ?_⟩
  · split
    · rw [resort_stand_only, parts]
    · rw [parts]
  · split
    · rw [resort_stand_only, parts]
    · rw [parts]
  · rw [if_neg hr, parts]
  · have stand : v.stand = s.stand := by rw [parts]
    rw [if_pos hr, ← stand]
    rfl

/-- Pending entries converted one after the other: what the lane owes in all, and the notices that say so (R156). -/
theorem convertAll_owed {rows : Vector PenaltyRow 8} (k : Lane) (x : Stamp) (q : List PenEntry) (s : State)
    (ht : s.pen.table = some rows) :
    let l := s.penLane k
    let t := convertAll k x q (withPenLane k { l with queue := q } s)
    let told := q.foldl (fun v e => deliver (convertNotice rows k l.racer s.pen.label x e) v) s
    t = { s with mem := told.mem, port := told.port, pen := t.pen, stand := t.stand } ∧
    t.pen = { s.pen with lanes := put s.pen.lanes k (l.settled rows q) } ∧
    ((∀ e ∈ q, (pick rows e.trigger).fbResponse ≠ .laps) → t.stand = s.stand) := by
  induction q generalizing s with
  | nil => exact ⟨rfl, rfl, fun _ => rfl⟩
  | cons e rest ih =>
    intro l t told
    obtain ⟨w, hw⟩ : ∃ w, w = (withPenLane k { l with queue := e :: rest } s).onPenLane k fun l => { l with queue := rest } :=
      ⟨_, rfl⟩
    have wlane : w = withPenLane k { l with queue := rest } s := by
      rw [hw, onPenLane_eq (withPenLane_penLane k _ s), withPenLane_withPenLane]
    obtain ⟨u, hu⟩ : ∃ u, u = convert k e x w := ⟨_, rfl⟩
    have step := convert_step (w := w) k x e rest ht wlane
    dsimp only at step
    rw [← hu] at step
    obtain ⟨hparts, hpen, hstand, -⟩ := step
    have ulane : u.penLane k = PenLane.paid (pick rows e.trigger) { l with queue := rest } := by
      unfold State.penLane
      rw [hpen]
      exact pick_put_same _ _ _
    obtain ⟨pqueue, pracer, prequeue⟩ := PenLane.paid_keeps (pick rows e.trigger) { l with queue := rest }
    have usame : withPenLane k { u.penLane k with queue := rest } u = u := by
      rw [ulane, prequeue, ← ulane]
      change { u with pen := { u.pen with lanes := put u.pen.lanes k (pick u.pen.lanes k) } } = u
      rw [put_pick]
    have uracer : (u.penLane k).racer = l.racer := by rw [ulane, pracer]
    have ulabel : u.pen.label = s.pen.label := by rw [hpen]
    obtain ⟨d, hd⟩ : ∃ d, d = deliver (convertNotice rows k l.racer s.pen.label x e) s := ⟨_, rfl⟩
    rw [← hd] at hparts
    have ugraft : u = graft u d := by rw [hparts]; rfl
    have after := ih u (by rw [hpen]; exact ht)
    dsimp only at after
    rw [usame, uracer, ulabel] at after
    have folded : rest.foldl (fun v e => deliver (convertNotice rows k l.racer s.pen.label x e) v) u = graft u told := by
      rw [ugraft, foldl_deliver_graft, hd]
      rfl
    rw [folded] at after
    have taken : t = convertAll k x rest u := by rw [hu, hw]; rfl
    obtain ⟨aparts, apen, astand⟩ := after
    have settled : (u.penLane k).settled rows rest = l.settled rows (e :: rest) := by
      unfold PenLane.settled
      rw [ulane, prequeue]
      rfl
    refine ⟨?_, ?_, fun hall => ?_⟩
    · rw [taken, aparts, hparts]
      rfl
    · rw [taken, apen, settled, hpen, put_put]
    · rw [taken, astand fun d hd => hall d (List.mem_cons_of_mem e hd), hstand (hall e List.mem_cons_self)]

/-- What the entries of a queue whose rows fall back to a response come to. -/
def fallbackTotal (rows : Vector PenaltyRow 8) (r : Response) (q : List PenEntry) : Nat :=
  ((q.filter fun e => decide ((pick rows e.trigger).fbResponse = r)).map fun e => (pick rows e.trigger).fbAmount).sum

theorem fallbackTotal_cons (rows : Vector PenaltyRow 8) (r : Response) (e : PenEntry) (q : List PenEntry) :
    fallbackTotal rows r (e :: q) =
      (if (pick rows e.trigger).fbResponse = r then (pick rows e.trigger).fbAmount else 0) + fallbackTotal rows r q := by
  unfold fallbackTotal
  rw [List.filter_cons]
  split <;> simp_all

/-- A lane settled owes the totals of its fallbacks, each held at its largest value. -/
theorem PenLane.settled_eq (rows : Vector PenaltyRow 8) (q : List PenEntry) (l : PenLane) (hd : l.deducted ≤ 65535)
    (ht : l.timePenalty ≤ 0xFFFFFFFF) :
    l.settled rows q = { l with
      queue := [], deducted := min 65535 (l.deducted + fallbackTotal rows .laps q)
      timePenalty := min 0xFFFFFFFF (l.timePenalty + fallbackTotal rows .time q) } := by
  unfold PenLane.settled
  induction q generalizing l with
  | nil =>
    simp only [List.foldl_nil, fallbackTotal, List.filter_nil, List.map_nil, List.sum_nil, Nat.add_zero, Nat.min_eq_right hd,
      Nat.min_eq_right ht]
  | cons e q ih =>
    obtain ⟨-, -, prequeue⟩ := PenLane.paid_keeps (pick rows e.trigger) l
    have bounds : (l.paid (pick rows e.trigger)).deducted ≤ 65535 ∧ (l.paid (pick rows e.trigger)).timePenalty ≤ 0xFFFFFFFF := by
      unfold PenLane.paid
      cases (pick rows e.trigger).fbResponse <;> dsimp only <;> omega
    rw [List.foldl_cons, ← prequeue, ih _ bounds.1 bounds.2, fallbackTotal_cons, fallbackTotal_cons]
    unfold PenLane.paid
    cases (pick rows e.trigger).fbResponse <;> simp <;> omega

/-! ### The finish and the abort of a lane (R156, R157) -/

theorem penFinish_finished {s : State} {k : Lane} {x : Stamp} (h : (s.penLane k).finished = true) : penFinish k x s = s :=
  if_pos h

theorem endService_none {s : State} {k : Lane} (h : (s.penLane k).serving = none) (x : Stamp) (sub n : Nat) :
    endService k x sub n s = s := by
  simp only [endService, h]

/-- The finish of a lane that serves: the service ends as served, and then the queue converts. -/
theorem penFinish_serving {s : State} {k : Lane} {x : Stamp} {e : PenEntry} (hrun : (s.penLane k).finished = false)
    (he : (s.penLane k).serving = some e) :
    ∃ v, ServiceEnded k x 1 (servingRemaining s k) (withPenLane k { s.penLane k with finished := true } s) v ∧
      penFinish k x s = convertAll k x (s.penLane k).queue v := by
  obtain ⟨o, ho⟩ : ∃ o, o = withPenLane k { s.penLane k with finished := true } s := ⟨_, rfl⟩
  have lane : o.penLane k = { s.penLane k with finished := true } := by rw [ho]; exact withPenLane_penLane k _ s
  have serving : (o.penLane k).serving = some e := by rw [lane]; exact he
  have ended := endService_ended serving x 1 (servingRemaining s k)
  obtain ⟨v, hv⟩ : ∃ v, v = endService k x 1 (servingRemaining s k) o := ⟨_, rfl⟩
  rw [← hv] at ended
  have queue : (v.penLane k).queue = (s.penLane k).queue := by
    obtain ⟨d, w, -, hw, -, hdeliver⟩ := ended
    have vpen : v.pen = w.pen := by rw [hdeliver]; simp
    rw [penLane_of_pen vpen, hw]
    exact (congrArg PenLane.queue (pick_put_same _ _ _)).trans (by rw [lane])
  have remaining : servingRemaining o k = servingRemaining s k := by
    unfold servingRemaining
    rw [lane, ho]
    rfl
  refine ⟨v, ho ▸ ended, ?_⟩
  have out : (s.onPenLane k fun l => { l with finished := true }) = o := by rw [ho]; rfl
  unfold penFinish
  rw [if_neg (by simp [hrun])]
  dsimp only
  rw [out, remaining, ← hv, queue]

/-- The finish of a lane that serves nothing: its queue converts. -/
theorem penFinish_free {s : State} {k : Lane} {x : Stamp} (hrun : (s.penLane k).finished = false)
    (he : (s.penLane k).serving = none) : penFinish k x s =
      convertAll k x (s.penLane k).queue (withPenLane k { s.penLane k with finished := true } s) := by
  obtain ⟨o, ho⟩ : ∃ o, o = withPenLane k { s.penLane k with finished := true } s := ⟨_, rfl⟩
  have lane : o.penLane k = { s.penLane k with finished := true } := by rw [ho]; exact withPenLane_penLane k _ s
  have out : (s.onPenLane k fun l => { l with finished := true }) = o := by rw [ho]; rfl
  unfold penFinish
  rw [if_neg (by simp [hrun]), ← ho]
  dsimp only
  rw [out, endService_none (by rw [lane]; exact he), lane]

/-- A finish due to ABORT HEAT empties the lane, and says nothing (R157). -/
theorem penAbortFinish_empties (k : Lane) (x : Stamp) (s : State) :
    let a := penAbortFinish k x s
    a.mem = s.mem ∧ a.port = s.port ∧ a.stand = s.stand ∧
    a.pen = { s.pen with lanes := put s.pen.lanes k { s.penLane k with finished := true, serving := none, queue := [] } } := by
  intro a
  obtain ⟨o, ho⟩ : ∃ o, o = withPenLane k { s.penLane k with finished := true } s := ⟨_, rfl⟩
  have lane : o.penLane k = { s.penLane k with finished := true } := by rw [ho]; exact withPenLane_penLane k _ s
  have aborted : a = (dropServing k x o).onPenLane k fun l => { l with queue := [] } := by rw [ho]; rfl
  have opens : o.mem = s.mem ∧ o.port = s.port ∧ o.stand = s.stand := by rw [ho]; exact ⟨rfl, rfl, rfl⟩
  obtain ⟨omem, oport, ostand⟩ := opens
  have dropped : ∃ d : State, dropServing k x o = d ∧ d.mem = o.mem ∧ d.port = o.port ∧ d.stand = o.stand ∧
      d.pen = { s.pen with lanes := put s.pen.lanes k { s.penLane k with finished := true, serving := none } } := by
    cases he : (s.penLane k).serving with
    | none =>
      refine ⟨o, ?_, rfl, rfl, rfl, ?_⟩
      · unfold dropServing
        rw [lane]
        simp only [he]
      · rw [ho, ← he]
        rfl
    | some e =>
      obtain ⟨m, hdrop, -⟩ := dropServing_eq (s := o) (k := k) (e := e) (by rw [lane]; exact he) x
      refine ⟨_, hdrop, rfl, rfl, rfl, ?_⟩
      rw [lane, ho]
      simp only [withPenLane, put_put]
  obtain ⟨d, hd, dmem, dport, dstand, dpen⟩ := dropped
  rw [aborted, hd]
  refine ⟨dmem.trans omem, dport.trans oport, dstand.trans ostand, ?_⟩
  change { d.pen with lanes := put d.pen.lanes k { pick d.pen.lanes k with queue := [] } } = _
  rw [dpen]
  simp only [put_put, pick_put_same]

/-- Settles O58 (`penFinish_serving`, `convertAll_owed`, `PenLane.settled_eq`, `penAbortFinish_empties`). -/
theorem finishEndsServiceAndConverts : Obligations.FinishEndsServiceAndConverts := by
  intro s k x rows ht hqueues l onLane out fallback notice total t
  obtain ⟨-, -, -, hd, hp⟩ := hqueues.2.2.2 k
  refine ⟨penFinish_finished, fun e => penFinish_serving, fun hrun he => ?_, fun e hfull hfb => ?_, penAbortFinish_empties k x s⟩
  · intro told
    have free : t = convertAll k x l.queue (withPenLane k { l with finished := true } s) := penFinish_free hrun he
    obtain ⟨o, ho⟩ : ∃ o, o = withPenLane k { l with finished := true } s := ⟨_, rfl⟩
    have lane : o.penLane k = { l with finished := true } := by rw [ho]; exact withPenLane_penLane k _ s
    have opens : { o.penLane k with queue := l.queue } = { l with finished := true } := by rw [lane]
    have same : withPenLane k { o.penLane k with queue := l.queue } o = o := by
      rw [opens, ho, withPenLane_withPenLane]
    have ostand : o.stand = s.stand := by rw [ho]; rfl
    have table : o.pen.table = some rows := by rw [ho]; exact ht
    rw [← ho] at free
    have owed := convertAll_owed k x l.queue o table
    have racer : (o.penLane k).racer = l.racer := by rw [lane]
    have label : o.pen.label = s.pen.label := by rw [ho]; rfl
    dsimp only at owed
    rw [same, ← free, racer, label] at owed
    obtain ⟨hparts, hpen, hstand⟩ := owed
    have folded : l.queue.foldl (fun v e => deliver (convertNotice rows k l.racer s.pen.label x e) v) o = graft o told := by
      rw [← foldl_deliver_graft, ho]
      rfl
    have settled : (o.penLane k).settled rows l.queue = { l with
        finished := true, queue := [], deducted := min 65535 (l.deducted + total .laps)
        timePenalty := min 0xFFFFFFFF (l.timePenalty + total .time) } := by
      rw [lane]
      exact PenLane.settled_eq rows l.queue { l with finished := true } hd hp
    refine ⟨?_, ?_, fun hall => ?_, fun e hq hfb => ?_⟩
    · rw [hparts, folded, ho]
      rfl
    · rw [hpen, settled, ho]
      simp only [withPenLane, put_put]
    · rw [hstand fun d hd => by rw [show (pick rows d.trigger).fbResponse = _ from hall d hd]; decide, ostand]
    · have single : t = convert k e x (withPenLane k { o.penLane k with queue := [] } o) := by
        rw [free, hq]
        rfl
      obtain ⟨-, -, -, hresort⟩ := convert_step k x e [] table rfl
      have resorted := hresort hfb
      rw [← single, ostand] at resorted
      exact resorted
  · have converts : enqueuePenalty k e s = convert k e e.callStamp s := by
      refine if_pos ?_
      obtain hf | hl := hfull
      · rw [show (s.penLane k).finished = true from hf]; rfl
      · exact Bool.or_eq_true_iff.mpr (.inr (decide_eq_true hl))
    have owed := convert_eq ht k e e.callStamp
    dsimp only at owed
    rw [if_neg (by rw [hfb]; decide)] at owed
    intro v
    have paid : l.paid (pick rows e.trigger) = { l with timePenalty := min 0xFFFFFFFF (l.timePenalty + (fallback e).fbAmount) } := by
      unfold PenLane.paid
      rw [show (pick rows e.trigger).fbResponse = .time from hfb]
    have vpen : v.pen = s.pen := by simp [v]
    rw [converts, owed, show (s.penLane k).paid (pick rows e.trigger) = _ from paid]
    change { v with pen := { v.pen with lanes := put v.pen.lanes k _ } } = _
    rw [vpen]

end Sys2Proof.Machine

/-! PROOFS. The running order, the final order and the partial distance of a cut lane (R31, R173 to R178, R181). -/

namespace Sys2Proof.Machine

open Config

/-! ### Stamps within half the circle (R31) -/

theorem interval_inj {x y z : Stamp} (h : interval x y = interval x z) : y = z := by
  rw [interval_eq, interval_eq] at h
  have hx := x.isLt
  have hy := y.isLt
  have hz := z.isLt
  exact BitVec.eq_of_toNat_eq (by omega)

/-- Within half the circle from a stamp on, later is further from it. -/
theorem isLater_of_half {w x y : Stamp} (hx : interval w x < 2 ^ 39) (hy : interval w y < 2 ^ 39) :
    isLater x y = true ↔ interval w x < interval w y := by
  rw [isLater_iff]
  rw [interval_eq] at hx hy ⊢
  rw [interval_eq w x, interval_eq w y]
  have hw := w.isLt
  have h1 := x.isLt
  have h2 := y.isLt
  omega

/-! ### Sorting lanes by a rank -/

section
variable {β : Type} [LinearOrder β] {rank : Lane → β} {before : Lane → Lane → Bool}
  (hrank : ∀ a b, before a b = true ↔ rank a ≤ rank b)
include hrank

/-- Lanes sorted by a comparison that a rank gives stand in the order of their ranks. -/
theorem sortLanes_pairwise (ks : List Lane) : (sortLanes before ks).Pairwise fun a b => rank a ≤ rank b := by
  have total : Std.Total fun a b : Lane => before a b = true := ⟨fun a b => by
    simp only [hrank]
    exact le_total _ _⟩
  have trans : IsTrans Lane fun a b => before a b = true := ⟨fun a b c => by
    simp only [hrank]
    exact le_trans⟩
  exact (List.pairwise_insertionSort (fun a b => before a b = true) ks).imp fun h => (hrank _ _).mp h

end

theorem sortLanes_perm (before : Lane → Lane → Bool) (ks : List Lane) : (sortLanes before ks).Perm ks :=
  List.perm_insertionSort _ ks

/-- Lanes sorted by a rank, none twice, stand in its order one after the other. -/
theorem sortLanes_ranked {β : Type} [LinearOrder β] {rank : Lane → β} {before : Lane → Lane → Bool}
    (hrank : ∀ a b, before a b = true ↔ rank a ≤ rank b) {ks : List Lane} (hks : ks.Nodup) :
    (sortLanes before ks).Pairwise fun a b => rank a ≤ rank b ∧ a ≠ b :=
  (sortLanes_pairwise hrank ks).and ((sortLanes_perm before ks).nodup_iff.mpr hks)

/-! ### The running order (R173) -/

/-- How far a last line stamp lies from a stamp on; none lies beyond them all. -/
def lineDistance (from_ : Stamp) (y : Option Stamp) : Nat :=
  match y with
  | some y => interval from_ y
  | none => 2 ^ 39

/-- A lane's rank in the running order: by scored laps, the most first, by last line stamp, and by number. -/
def runningRank (from_ : Stamp) (s : State) (k : Lane) : ℕᵒᵈ ×ₗ ℕ ×ₗ Lane :=
  toLex (OrderDual.toDual (scoredLaps s k), toLex (lineDistance from_ (s.lap k).lastLine, k))

theorem runningRank_le (from_ : Stamp) (s : State) (a b : Lane) : runningRank from_ s a ≤ runningRank from_ s b ↔
    scoredLaps s b < scoredLaps s a ∨ scoredLaps s a = scoredLaps s b ∧
      (lineDistance from_ (s.lap a).lastLine < lineDistance from_ (s.lap b).lastLine ∨
        lineDistance from_ (s.lap a).lastLine = lineDistance from_ (s.lap b).lastLine ∧ a ≤ b) := by
  simp only [runningRank, Prod.Lex.toLex_le_toLex, OrderDual.toDual_lt_toDual, OrderDual.toDual_inj]

theorem aheadOf_rank {from_ : Stamp} {s : State}
    (hhalf : ∀ k y, (s.lap k).lastLine = some y → interval from_ y < 2 ^ 39) (a b : Lane) :
    aheadOf s a b = true ↔ runningRank from_ s a ≤ runningRank from_ s b := by
  have line : (match (s.lap a).lastLine, (s.lap b).lastLine with
      | some x, some y => if x = y then decide (a ≤ b) else isLater x y
      | some _, none => true
      | none, some _ => false
      | none, none => decide (a ≤ b)) = true ↔
      (lineDistance from_ (s.lap a).lastLine < lineDistance from_ (s.lap b).lastLine ∨
        lineDistance from_ (s.lap a).lastLine = lineDistance from_ (s.lap b).lastLine ∧ a ≤ b) := by
    cases hx : (s.lap a).lastLine with
    | none =>
      cases hy : (s.lap b).lastLine with
      | none => simp [lineDistance]
      | some y =>
        have := hhalf b y hy
        simp only [lineDistance, Bool.false_eq_true, false_iff]
        omega
    | some x =>
      have hxh := hhalf a x hx
      cases hy : (s.lap b).lastLine with
      | none => simpa [lineDistance] using .inl hxh
      | some y =>
        have hyh := hhalf b y hy
        simp only [lineDistance]
        by_cases hxy : x = y
        · simp [hxy]
        · have apart : interval from_ x ≠ interval from_ y := fun h => hxy (interval_inj h)
          simp only [if_neg hxy, isLater_of_half hxh hyh, apart, false_and, or_false]
  rw [runningRank_le, ← line]
  unfold aheadOf
  dsimp only
  by_cases hs : scoredLaps s a = scoredLaps s b
  · rw [if_pos hs]
    simp only [hs, lt_irrefl, false_or, true_and] <;> rfl
  · rw [if_neg hs]
    simp only [hs, false_and, or_false, decide_eq_true_eq]

/-- The second and third keys of the running order, for two lanes that are not the same. -/
theorem line_order {from_ : Stamp} {s : State} (hhalf : ∀ k y, (s.lap k).lastLine = some y → interval from_ y < 2 ^ 39)
    {a b : Lane} (hne : a ≠ b) (h : lineDistance from_ (s.lap a).lastLine < lineDistance from_ (s.lap b).lastLine ∨
      lineDistance from_ (s.lap a).lastLine = lineDistance from_ (s.lap b).lastLine ∧ a ≤ b) :
    match (s.lap a).lastLine, (s.lap b).lastLine with
      | some x, some y => interval from_ x < interval from_ y ∨ x = y ∧ a < b
      | some _, none => True
      | none, some _ => False
      | none, none => a < b := by
  have lower : a ≤ b → a < b := fun hle => lt_of_le_of_ne hle hne
  cases hx : (s.lap a).lastLine with
  | none =>
    cases hy : (s.lap b).lastLine with
    | none =>
      rw [hx, hy] at h
      exact lower (h.elim (fun h => absurd h (lt_irrefl _)) And.right)
    | some y =>
      have := hhalf b y hy
      rw [hx, hy] at h
      simp only [lineDistance] at h
      omega
  | some x =>
    cases hy : (s.lap b).lastLine with
    | none => trivial
    | some y =>
      rw [hx, hy] at h
      exact h.imp id fun ⟨hsame, hle⟩ => ⟨interval_inj hsame, lower hle⟩

/-- A re-sort stands the lanes of the running order in their ranks, and gives each its place. -/
theorem resort_orders (s : State) :
    let t := resort s
    t = { s with stand := { s.stand with order := t.stand.order, lanes := t.stand.lanes } } ∧
    t.stand.order = sortLanes (aheadOf s) s.stand.order ∧
    ∀ k, t.standLane k = { s.standLane k with
      position := if k ∈ t.stand.order then t.stand.order.idxOf k + 1 else 0 } :=
  ⟨rfl, rfl, fun k => pick_tabulate _ k⟩

/-! ### The final order (R178, R181) -/

/-- A lane's rank in the final order: by heat distance, the most first, by last crossing stamp, and by number. -/
def finalRank (from_ : Stamp) (s : State) (k : Lane) : ℕᵒᵈ ×ₗ ℕ ×ₗ Lane :=
  toLex (OrderDual.toDual (heatDistance s k), toLex (interval from_ (s.lap k).lastCrossing, k))

theorem finalRank_le (from_ : Stamp) (s : State) (a b : Lane) : finalRank from_ s a ≤ finalRank from_ s b ↔
    heatDistance s b < heatDistance s a ∨ heatDistance s a = heatDistance s b ∧
      (interval from_ (s.lap a).lastCrossing < interval from_ (s.lap b).lastCrossing ∨
        interval from_ (s.lap a).lastCrossing = interval from_ (s.lap b).lastCrossing ∧ a ≤ b) := by
  simp only [finalRank, Prod.Lex.toLex_le_toLex, OrderDual.toDual_lt_toDual, OrderDual.toDual_inj]

theorem finalAhead_rank {from_ : Stamp} {s : State} (hhalf : ∀ k, interval from_ (s.lap k).lastCrossing < 2 ^ 39) (a b : Lane) :
    finalAhead s a b = true ↔ finalRank from_ s a ≤ finalRank from_ s b := by
  rw [finalRank_le]
  unfold finalAhead
  dsimp only
  by_cases hs : heatDistance s a = heatDistance s b
  · rw [if_pos hs]
    simp only [hs, lt_irrefl, false_or, true_and]
    by_cases hxy : (s.lap a).lastCrossing = (s.lap b).lastCrossing
    · simp [hxy]
    · have apart : interval from_ (s.lap a).lastCrossing ≠ interval from_ (s.lap b).lastCrossing := fun h =>
        hxy (interval_inj h)
      simp only [if_neg hxy, isLater_of_half (hhalf a) (hhalf b), apart, false_and, or_false]
  · rw [if_neg hs]
    simp only [hs, false_and, or_false, decide_eq_true_eq]

/-! ### The partial distance of a cut lane (R175 to R177) -/

/-- A gate's position, and the next gate's or the line's. -/
def Geometry.next (g : Geometry) (gate : Nat) : Nat := if gate + 1 < g.gateCount then g.position (gate + 1) else 1000

theorem geometryGood_iff (g : Geometry) : geometryGood g = true ↔ g.gateCount ≤ 4 ∧
    (g.gateCount < 2 ∨ 1 ≤ g.pos1 ∧ g.pos1 ≤ 999) ∧ (g.gateCount < 3 ∨ (1 ≤ g.pos2 ∧ g.pos2 ≤ 999) ∧ g.pos1 < g.pos2) ∧
    (g.gateCount < 4 ∨ (1 ≤ g.pos3 ∧ g.pos3 ≤ 999) ∧ g.pos2 < g.pos3) := by
  simp [geometryGood, and_assoc]

/-- On a good track every gate lies before the next, and the last before the line. -/
theorem position_lt_next {g : Geometry} (hg : geometryGood g = true) {gate : Nat} (h : gate < g.gateCount) :
    g.position gate < g.next gate ∧ g.next gate ≤ 1000 := by
  rw [geometryGood_iff] at hg
  obtain ⟨hcount, h1, h2, h3⟩ := hg
  have next : ∀ p, g.position gate < p → p ≤ 1000 → g.position gate < 1000 → (gate + 1 < g.gateCount → g.position (gate + 1) = p) →
      g.position gate < g.next gate ∧ g.next gate ≤ 1000 := fun p hlt hle hline hp => by
    unfold Geometry.next
    split
    next hmore => rw [hp hmore]; exact ⟨hlt, hle⟩
    next => exact ⟨hline, le_rfl⟩
  by_cases hmore : gate + 1 < g.gateCount
  · obtain rfl | rfl | rfl : gate = 0 ∨ gate = 1 ∨ gate = 2 := by omega
    · exact next g.pos1 (show 0 < g.pos1 by omega) (by omega) (show 0 < 1000 by omega) fun _ => rfl
    · exact next g.pos2 (show g.pos1 < g.pos2 by omega) (by omega) (show g.pos1 < 1000 by omega) fun _ => rfl
    · exact next g.pos3 (show g.pos2 < g.pos3 by omega) (by omega) (show g.pos2 < 1000 by omega) fun _ => rfl
  · have inside : g.position gate < 1000 := by
      obtain rfl | rfl | rfl | rfl : gate = 0 ∨ gate = 1 ∨ gate = 2 ∨ gate = 3 := by omega
      · show 0 < 1000; omega
      · show g.pos1 < 1000; omega
      · show g.pos2 < 1000; omega
      · show g.pos3 < 1000; omega
    exact next 1000 inside le_rfl inside fun h => absurd h hmore

/-- Settles O59 (`sortLanes_ranked`, `aheadOf_rank`, `finalAhead_rank`, `position_lt_next`). -/
theorem runningOrderAndPartialDistance : Obligations.RunningOrderAndPartialDistance := by
  refine ⟨fun s from_ hnodup hhalf => ?_, fun s from_ hnodup hhalf => ?_, fun g c hg hlast => ?_⟩
  · obtain ⟨hstand, horder, hplaces⟩ := resort_orders s
    intro scored t
    refine ⟨hstand, ?_, ?_, hplaces⟩
    · rw [horder]
      exact sortLanes_perm _ _
    · rw [horder]
      refine (sortLanes_ranked (aheadOf_rank hhalf) hnodup).imp fun {a b} h => ?_
      obtain ⟨hrank, hne⟩ := h
      rw [runningRank_le] at hrank
      refine hrank.imp id fun ⟨heq, hline⟩ => ⟨heq, ?_⟩
      exact line_order hhalf hne hline
  · intro distance since
    refine ⟨sortLanes_perm _ _, ?_⟩
    refine (sortLanes_ranked (finalAhead_rank hhalf) hnodup).imp fun {a b} h => ?_
    obtain ⟨hrank, hne⟩ := h
    rw [finalRank_le] at hrank
    exact hrank.imp id fun ⟨heq, hcross⟩ => ⟨heq, hcross.imp id fun ⟨hsame, hle⟩ => ⟨hsame, lt_of_le_of_ne hle hne⟩⟩
  · intro here next ref run
    obtain ⟨hlt, hle⟩ := position_lt_next hg hlast
    change here < next at hlt
    change next ≤ 1000 at hle
    have ref_eq : ref = referenceTime c (next - here) := rfl
    have partial_eq : partialOf g c = here + creditedSector c (next - here) := rfl
    have credited : creditedSector c (next - here) = if c.before = .grid ∨ c.before = .hunt ∨ c.haltInSector = true ∨ ref = 0
        then 0 else min (next - here - 1) ((next - here) * run / ref) := rfl
    rw [partial_eq, credited]
    refine ⟨by omega, ?_, hle, fun hnone => ?_, fun hlap hhalt href => ?_⟩
    · split <;> omega
    · rw [if_pos hnone, Nat.add_zero]
    · rw [if_neg]
      simp [hlap, hhalt, href]

end Sys2Proof.Machine

/-! PROOFS. What the work on crossings hands on: the changes already waiting stay, the race view stays, and at most a RUNOUT,
a cut and a settle come of it (R46, R54). -/

namespace Sys2Proof.Machine

open Config

/-! ### The pending changes and the view -/

@[simp] theorem State.onLapLane_line (k : Lane) (f : LapLane → LapLane) (s : State) :
    (s.onLapLane k f).laps.changes = s.laps.changes ∧ (s.onLapLane k f).laps.view = s.laps.view := ⟨rfl, rfl⟩

@[simp] theorem dropServing_line (k : Lane) (x : Stamp) (s : State) :
    (dropServing k x s).laps.changes = s.laps.changes ∧ (dropServing k x s).laps.view = s.laps.view := by
  unfold dropServing
  split
  · exact ⟨rfl, rfl⟩
  next e _ => cases e.kind <;> simp [lapHaltEnds]

@[simp] theorem endService_line (k : Lane) (x : Stamp) (sub n : Nat) (s : State) :
    (endService k x sub n s).laps.changes = s.laps.changes ∧ (endService k x sub n s).laps.view = s.laps.view := by
  unfold endService
  split
  · exact ⟨rfl, rfl⟩
  · simp

@[simp] theorem beginService_line (k : Lane) (x : Stamp) (s : State) :
    (beginService k x s).laps.changes = s.laps.changes ∧ (beginService k x s).laps.view = s.laps.view := by
  unfold beginService
  split
  · exact ⟨rfl, rfl⟩
  next e _ => cases e.kind <;> simp [lapHaltBegins]

@[simp] theorem penAcceptedLine_line (k : Lane) (x : Stamp) (c f : Bool) (v : RaceView) (s : State) :
    (penAcceptedLine k x c f v s).laps.changes = s.laps.changes ∧ (penAcceptedLine k x c f v s).laps.view = s.laps.view := by
  generalize e : penAcceptedLine k x c f v s = t
  simp only [penAcceptedLine, advanceCap] at e
  (repeat' split at e) <;> subst e <;> simp

@[simp] theorem penFinish_line (k : Lane) (x : Stamp) (s : State) :
    (penFinish k x s).laps.changes = s.laps.changes ∧ (penFinish k x s).laps.view = s.laps.view := by
  generalize e : penFinish k x s = t
  simp only [penFinish] at e
  (repeat' split at e) <;> subst e <;> simp

@[simp] theorem penAbortFinish_line (k : Lane) (x : Stamp) (s : State) :
    (penAbortFinish k x s).laps.changes = s.laps.changes ∧ (penAbortFinish k x s).laps.view = s.laps.view := by
  simp [penAbortFinish]

@[simp] theorem writePage_line (k : Lane) (h : HeldLap) (s : State) :
    (writePage k h s).1.laps.changes = s.laps.changes ∧ (writePage k h s).1.laps.view = s.laps.view := by
  generalize e : (writePage k h s).1 = t
  simp only [writePage] at e
  split at e <;> subst e <;> simp

@[simp] theorem retryLaps_line (k : Lane) (hs : List HeldLap) (s : State) :
    (retryLaps k hs s).laps.changes = s.laps.changes ∧ (retryLaps k hs s).laps.view = s.laps.view := by
  induction hs generalizing s with
  | nil => exact ⟨rfl, rfl⟩
  | cons h rest ih =>
    unfold retryLaps
    dsimp only
    split
    · split
      · simp [ih]
      · simp
    · simp

@[simp] theorem retryBooks_line (s : State) :
    (retryBooks s).laps.changes = s.laps.changes ∧ (retryBooks s).laps.view = s.laps.view := by
  unfold retryBooks
  generalize allLanes = ks
  induction ks generalizing s with
  | nil => exact ⟨rfl, rfl⟩
  | cons k ks ih =>
    have first : (retryBook k s).laps.changes = s.laps.changes ∧ (retryBook k s).laps.view = s.laps.view :=
      retryLaps_line k _ s
    rw [List.foldl_cons]
    exact ⟨(ih _).1.trans first.1, (ih _).2.trans first.2⟩

@[simp] theorem arriveLap_line (k : Lane) (r : LapRecord) (s : State) :
    (arriveLap k r s).laps.changes = s.laps.changes ∧ (arriveLap k r s).laps.view = s.laps.view := by
  have accepted : ∀ u : State, (acceptLap k r u).1.laps.changes = u.laps.changes ∧ (acceptLap k r u).1.laps.view = u.laps.view :=
    fun _ => ⟨rfl, rfl⟩
  have held : ∀ (h : HeldLap) (u : State), (holdLap k h u).laps.changes = u.laps.changes ∧
      (holdLap k h u).laps.view = u.laps.view := fun _ _ => ⟨rfl, rfl⟩
  generalize e : arriveLap k r s = t
  simp only [arriveLap] at e
  (repeat' split at e) <;> subst e <;> simp [accepted, held]

@[simp] theorem handChange_line (c : ChangeKind) (x : Stamp) (s : State) :
    (handChange c x s).laps.changes = s.laps.changes ++ [{ kind := c, stamp := x }] ∧
    (handChange c x s).laps.view = s.laps.view := ⟨rfl, rfl⟩

/-! ### What may still be handed on -/

/-- The changes that the lap engine's work may yet hand on, in this state of the race: a RUNOUT with the cut of a deadline
already reached, from GREEN, and a settle. -/
def toHand (r : RaceControl) : Nat :=
  (if r.state = .idle then 0 else 1) +
    (if r.state = .green ∨ r.state.frozen = true ∧ r.calledFrom = .green then 2 else 0)

/-- From s to t the pending changes have only grown, the view stands, and with the changes that may yet be handed on there
are no more than before. -/
structure Handed (s t : State) : Prop where
  changes : s.laps.changes <+: t.laps.changes
  view : t.laps.view = s.laps.view
  count : t.laps.changes.length + toHand t.race ≤ s.laps.changes.length + toHand s.race

theorem Handed.refl (s : State) : Handed s s := ⟨List.prefix_rfl, rfl, le_rfl⟩

theorem toHand_congr {q r : RaceControl} (hs : r.state = q.state) (hc : r.calledFrom = q.calledFrom) : toHand r = toHand q := by
  simp only [toHand, hs, hc]

section
variable {s t u : State} (h : Handed s t)
include h

theorem Handed.trans (g : Handed t u) : Handed s u :=
  ⟨h.changes.trans g.changes, g.view.trans h.view, g.count.trans h.count⟩

/-- Work that hands nothing on and leaves the race state. -/
theorem Handed.same (hline : u.laps.changes = t.laps.changes ∧ u.laps.view = t.laps.view) (hs : u.race.state = t.race.state)
    (hc : u.race.calledFrom = t.race.calledFrom) : Handed s u :=
  h.trans ⟨by rw [hline.1], hline.2, by rw [hline.1, toHand_congr hs hc]⟩

theorem Handed.runoutNotice (c : Nat) (b : Option Lane) (x : Stamp) : Handed s (Machine.runoutNotice c b x t) :=
  h.same (by simp) (by simp) (by simp)

/-- RUNOUT entered from GREEN, with the cut of a deadline already reached (R114, R116). -/
theorem Handed.enterRunout (hg : t.race.state = .green) (x : Stamp) (c : Nat) (b : Option Lane) :
    Handed s (Machine.enterRunout x c b t) := by
  refine h.trans ?_
  have entered : ∀ u : State, u.laps.view = t.laps.view → u.race.state = .runout →
      (∃ cs, cs.length ≤ 2 ∧ u.laps.changes = t.laps.changes ++ cs) → Handed t u := by
    rintro u hview hstate ⟨cs, hlen, hcs⟩
    refine ⟨⟨cs, hcs.symm⟩, hview, ?_⟩
    have before : toHand t.race = 3 := by simp [toHand, hg]
    have after : toHand u.race = 1 := by simp [toHand, hstate, RaceState.frozen]
    rw [before, after, hcs, List.length_append]
    omega
  obtain ⟨w, hw⟩ : ∃ w, w = Machine.runoutNotice c b x (setLamps (lampsFor .runout) (powerRace .runout x
      (handChange .runout x (t.onRace fun r => { r with
        state := .runout, timeLimitWatch := false, runoutDeadline := some (heatClockAt x t + runoutLimit t),
        runoutWait := true })))) := ⟨_, rfl⟩
  have changes : w.laps.changes = t.laps.changes ++ [{ kind := .runout, stamp := x }] := by rw [hw]; simp [setLamps]
  have view : w.laps.view = t.laps.view := by rw [hw]; simp [setLamps]
  have state : w.race.state = .runout := by rw [hw]; simp [setLamps]
  have unfolded : Machine.enterRunout x c b t = if heatClockAt x t + runoutLimit t ≤ heatClock w then
      expireRunout (reachedAt x (heatClockAt x t + runoutLimit t) w) w else w := by rw [hw]; rfl
  rw [unfolded]
  split
  · exact entered _ view state ⟨_, le_rfl, (congrArg (· ++ _) changes).trans (List.append_assoc _ _ _)⟩
  · exact entered _ view state ⟨_, Nat.le_of_lt (Nat.lt_succ_self _), changes⟩

/-- The lap limit reached in a call from GREEN (R112). -/
theorem Handed.limitInCall (hf : t.race.state.frozen = true) (hc : t.race.calledFrom = .green) (x : Stamp) (k : Lane) :
    Handed s (Machine.limitInCall x k t) := by
  refine h.trans ⟨⟨[{ kind := .runout, stamp := x }], ?_⟩, ?_, ?_⟩
  · simp [Machine.limitInCall]
  · simp [Machine.limitInCall]
  · have before : toHand t.race = 3 := by
      cases hs : t.race.state <;> simp [toHand, hc, hs, RaceState.frozen] at hf ⊢
    have after : toHand (Machine.limitInCall x k t).race ≤ 1 := by
      cases hs : t.race.state <;> simp [toHand, Machine.limitInCall, hs, RaceState.frozen] at hf ⊢
    rw [before]
    simp [Machine.limitInCall] at after ⊢
    omega

/-- The heat settled (R118): one change more, and nothing that may come after it. -/
theorem Handed.settle (hi : t.race.state ≠ .idle) (x : Stamp) : Handed s (Machine.settle x t) := by
  obtain ⟨w, hw, hlaps⟩ : ∃ w : State, Machine.settle x t = powerIdle x (penIdle (handChange .settle x
      (w.onRace fun r => { raceIdle r with cardCursor := r.cardCursor + 1, snapshot := none }))) ∧ w.laps = t.laps := by
    refine ⟨_, rfl, ?_⟩
    simp only [timeIdle_keeps, heatNotice_keeps]
    split <;> simp
  have changes : (Machine.settle x t).laps.changes = t.laps.changes ++ [{ kind := .settle, stamp := x }] := by
    rw [hw]
    simp [hlaps]
  have view : (Machine.settle x t).laps.view = t.laps.view := by
    rw [hw]
    simp [hlaps]
  have state : (Machine.settle x t).race.state = .idle := by
    rw [hw]
    simp [raceIdle]
  refine h.trans ⟨⟨_, changes.symm⟩, view, ?_⟩
  have after : toHand (Machine.settle x t).race = 0 := by simp [toHand, state, RaceState.frozen]
  have before : 1 ≤ toHand t.race := by
    unfold toHand
    rw [if_neg hi]
    omega
  rw [after, changes, List.length_append, List.length_singleton]
  omega

/-! ### Crossings and cuts -/

theorem Handed.onLapLane (k : Lane) (f : LapLane → LapLane) : Handed s (t.onLapLane k f) := h.same ⟨rfl, rfl⟩ rfl rfl

theorem Handed.trigger (r : Fin 8) (k : Lane) (x : Stamp) : Handed s (Machine.trigger r k x t) :=
  h.same (by simp) (by simp) (by simp)

theorem Handed.pushCheck (k : Lane) (x : Stamp) (v : RaceView) : Handed s (Machine.pushCheck k x v t) :=
  h.same (by simp) (by simp) (by simp)

theorem Handed.penAcceptedLine (k : Lane) (x : Stamp) (c f : Bool) (v : RaceView) :
    Handed s (Machine.penAcceptedLine k x c f v t) := h.same (by simp) (by simp) (by simp)

theorem Handed.anomaly (n : Nat) (c : Crossing) (a b : Nat) : Handed s (Machine.anomaly n c a b t) :=
  h.same (by simp) (by simp) (by simp)

theorem Handed.raceFinish (k : Lane) (x : Stamp) : Handed s (Machine.raceFinish k x t) := by
  unfold Machine.raceFinish
  split
  · exact h
  next hrun =>
    have running : t.race.state ≠ .idle := fun hi => hrun (by simp [hi])
    have marked : Handed s (t.onRace fun r => { r with finishedSet := put r.finishedSet k true }) := h.same ⟨rfl, rfl⟩ rfl rfl
    dsimp only
    split
    · exact marked.settle running x
    · exact marked

theorem Handed.finishLane (k : Lane) (x : Stamp) (cut : Bool) : Handed s (Machine.finishLane k x cut t) := by
  unfold Machine.finishLane
  exact Handed.raceFinish (h.same (by simp) (by simp) (by simp)) k x

theorem Handed.cutLane (byRetire : Bool) (x : Stamp) (k : Lane) : Handed s (Machine.cutLane byRetire x t k) := by
  unfold Machine.cutLane
  split
  · exact Handed.finishLane (h.same (by simp) (by simp) (by simp)) k x true
  · exact h

theorem Handed.lapCompleted (k : Lane) (x : Stamp) (v : RaceView) : Handed s (Machine.lapCompleted k x v t).1 := by
  unfold Machine.lapCompleted
  split
  · exact h
  · split
    · exact h
    · split
      · dsimp only
        split
        next hg => exact h.enterRunout hg x 2 (some k)
        · split
          next hf =>
            simp only [Bool.and_eq_true, decide_eq_true_eq] at hf
            exact h.limitInCall hf.1 hf.2 x k
          · exact h
      · exact h

theorem Handed.completeLap (c : Crossing) (v : RaceView) : Handed s (Machine.completeLap c v t) := by
  obtain ⟨r, hr⟩ : ∃ r, r = Machine.lapCompleted c.lane c.stamp v
      (t.onLapLane c.lane fun l => { l with laps := raise 65535 l.laps 1 }) := ⟨_, rfl⟩
  have completed : Handed s r.1 := hr ▸ (h.onLapLane c.lane _).lapCompleted c.lane c.stamp v
  unfold Machine.completeLap
  dsimp only
  rw [← hr]
  split
  · refine Handed.finishLane (completed.same ?_ ?_ ?_) c.lane c.stamp false <;> simp
  · refine Handed.same completed ?_ ?_ ?_ <;> simp [startLap, markServices]

theorem Handed.acceptCrossing (c : Crossing) (how : Accepted) (mark : LapLane → LapLane) :
    Handed s (Machine.acceptCrossing c how mark t) := by
  unfold Machine.acceptCrossing
  dsimp only
  split
  · exact (h.onLapLane c.lane _).completeLap c _
  · exact h.onLapLane c.lane _

theorem Handed.jumpOnce (k : Lane) (x : Stamp) : Handed s (Machine.jumpOnce k x t) := by
  unfold Machine.jumpOnce
  split
  · exact h
  · exact (h.same (u := t.onRace fun r => { r with jumpMarks := put r.jumpMarks k true }) ⟨rfl, rfl⟩ rfl rfl).trigger _ k x

theorem Handed.jumpCrossing (k : Lane) (x : Stamp) : Handed s (Machine.jumpCrossing k x t) := by
  unfold Machine.jumpCrossing
  split
  · exact h
  · split
    · split
      · exact h.trigger _ k x
      · exact h.jumpOnce k x
    · exact h.jumpOnce k x

theorem Handed.applyVerdict (v : Verdict) (c : Crossing) : Handed s (Machine.applyVerdict v c t) := by
  unfold Machine.applyVerdict
  cases v with
  | ignored => exact h
  | stray => exact h.same (by simp) (by simp) (by simp)
  | discarded => exact h.onLapLane _ _
  | ghost => exact h.onLapLane _ _
  | repeated => exact h.onLapLane _ _
  | jump =>
    dsimp only
    unfold takeJump
    dsimp only
    split
    · exact (h.onLapLane c.lane _).jumpCrossing c.lane c.stamp
    · exact h.onLapLane c.lane _
  | gridStart => exact ((h.onLapLane c.lane _).penAcceptedLine c.lane c.stamp false false _).onLapLane c.lane _
  | gridFinish => exact ((h.onLapLane c.lane _).penAcceptedLine c.lane c.stamp false true _).finishLane c.lane c.stamp false
  | inOrder => exact h.acceptCrossing c _ _
  | cut k => exact ((h.acceptCrossing c _ _).trigger trigCut c.lane c.stamp).anomaly 1 c k _
  | miss k => exact h.acceptCrossing c _ _
  | fault => exact (h.onLapLane c.lane _).anomaly 2 c _ _
  | huntEnd => exact h.acceptCrossing c _ _

/-- A crossing taken (R55). -/
theorem Handed.takeCrossing (o : Orders) (c : Crossing) : Handed s (Machine.takeCrossing o c t) := by
  unfold Machine.takeCrossing
  dsimp only
  split
  · exact h.applyVerdict _ c
  · split
    · exact (h.pushCheck c.lane c.stamp _).applyVerdict _ c
    · exact (h.applyVerdict _ c).pushCheck c.lane c.stamp _

theorem Handed.onGates (f : GateFront → GateFront) : Handed s (t.onGates f) := h.same ⟨rfl, rfl⟩ rfl rfl

theorem Handed.cutLanes (byRetire : Bool) (x : Stamp) (ks : List Lane) :
    Handed s (ks.foldl (Machine.cutLane byRetire x) t) := by
  induction ks generalizing t with
  | nil => exact h
  | cons k ks ih => exact ih (h.cutLane byRetire x k)

end

/-! ### A change taken -/

/-- From s to t the pending changes have only grown, and with those that may yet be handed on there are no more. -/
structure Grown (s t : State) : Prop where
  changes : s.laps.changes <+: t.laps.changes
  count : t.laps.changes.length + toHand t.race ≤ s.laps.changes.length + toHand s.race

theorem Handed.grown {s t : State} (h : Handed s t) : Grown s t := ⟨h.changes, h.count⟩

theorem Grown.same {s t u : State} (h : Grown s t) (hc : u.laps.changes = t.laps.changes) (hr : u.race = t.race) : Grown s u :=
  ⟨by rw [hc]; exact h.changes, by rw [hc, hr]; exact h.count⟩

theorem lapIdle_changes (s : State) : (lapIdle s).laps.changes = s.laps.changes ∧ (lapIdle s).race = s.race := ⟨rfl, rfl⟩

theorem abortLane_grown {s t : State} (h : Grown s t) (x : Stamp) (k : Lane) : Grown s (abortLane x t k) := by
  unfold abortLane
  split
  · exact h.same (by simp) (by simp)
  · exact h

theorem abortLanes_grown {s t : State} (h : Grown s t) (x : Stamp) (ks : List Lane) : Grown s (ks.foldl (abortLane x) t) := by
  induction ks generalizing t with
  | nil => exact h
  | cons k ks ih => exact ih (abortLane_grown h x k)

theorem applyChange_grown (o : Orders) (ch : Change) (s : State) : Grown s (applyChange o ch s) := by
  have kept : Grown s s := (Handed.refl s).grown
  unfold applyChange
  dsimp only
  split
  · exact kept.same rfl rfl
  · exact kept.same rfl rfl
  · exact kept.same rfl rfl
  · exact kept.same rfl rfl
  · refine kept.same ?_ rfl
    unfold lapCalled State.onLaps
    dsimp only
    split <;> rfl
  · exact kept.same rfl rfl
  · exact kept.same rfl rfl
  · exact kept.same rfl rfl
  · exact ((Handed.refl s).cutLanes false ch.stamp _).grown
  · exact ((Handed.refl s).cutLane true ch.stamp _).grown
  · exact (abortLanes_grown kept ch.stamp allLanes).same (lapIdle_changes _).1 (lapIdle_changes _).2
  · exact kept.same (lapIdle_changes s).1 (lapIdle_changes s).2

theorem drain_handed (o : Orders) (x : Stamp) (q : List Crossing) (s : State) : Handed s (drain o x q s) := by
  induction q generalizing s with
  | nil => exact .refl s
  | cons c rest ih =>
    unfold drain
    split
    · exact (((Handed.refl s).onGates _).takeCrossing o c).trans (ih _)
    · exact .refl s

/-- The state in which the change at the head of the list acts. -/
def drained (o : Orders) (ch : Change) (s : State) : State :=
  match ch.kind with
  | .abort => discardEarlier ch.stamp s
  | _ => drain o ch.stamp s.gates.queue s

theorem drained_handed (o : Orders) (ch : Change) (s : State) : Handed s (drained o ch s) := by
  unfold drained
  split
  · exact (Handed.refl s).onGates _
  · exact drain_handed o ch.stamp _ s

theorem takeHeadChange_cons {o : Orders} {s : State} {ch : Change} {rest : List Change} (h : s.laps.changes = ch :: rest) :
    takeHeadChange o s = (applyChange o ch (drained o ch s)).onLaps fun l => { l with changes := l.changes.tail } := by
  unfold takeHeadChange drained
  rw [h] <;> rfl

/-- A change taken leaves one fewer of those that wait or may yet be handed on. -/
theorem takeHeadChange_fewer {o : Orders} {s : State} (h : s.laps.changes ≠ []) :
    (takeHeadChange o s).laps.changes.length + toHand (takeHeadChange o s).race < s.laps.changes.length + toHand s.race := by
  obtain ⟨ch, rest, hch⟩ := List.exists_cons_of_ne_nil h
  have grown := applyChange_grown o ch (drained o ch s)
  have handed := drained_handed o ch s
  obtain ⟨w, hw⟩ : ∃ w, w = applyChange o ch (drained o ch s) := ⟨_, rfl⟩
  rw [← hw] at grown
  have taken : (takeHeadChange o s).laps.changes = w.laps.changes.tail ∧ (takeHeadChange o s).race = w.race := by
    rw [takeHeadChange_cons hch, hw]
    exact ⟨rfl, rfl⟩
  have longer : 1 ≤ w.laps.changes.length := by
    have := (handed.changes.trans grown.changes).length_le
    rw [hch, List.length_cons] at this
    omega
  have less := handed.count
  have fewer := grown.count
  rw [taken.1, taken.2, List.length_tail]
  omega

end Sys2Proof.Machine

/-! PROOFS. The crossing work of a service tick, the order of a tick's works, and a race change with the crossings before it
(R33, R46, R54, R79). -/

namespace Sys2Proof.Machine

open Config

/-! ### The changes that are due (R46, R54) -/

theorem changeDue_iff (s : State) : changeDue s = true ↔ HeadDue s := by
  unfold changeDue HeadDue
  cases h : s.laps.changes with
  | nil => simp
  | cons ch rest => simp

theorem toHand_le (r : RaceControl) : toHand r ≤ 3 := by
  unfold toHand
  split <;> split <;> omega

theorem takeDue_stops {s : State} (hno : ¬ HeadDue s) (o : Orders) (n : Nat) : DueTaken o s (takeDue o n s) := by
  have same : takeDue o n s = s := by
    cases n with
    | zero => rfl
    | succ n => exact if_neg fun h => hno ((changeDue_iff s).mp h)
  rw [same]
  exact ⟨0, rfl, fun i hi => absurd hi (by omega), hno⟩

/-- With as many steps as there are changes that wait or may be handed on, every change due is taken. -/
theorem takeDue_taken (o : Orders) (n : Nat) (s : State) (hn : s.laps.changes.length + toHand s.race ≤ n) :
    DueTaken o s (takeDue o n s) := by
  induction n generalizing s with
  | zero =>
    refine takeDue_stops (fun ⟨ch, rest, h, _⟩ => ?_) o 0
    rw [h, List.length_cons] at hn
    omega
  | succ n ih =>
    by_cases hdue : HeadDue s
    · obtain ⟨ch, rest, hch, -⟩ := id hdue
      have fewer := takeHeadChange_fewer (o := o) (s := s) (by rw [hch]; exact List.cons_ne_nil ch rest)
      have step : takeDue o (n + 1) s = takeDue o n (takeHeadChange o s) := if_pos ((changeDue_iff s).mpr hdue)
      obtain ⟨m, hm, hheads, hend⟩ := ih (takeHeadChange o s) (by omega)
      rw [step]
      refine ⟨m + 1, hm, fun i hi => ?_, hend⟩
      cases i with
      | zero => exact hdue
      | succ i => exact hheads i (by omega)
    · exact takeDue_stops hdue o (n + 1)

/-- Every change due is taken, and those it hands on that are due (R54). -/
theorem takeAllDue_taken (o : Orders) (s : State) : DueTaken o s (takeAllDue o s) :=
  takeDue_taken o _ s (by have := toHand_le s.race; omega)

/-! ### The crossing work (R46) -/

/-- So many crossings are taken one after the other, until the queue is empty. -/
theorem takeSome_iterate (o : Orders) (n : Nat) (s : State) :
    ∃ m, m ≤ n ∧ takeSome o n s = (takeNext o)^[m] s ∧ (m = n ∨ (takeSome o n s).gates.queue = []) ∧
      ∀ i, i < m → ((takeNext o)^[i] s).gates.queue ≠ [] := by
  induction n generalizing s with
  | zero => exact ⟨0, le_rfl, rfl, .inl rfl, fun i hi => absurd hi (by omega)⟩
  | succ n ih =>
    by_cases hq : s.gates.queue = []
    · have stops : takeSome o (n + 1) s = s := if_pos hq
      rw [stops]
      exact ⟨0, Nat.zero_le _, rfl, .inr hq, fun i hi => absurd hi (by omega)⟩
    · have step : takeSome o (n + 1) s = takeSome o n (takeNext o s) := if_neg hq
      obtain ⟨m, hm, heq, hend, hqs⟩ := ih (takeNext o s)
      rw [step]
      refine ⟨m + 1, by omega, heq, hend.imp (congrArg (· + 1)) id, fun i hi => ?_⟩
      cases i with
      | zero => exact hq
      | succ i => exact hqs i (by omega)

theorem takeNext_cons {o : Orders} {s : State} {c : Crossing} {rest : List Crossing} (h : s.gates.queue = c :: rest) :
    takeNext o s = takeAllDue o (takeCrossing o c { s with gates := { s.gates with queue := rest } }) := by
  unfold takeNext
  rw [h] <;> rfl

/-! ### The works of a service tick in order (R33) -/

theorem nodup_eraseDups {α : Type} [DecidableEq α] (as : List α) : as.eraseDups.Nodup := by
  induction hn : as.length using Nat.strong_induction_on generalizing as with
  | _ n ih =>
    cases as with
    | nil => exact List.nodup_nil
    | cons a as =>
      have shorter := List.length_filter_le (fun b => !b == a) as
      rw [List.eraseDups_cons, List.nodup_cons, List.mem_eraseDups]
      refine ⟨by simp, ih _ ?_ _ rfl⟩
      rw [List.length_cons] at hn
      omega

/-- A chosen order is completed to one in which each work comes once. -/
theorem completeOrder_perm {α : Type} [DecidableEq α] (chosen : List α) {all : List α} (hnodup : all.Nodup)
    (hall : ∀ a, a ∈ all) : (completeOrder chosen all).Perm all := by
  refine (List.perm_ext_iff_of_nodup ?_ hnodup).mpr fun a => ⟨fun _ => hall a, fun _ => ?_⟩
  · refine List.Nodup.append (nodup_eraseDups chosen) (hnodup.filter _) fun a ha hb => ?_
    rw [List.mem_filter] at hb
    exact absurd (List.mem_eraseDups.mp ha) (by simpa using hb.2)
  · unfold completeOrder
    rw [List.mem_append, List.mem_filter, List.mem_eraseDups]
    by_cases ha : a ∈ chosen
    · exact .inl ha
    · exact .inr ⟨hall a, by simpa using ha⟩

theorem allJobs_perm (jobs : List ServiceJob) : (completeOrder jobs allJobs).Perm allJobs :=
  completeOrder_perm jobs (by decide) fun j => by cases j <;> decide

/-- Before SUM.STARTED the crossing work is all a service tick does. -/
theorem runJob_waits {s : State} (h : s.phase ≠ .running) (o : Orders) {job : ServiceJob} (hj : job ≠ .crossingTake) :
    runJob o s job = s := by
  cases job <;> simp_all [runJob, memoryJob]

theorem runJob_phase (o : Orders) {s : State} (h : s.phase ≠ .running) (job : ServiceJob) :
    (runJob o s job).phase = s.phase := by
  by_cases hj : job = .crossingTake
  · rw [hj]
    exact (crossingWork_keeps o s).2.1
  · rw [runJob_waits h o hj]

theorem foldl_runJob_waits (o : Orders) (js : List ServiceJob) {s : State} (h : s.phase ≠ .running)
    (hjs : ServiceJob.crossingTake ∉ js) : js.foldl (runJob o) s = s := by
  induction js with
  | nil => rfl
  | cons j js ih =>
    rw [List.mem_cons, not_or] at hjs
    rw [List.foldl_cons, runJob_waits h o (Ne.symm hjs.1), ih hjs.2]

theorem serviceTick_waits (jobs : List ServiceJob) (o : Orders) {s : State} (h : s.phase ≠ .running) :
    (completeOrder jobs allJobs).foldl (runJob o) s = runJob o s .crossingTake := by
  have perm := allJobs_perm jobs
  obtain ⟨l, r, hsplit⟩ := List.append_of_mem (perm.mem_iff.mpr (by decide : ServiceJob.crossingTake ∈ allJobs))
  have once : (completeOrder jobs allJobs).Nodup := perm.nodup_iff.mpr (by decide)
  rw [hsplit] at once ⊢
  have hl : ServiceJob.crossingTake ∉ l := fun hin => (List.nodup_append.mp once).2.2 _ hin _ List.mem_cons_self rfl
  have hr : ServiceJob.crossingTake ∉ r := (List.nodup_cons.mp (List.nodup_append.mp once).2.1).1
  rw [List.foldl_append, foldl_runJob_waits o l h hl, List.foldl_cons,
    foldl_runJob_waits o r (by rw [runJob_phase o h]; exact h) hr]

/-- Settles O41 (`takeAllDue_taken`, `takeSome_iterate`, `serviceTick_waits`). -/
theorem crossingWorkTakesChangesThenCrossings : Obligations.CrossingWorkTakesChangesThenCrossings := by
  intro s o t
  refine ⟨?_, fun jobs hdue hphase => ?_⟩
  · obtain ⟨m, hm, heq, hend, hqs⟩ := takeSome_iterate o 8 (takeAllDue o s)
    have worked : t = takeSome o 8 (takeAllDue o s) := rfl
    rw [worked]
    refine ⟨m, fun i => (takeNext o)^[i] (takeAllDue o s), hm, takeAllDue_taken o s, heq, ?_, fun i hi => ?_⟩
    · exact hend
    · obtain ⟨c, rest, hq⟩ := List.exists_cons_of_ne_nil (hqs i hi)
      refine ⟨c, rest, hq, ?_⟩
      dsimp only
      rw [Function.iterate_succ_apply', takeNext_cons hq]
      exact takeAllDue_taken o _
  · have ticks : serviceTick jobs o s = (((completeOrder jobs allJobs).foldl (runJob o) s).onTime fun t => { t with
        serviceDue := false, scanLeft := 0 }) := if_pos hdue
    refine congrArg Host.Outcome.next ?_
    rw [ticks, serviceTick_waits jobs o hphase]
    rfl

/-! ### The works one after the other, and a quiet tick (R33) -/

theorem slipAction_phase (r : Slip) (s : State) : (slipAction r s).state.phase = s.phase := by
  have cleared : ∀ (is : List (Fin 64)) (s : State), (is.foldl (fun t i => writeTallyZero 0 0 i t) s).phase = s.phase := by
    intro is
    induction is with
    | nil => exact fun s => rfl
    | cons i is ih => exact fun s => (ih _).trans (by simp)
  generalize e : slipAction r s = a
  unfold slipAction withSetup actSetup actStart actCall actResume actEndHeat actAbortHeat actPenalise actPardon actAdjust
    actRetire actClearTally refuseSlip acceptSlip at e
  dsimp only at e
  (repeat' split at e) <;> subst e <;> simp [loadSetup]
  exact cleared allTally s

theorem finishSlip_phase (r : SlipAnswer) : (finishSlip r).phase = r.state.phase := by
  generalize e : finishSlip r = t
  simp only [finishSlip] at e
  split at e <;> subst e <;> simp

theorem scanSlips_phase (n : Nat) (s : State) : (scanSlips n s).phase = s.phase := by
  induction n generalizing s with
  | zero => rfl
  | succ n ih =>
    unfold scanSlips
    split
    · dsimp only
      split
      · rw [ih, handleSlip, finishSlip_phase, slipAction_phase]
        simp [fetchSlip]
      · simp
    · rfl

theorem runJob_keeps_phase (o : Orders) (s : State) (job : ServiceJob) : (runJob o s job).phase = s.phase := by
  cases job with
  | crossingTake => exact (crossingWork_keeps o s).2.1
  | slipScan =>
    unfold runJob memoryJob
    dsimp only
    split
    · exact scanSlips_phase _ s
    · rfl
  | noticeRetry => unfold runJob memoryJob; dsimp only; split <;> simp
  | lapBookRetry => unfold runJob memoryJob; dsimp only; split <;> simp
  | statusRefresh => unfold runJob memoryJob; dsimp only; split <;> simp
  | heatExamine => unfold runJob memoryJob; dsimp only; split <;> simp

theorem foldl_runJob_phase (o : Orders) (js : List ServiceJob) (s : State) : (js.foldl (runJob o) s).phase = s.phase := by
  induction js generalizing s with
  | nil => rfl
  | cons j js ih => rw [List.foldl_cons, ih, runJob_keeps_phase]

theorem runJob_running {s : State} (h : s.phase = .running) (o : Orders) :
    runJob o s .slipScan = scanSlips s.time.scanLeft s ∧ runJob o s .noticeRetry = retryNotices s ∧
    runJob o s .lapBookRetry = retryBooks s ∧ runJob o s .heatExamine = examineCard s ∧
    runJob o s .statusRefresh = refreshStatus s := by
  simp [runJob, memoryJob, h]

/-- Nothing waits in any queue: no slip, no notice, no lap record, no crossing, no change, and no entry to examine. -/
structure Quiet (s : State) : Prop where
  phase : s.phase = .running
  turns : s.port.turns = []
  slip : readByte s (slipAddr s.port.slipCursor) ≠ 1
  notices : s.port.noticeQueue = []
  books : ∀ k, (s.lap k).bookQueue = []
  crossings : s.gates.queue = []
  changes : s.laps.changes = []
  card : s.race.state ≠ .idle ∨ s.time.idleNow = true ∨ readByte s (entryAddr s.race.cardCursor) ≠ 1

theorem scanSlips_quiet {s : State} (h : Quiet s) (n : Nat) : scanSlips n s = s := by
  cases n with
  | zero => rfl
  | succ n =>
    unfold scanSlips
    rw [show deviceRead (slipHere s) s = (s, readByte s (slipHere s)) from deviceRead_idle s h.turns _]
    split
    · exact if_neg h.slip
    · rfl

theorem retryBooks_empty {s : State} (h : ∀ k, (s.lap k).bookQueue = []) : retryBooks s = s := by
  unfold retryBooks
  generalize allLanes = ks
  induction ks with
  | nil => rfl
  | cons k ks ih =>
    have one : retryBook k s = s := by rw [retryBook, h k]; rfl
    rw [List.foldl_cons, one, ih]

theorem examineCard_quiet {s : State} (h : Quiet s) : examineCard s = s := by
  unfold examineCard
  rw [deviceRead_idle s h.turns]
  split
  · rfl
  next hno =>
    rw [not_or] at hno
    obtain hs | hi | hr := h.card
    · exact absurd hs hno.1
    · exact absurd hi hno.2
    · exact if_neg hr

theorem crossingWork_quiet {s : State} (h : Quiet s) (o : Orders) : crossingWork o s = s := by
  have none : changeDue s = false := by simp [changeDue, h.changes]
  have due : takeAllDue o s = s := if_neg (by simp [none])
  unfold crossingWork
  rw [due]
  exact if_pos h.crossings

theorem runJob_quiet {s : State} (h : Quiet s) (o : Orders) {job : ServiceJob} (hj : job ≠ .statusRefresh) :
    runJob o s job = s := by
  obtain ⟨hscan, hnotices, hbooks, hcard, -⟩ := runJob_running h.phase o
  cases job with
  | statusRefresh => exact absurd rfl hj
  | slipScan => rw [hscan, scanSlips_quiet h]
  | noticeRetry => rw [hnotices, retryNotices, h.notices]; rfl
  | lapBookRetry => rw [hbooks, retryBooks_empty h.books]
  | heatExamine => rw [hcard, examineCard_quiet h]
  | crossingTake => exact crossingWork_quiet h o

theorem foldl_runJob_quiet {s : State} (h : Quiet s) (o : Orders) (js : List ServiceJob)
    (hjs : ServiceJob.statusRefresh ∉ js) : js.foldl (runJob o) s = s := by
  induction js with
  | nil => rfl
  | cons j js ih =>
    rw [List.mem_cons, not_or] at hjs
    rw [List.foldl_cons, runJob_quiet h o (Ne.symm hjs.1), ih hjs.2]

/-- A refresh of the status leaves a quiet device quiet. -/
theorem Quiet.refreshed {s : State} (h : Quiet s) : Quiet (refreshStatus s) := by
  obtain ⟨heq, hrefreshed⟩ := refreshStatus_refreshed s h.turns
  obtain ⟨-, -, -, hspares⟩ := hrefreshed
  generalize refreshStatus s = t at heq hspares
  have port : t.port = s.port := by rw [heq]
  have race : t.race = s.race := by rw [heq]
  have time : t.time = s.time := by rw [heq]
  have hs := slipAddr_bounds s.port.slipCursor
  have he := entryAddr_bounds s.race.cardCursor
  have apart : ∀ j, 0x200 ≤ j → j < 0xC00 → ¬ (Within raceStatusBase 29 j ∨ ∃ k, Within (laneStatusAddr k) 60 j) := by
    rintro j hlow hhigh (hin | ⟨k, hin⟩)
    · simp only [Within, raceStatusBase] at hin
      omega
    · have := laneStatusAddr_bounds k
      simp only [Within] at hin
      omega
  refine ⟨?_, ?_, ?_, ?_, ?_, ?_, ?_, ?_⟩
  · rw [heq]; exact h.phase
  · rw [port]; exact h.turns
  · rw [port, hspares _ (apart _ (by omega) (by omega))]
    exact h.slip
  · rw [port]; exact h.notices
  · rw [heq]; exact h.books
  · rw [heq]; exact h.crossings
  · rw [heq]; exact h.changes
  · rw [race, time, hspares _ (apart _ (by omega) (by omega))]
    exact h.card

theorem foldl_runJob_refreshes {s : State} (h : Quiet s) (jobs : List ServiceJob) (o : Orders) :
    (completeOrder jobs allJobs).foldl (runJob o) s = refreshStatus s := by
  have perm := allJobs_perm jobs
  obtain ⟨l, r, hsplit⟩ := List.append_of_mem (perm.mem_iff.mpr (by decide : ServiceJob.statusRefresh ∈ allJobs))
  have once : (completeOrder jobs allJobs).Nodup := perm.nodup_iff.mpr (by decide)
  rw [hsplit] at once ⊢
  have hl : ServiceJob.statusRefresh ∉ l := fun hin => (List.nodup_append.mp once).2.2 _ hin _ List.mem_cons_self rfl
  have hr : ServiceJob.statusRefresh ∉ r := (List.nodup_cons.mp (List.nodup_append.mp once).2.1).1
  obtain ⟨-, -, -, -, refresh⟩ := runJob_running h.phase o
  rw [List.foldl_append, foldl_runJob_quiet h o l hl, List.foldl_cons, refresh, foldl_runJob_quiet h.refreshed o r hr]

/-- A service tick that is due does its works in the order chosen and completed. -/
theorem serviceTick_due {s : State} (h : s.time.serviceDue = true) (jobs : List ServiceJob) (o : Orders) :
    serviceTick jobs o s = { (completeOrder jobs allJobs).foldl (runJob o) s with
      time := { ((completeOrder jobs allJobs).foldl (runJob o) s).time with serviceDue := false, scanLeft := 0 } } := if_pos h

/-- Settles O40 (`allJobs_perm`, `runJob_running`, `foldl_runJob_refreshes`, `refreshStatus_refreshed`). -/
theorem quietServiceTickRefreshesStatus : Obligations.QuietServiceTickRefreshesStatus := by
  refine ⟨fun s jobs o hdue => ?_, fun s jobs o hphase hdue hq hslip hnotices hbooks hcrossings hchanges hcard => ?_⟩
  · obtain ⟨order, horder⟩ : ∃ order, order = completeOrder jobs allJobs := ⟨_, rfl⟩
    have perm : order.Perm allJobs := horder ▸ allJobs_perm jobs
    have length : order.length = 6 := perm.length_eq
    refine ⟨order, fun i => (order.take i).foldl (runJob o) s, perm.trans (by decide), ?_, rfl, ?_, fun i job hi => ?_⟩
    · rw [horder]
      exact List.prefix_append _ _
    · have all : order.take 6 = order := List.take_of_length_le (le_of_eq length)
      refine congrArg Host.Outcome.next ?_
      dsimp only
      rw [all, horder]
      exact serviceTick_due hdue jobs o
    · intro v w
      have step : w = runJob o v job := by
        simp only [w, v, List.take_add_one, hi, Option.toList_some, List.foldl_append, List.foldl_cons, List.foldl_nil]
      have phase : v.phase = s.phase := foldl_runJob_phase o _ s
      refine ⟨?_, fun hs hj => ?_, fun hs => ?_⟩
      · rintro rfl
        exact step
      · rw [step]
        exact runJob_waits (by rw [phase]; exact hs) o hj
      · obtain ⟨hscan, hnotices, hbooks, hcard, hrefresh⟩ := runJob_running (phase.trans hs) o
        refine ⟨?_, ?_, ?_, ?_, ?_⟩
        · rintro rfl; exact step.trans hscan
        · rintro rfl; exact step.trans hnotices
        · rintro rfl; exact step.trans hbooks
        · rintro rfl; exact step.trans hcard
        · rintro rfl hturns
          rw [step, hrefresh]
          exact refreshStatus_refreshed v hturns
  · have quiet : Quiet s := ⟨hphase, hq, hslip, hnotices, hbooks, hcrossings, hchanges, hcard⟩
    obtain ⟨heq, hrefreshed⟩ := refreshStatus_refreshed s hq
    refine ⟨_, congrArg Host.Outcome.next (serviceTick_due hdue jobs o), ?_, ?_⟩
    · rw [foldl_runJob_refreshes quiet, heq]
    · rw [foldl_runJob_refreshes quiet]
      exact hrefreshed

/-! ### The crossings before a change (R54, R79) -/

/-- A crossing taken from the head of the queue. -/
def takeFirst (o : Orders) (v : State) (c : Crossing) : State :=
  takeCrossing o c { v with gates := { v.gates with queue := v.gates.queue.tail } }

/-- The crossings stamped before a change are taken one after the other, and the others wait. -/
theorem drain_eq (o : Orders) (x : Stamp) (q : List Crossing) (s : State) (hq : s.gates.queue = q) :
    drain o x q s = (q.takeWhile fun c => isLater c.stamp x).foldl (takeFirst o) s ∧
      (drain o x q s).gates = { s.gates with queue := q.dropWhile fun c => isLater c.stamp x } := by
  induction q generalizing s with
  | nil =>
    refine ⟨rfl, ?_⟩
    change s.gates = { s.gates with queue := [] }
    cases hg : s.gates
    rw [hg] at hq
    cases hq
    rfl
  | cons c rest ih =>
    have first : takeFirst o s c = takeCrossing o c (s.onGates fun g => { g with queue := rest }) := by
      unfold takeFirst
      rw [hq]
      rfl
    have gates : (takeFirst o s c).gates = { s.gates with queue := rest } := by rw [first]; simp [State.onGates]
    by_cases hc : isLater c.stamp x = true
    · obtain ⟨heq, hgates⟩ := ih (takeFirst o s c) (by rw [gates])
      have step : drain o x (c :: rest) s = drain o x rest (takeFirst o s c) := by
        rw [first]
        exact if_pos hc
      simp only [List.takeWhile_cons, List.dropWhile_cons, hc, if_true, List.foldl_cons]
      rw [step]
      exact ⟨heq, hgates.trans (by rw [gates])⟩
    · have stops : drain o x (c :: rest) s = s := if_neg hc
      simp only [List.takeWhile_cons, List.dropWhile_cons, hc]
      rw [stops, ← hq]
      exact ⟨rfl, rfl⟩

theorem drained_other {ch : Change} (h : ch.kind ≠ .abort) (o : Orders) (s : State) :
    drained o ch s = drain o ch.stamp s.gates.queue s := by
  unfold drained
  split
  next ha => exact absurd ha h
  · rfl

theorem drained_abort {ch : Change} (h : ch.kind = .abort) (o : Orders) (s : State) :
    drained o ch s = discardEarlier ch.stamp s := by
  unfold drained
  rw [h]

/-- Settles O39 (`drain_eq`, `takeHeadChange_cons`). -/
theorem crossingsBeforeAChangeComeFirst : Obligations.CrossingsBeforeAChangeComeFirst := by
  intro s o x rest kind hch hdue earlier left handled u w
  obtain ⟨hhandled, hgates⟩ := drain_eq o x s.gates.queue s rfl
  have acts : drained o { kind := kind, stamp := x } s = u := by
    by_cases hk : kind = .abort
    · rw [drained_abort hk]
      simp only [u, left, if_pos hk]
      rfl
    · rw [drained_other hk]
      simp only [u, if_neg hk]
      exact hhandled
  have ugates : u.gates = { s.gates with queue := left } := by
    rw [← acts]
    by_cases hk : kind = .abort
    · rw [drained_abort hk]
      simp only [left, if_pos hk]
      rfl
    · rw [drained_other hk]
      simp only [left, if_neg hk]
      exact hgates
  have taken : takeHeadChange o s = { w with laps := { w.laps with changes := w.laps.changes.tail } } := by
    rw [takeHeadChange_cons hch, acts]
    rfl
  have due : takeChange o s = takeHeadChange o s :=
    if_pos ((changeDue_iff s).mpr ⟨_, rest, hch, hdue⟩)
  refine ⟨ugates, ?_, _, congrArg Host.Outcome.next (due.trans taken), ?_, rfl⟩
  · rw [← acts]
    exact (drained_handed o _ s).view
  · exact (applyChange_keeps o _ u).2.2.1.trans ugates

end Sys2Proof.Machine

/-! PROOFS. The race changes at the lap engine: the call markers and the freeze, and what moves the race (O36, O37). -/

namespace Sys2Proof.Machine

open Config

/-! ### A change taken with no crossing queued (R54) -/

/-- A change that has acted leaves the list. -/
def leftList (w : State) : State := { w with laps := { w.laps with changes := w.laps.changes.tail } }

theorem leftList_eq {s w : State} {e : LapEngine} {ch : Change} {rest : List Change} (hch : s.laps.changes = ch :: rest)
    (hw : w = { s with laps := e }) (he : e.changes = s.laps.changes) :
    leftList w = { s with laps := { e with changes := rest } } := by
  rw [hw]
  unfold leftList
  rw [he, hch, List.tail_cons]

theorem drained_empty {s : State} (h : s.gates.queue = []) (o : Orders) (ch : Change) : drained o ch s = s := by
  by_cases hk : ch.kind = .abort
  · rw [drained_abort hk]
    have none : (s.gates.queue.filter fun c => !isLater c.stamp ch.stamp) = s.gates.queue := by
      rw [h]
      rfl
    change { s with gates := { s.gates with queue := s.gates.queue.filter fun c => !isLater c.stamp ch.stamp } } = s
    rw [none]
  · rw [drained_other hk, h]
    rfl

theorem raceChangeTake_waits {s : State} {ch : Change} {rest : List Change} (hch : s.laps.changes = ch :: rest)
    (hdue : atOrAfter (ch.stamp + 2) (now s) = false) (o : Orders) : exec (.raceChangeTake o) s = .next s := by
  have no : ¬ changeDue s = true := by
    rw [changeDue_iff]
    rintro ⟨ch', rest', hch', hdue'⟩
    rw [hch] at hch'
    cases hch'
    rw [hdue] at hdue'
    exact absurd hdue' (by decide)
  exact congrArg Host.Outcome.next (if_neg no)

theorem raceChangeTake_acts {s : State} {ch : Change} {rest : List Change} (hch : s.laps.changes = ch :: rest)
    (hq : s.gates.queue = []) (hdue : atOrAfter (ch.stamp + 2) (now s) = true) (o : Orders) :
    exec (.raceChangeTake o) s = .next (leftList (applyChange o ch s)) := by
  have due : takeChange o s = takeHeadChange o s := if_pos ((changeDue_iff s).mpr ⟨_, rest, hch, hdue⟩)
  have taken : takeHeadChange o s = leftList (applyChange o ch s) := by
    rw [takeHeadChange_cons hch, drained_empty hq]
    rfl
  exact congrArg Host.Outcome.next (due.trans taken)

/-! ### The call markers and the freeze (R73, R84, R85) -/

theorem assembling_iff (st : LaneState) : st.assembling = true ↔ st = .grid ∨ st = .lapping ∨ st = .hunt := by
  cases st <;> simp [LaneState.assembling]

theorem lapCalled_recall {s : State} (h : s.laps.view.state = .resuming) (from_ : CalledFrom) (x : Stamp) :
    lapCalled from_ x s = { s with laps := { s.laps with
      view := { s.laps.view with state := .called, calledFrom := from_ },
      lanes := s.laps.lanes.map fun r => { r with callMarker := true } } } := by
  unfold lapCalled State.onLaps
  simp only [if_pos h]

theorem lapCalled_opens {s : State} (h : s.laps.view.state ≠ .resuming) (from_ : CalledFrom) (x : Stamp) :
    lapCalled from_ x s = { s with laps := { s.laps with
      view := { s.laps.view with state := .called, calledFrom := from_ }, freezeStamp := some x,
      lanes := (s.laps.lanes.map fun r => { r with freezeOpen := r.state.assembling }).map fun r =>
        { r with callMarker := true } } } := by
  unfold lapCalled State.onLaps
  simp only [if_neg h]
  rfl

/-- Settles O36 (`raceChangeTake_acts`, `lapCalled_opens`, `lapCalled_recall`). -/
theorem raceChangesOpenAndCloseFreeze : Obligations.RaceChangesOpenAndCloseFreeze := by
  intro s o x rest kind hch hq
  refine ⟨fun hdue => raceChangeTake_waits hch hdue o, fun hdue => ⟨_, raceChangeTake_acts hch hq hdue o, ?_, ?_, ?_, ?_⟩⟩
  · rintro from_ rfl hview
    have left := leftList_eq hch (lapCalled_opens hview from_ x) rfl
    have acts : leftList (applyChange o { kind := .called from_, stamp := x } s) = _ := left
    rw [acts]
    refine ⟨rfl, fun k => ?_⟩
    have opened : (s.lap k).state.assembling =
        decide ((s.lap k).state = .grid ∨ (s.lap k).state = .lapping ∨ (s.lap k).state = .hunt) := by
      rw [Bool.eq_iff_iff, assembling_iff, decide_eq_true_iff]
    simp only [State.lap, pick_map] at opened ⊢
    rw [opened]
  · rintro from_ rfl hview
    have acts : leftList (applyChange o { kind := .called from_, stamp := x } s) = _ :=
      leftList_eq hch (lapCalled_recall hview from_ x) rfl
    rw [acts]
    exact ⟨rfl, fun k => pick_map _ _ k⟩
  · rintro rfl
    exact leftList_eq hch rfl rfl
  · rintro back c0 rfl hfreeze
    have acts : leftList (applyChange o { kind := .resumed back, stamp := x } s) = _ := leftList_eq hch rfl rfl
    rw [acts]
    refine ⟨rfl, fun k => (pick_map _ _ k).trans ?_⟩
    simp only [frozenAt, hfreeze, Option.getD_some]
    rfl

/-! ### The changes that move the race (R56 to R60, R77, R93) -/

theorem lapEnterGreen_lane (x : Stamp) (s : State) (k : Lane) :
    ((s.lap k).state = .grid → s.laps.gridOn = true → (lapEnterGreen x s).lap k = { s.lap k with
      state := .lapping, lapStart := x, lastCrossing := x, last := 0,
      expected := if 2 ≤ (s.geom k).gateCount then 1 else 0, stallRef := 0,
      haltService := servingHalt s k, capService := servingCap s k }) ∧
    (((s.lap k).state = .grid ∧ s.laps.gridOn = false) ∨ (s.lap k).state = .lapping →
      (lapEnterGreen x s).lap k = { s.lap k with stallRef := 0 }) ∧
    ((s.lap k).state ≠ .grid → (s.lap k).state ≠ .lapping → (lapEnterGreen x s).lap k = s.lap k) := by
  have lane : (lapEnterGreen x s).lap k = _ := pick_tabulate _ k
  rw [lane, ← State.lap]
  refine ⟨fun hgrid hon => ?_, ?_, fun hgrid hlapping => ?_⟩
  · simp [lapGreen, hgrid, hon]
  · rintro (⟨hgrid, hoff⟩ | hlapping)
    · simp [lapGreen, hgrid, hoff]
    · simp [lapGreen, hlapping]
  · simp [lapGreen, hgrid, hlapping]

theorem frozen_iff (r : RaceState) : r.frozen = true ↔ r = .called ∨ r = .resuming := by
  cases r <;> simp [RaceState.frozen]

/-- Settles O37 (`raceChangeTake_acts`, `lapEnterGreen_lane`). -/
theorem raceChangesMoveTheLanes : Obligations.RaceChangesMoveTheLanes := by
  intro s o x rest kind hch hq hdue v
  refine ⟨_, raceChangeTake_acts hch hq hdue o, ?_, ?_, ?_, ?_, ?_, ?_⟩
  · rintro label gridOn minLap racers rfl
    have acts : leftList (applyChange o { kind := .staging label gridOn minLap racers, stamp := x } s) = _ := leftList_eq hch rfl rfl
    rw [acts]
    exact ⟨rfl, fun k => pick_tabulate _ k⟩
  · rintro rfl
    have acts : leftList (applyChange o { kind := .countdown, stamp := x } s) = _ := leftList_eq hch rfl rfl
    rw [acts]
    exact ⟨rfl, fun k => pick_map _ _ k⟩
  · rintro rfl
    exact leftList_eq hch rfl rfl
  · rintro rfl
    have acts : leftList (applyChange o { kind := .green, stamp := x } s) = _ := leftList_eq hch rfl rfl
    rw [acts]
    exact ⟨rfl, fun k => lapEnterGreen_lane x s k⟩
  · rintro rfl
    have view : applyChange o { kind := .runout, stamp := x } s = { s with laps := { s.laps with
        view := if v.state.frozen then { v with calledFrom := .runout } else { v with state := .runout } } } := rfl
    refine ⟨fun hcall => ?_, fun hc hr => ?_⟩
    · rw [if_pos ((frozen_iff _).mpr hcall)] at view
      exact leftList_eq hch view rfl
    · rw [if_neg fun hf => ((frozen_iff _).mp hf).elim hc hr] at view
      exact leftList_eq hch view rfl
  · rintro rfl
    have acts : leftList (applyChange o { kind := .settle, stamp := x } s) = _ := leftList_eq hch rfl rfl
    rw [acts]
    refine ⟨rfl, fun k => ?_⟩
    simp only [State.lap, dropFreeze, pick_map]

end Sys2Proof.Machine

/-! PROOFS. Finishes, cuts, RETIREs and the abort at the lap engine (R77 to R79, R87; O38). -/

namespace Sys2Proof.Machine

open Config

/-! ### The finish of a lane (R77) -/

/-- A lane of lane power that has finished: it is off, its duty kept (R162, R165; log 43). -/
def PowerLane.ended (l : PowerLane) : PowerLane :=
  { l with finished := true, cond := false, rampStart := none, mode := .off, nextPin := none }

theorem powerFinished_ends (k : Lane) (x : Stamp) (s : State) :
    powerFinished k x s = { s with power := { s.power with lanes := put s.power.lanes k (s.powerLane k).ended } } := by
  obtain ⟨w, hw⟩ : ∃ w : State, w = { s with
      power := { s.power with lanes := put s.power.lanes k { s.powerLane k with finished := true } } } := ⟨_, rfl⟩
  have lane : w.powerLane k = { s.powerLane k with finished := true } := by rw [hw]; exact pick_put_same _ _ _
  have told : powerFinished k x s = evalLane x k w := by rw [hw]; rfl
  have off : laneCondition w k = false := by
    rw [laneCondition_eq_false]
    rintro ⟨⟨-, -, hfinished, -⟩, -⟩
    rw [lane] at hfinished
    cases hfinished
  rw [told, evalLane_eq, evalOf_turnOff off, lane, hw, put_put]
  rfl

/-- A lane of the lap engine that has finished (R77). -/
def LapLane.ended (l : LapLane) : LapLane := { l with state := .finished, huntFlag := false, freezeOpen := false }

/-- The lap engine and lane power of a finish (R77). -/
def endedLane (k : Lane) (s : State) : State := { s with
  laps := { s.laps with lanes := put s.laps.lanes k (s.lap k).ended }
  power := { s.power with lanes := put s.power.lanes k (s.powerLane k).ended } }

theorem powerFinished_ended (k : Lane) (x : Stamp) (s : State) :
    powerFinished k x (s.onLapLane k LapLane.ended) = endedLane k s := powerFinished_ends k x _

theorem finishLane_eq (k : Lane) (x : Stamp) (afterCut : Bool) (s : State) :
    finishLane k x afterCut s = raceFinish k x (standFinish k afterCut (penFinish k x (endedLane k s))) := by
  rw [← powerFinished_ended k x s]
  rfl

theorem standFinish_already {p : State} {k : Lane} (h : (p.standLane k).finished = true ∨ pick p.stand.racers k = 0)
    (afterCut : Bool) : standFinish k afterCut p = p := if_pos (by simpa using h)

theorem standFinish_marks {p : State} {k : Lane} (hfresh : (p.standLane k).finished = false)
    (hracer : pick p.stand.racers k ≠ 0) (afterCut : Bool) :
    standFinish k afterCut p = { p with stand := { p.stand with lanes := put p.stand.lanes k { p.standLane k with
      finished := true, partialDist := if afterCut then (p.standLane k).partialDist else 0 } } } :=
  if_neg (by
    rw [Bool.or_eq_true, decide_eq_true_iff, hfresh]
    exact not_or.mpr ⟨Bool.false_ne_true, hracer⟩)

theorem finishLane_finished (k : Lane) (x : Stamp) (afterCut : Bool) (s : State) :
    LaneFinished k x afterCut s (finishLane k x afterCut s) := by
  refine ⟨_, standFinish k afterCut (penFinish k x (endedLane k s)), rfl, ⟨fun hno => ?_, fun hd hr => ?_⟩,
    finishLane_eq k x afterCut s⟩
  · exact standFinish_already (p := penFinish k x (endedLane k s)) hno afterCut
  · exact standFinish_marks (p := penFinish k x (endedLane k s)) hd hr afterCut

/-! ### Cuts (R78, R87) -/

theorem assembling_unfinished (l : LapLane) : l.state.assembling = true ↔ Unfinished l := assembling_iff l.state

theorem cutLane_left {s : State} {k : Lane} (h : ¬ Unfinished (s.lap k)) (byRetire : Bool) (x : Stamp) :
    cutLane byRetire x s k = s := if_neg fun ha => h ((assembling_unfinished _).mp ha)

theorem cutLane_cut {s : State} {k : Lane} (h : Unfinished (s.lap k)) (byRetire : Bool) (x : Stamp) :
    LaneCut byRetire x k s (cutLane byRetire x s k) := by
  have cut : cutLane byRetire x s k = finishLane k x true (standCut k byRetire (cutData k x s) s) :=
    if_pos ((assembling_unfinished _).mpr h)
  refine ⟨?_, ?_⟩
  · rintro rfl
    rw [cut]
    exact finishLane_finished k x true _
  · rintro rfl
    rw [cut]
    exact finishLane_finished k x true _

/-- The lanes cut one after the other, each lane once. -/
theorem cuts_one_by_one (o : Orders) (x : Stamp) (s : State) :
    ∃ (order : List Lane) (f : Nat → State), order.Perm allLanes ∧ o.cuts.eraseDups <+: order ∧ f 0 = s ∧
      (cutOrder o).foldl (cutLane false x) s = f 8 ∧
      ∀ i k, order[i]? = some k → f (i + 1) = cutLane false x (f i) k := by
  have perm : (cutOrder o).Perm allLanes := completeOrder_perm _ (List.nodup_finRange 8) List.mem_finRange
  have length : (cutOrder o).length = 8 := perm.length_eq
  refine ⟨cutOrder o, fun i => ((cutOrder o).take i).foldl (cutLane false x) s, perm, List.prefix_append _ _, rfl, ?_,
    fun i k hi => ?_⟩
  · dsimp only
    rw [List.take_of_length_le (le_of_eq length)]
  · simp only [List.take_add_one, hi, Option.toList_some, List.foldl_append, List.foldl_cons, List.foldl_nil]

/-! ### The abort (R79, R157) -/

/-- A lane that an ABORT HEAT finds unfinished is finished with no notice, its services dropped (R79, R152, R157). -/
def LaneAborted (k : Lane) (s t : State) : Prop :=
  let l := s.lap k
  (Unfinished l →
    t.lap k = { l with
      state := .finished, huntFlag := false, freezeOpen := false,
      stallRef := if servingHalt s k then heatClock s else l.stallRef } ∧
    t.penLane k = { s.penLane k with finished := true, serving := none, queue := [] } ∧
    t.powerLane k = { s.powerLane k with
      finished := true, cond := false, rampStart := none, mode := .off, nextPin := none,
      serving := if (s.penLane k).serving = none then (s.powerLane k).serving else none }) ∧
  (¬ Unfinished l → t.lap k = l ∧ t.penLane k = s.penLane k ∧ t.powerLane k = s.powerLane k)

/-- Only the lanes of the lap engine, the penalty unit and lane power differ. -/
def LanesOnly (s t : State) : Prop := t = { s with
  laps := { s.laps with lanes := t.laps.lanes }
  pen := { s.pen with lanes := t.pen.lanes }
  power := { s.power with lanes := t.power.lanes } }

/-- A lane is the same in the three blocks. -/
def SameLane (k : Lane) (s t : State) : Prop :=
  t.lap k = s.lap k ∧ t.penLane k = s.penLane k ∧ t.powerLane k = s.powerLane k

theorem LanesOnly.trans {s t u : State} (hst : LanesOnly s t) (htu : LanesOnly t u) : LanesOnly s u := by
  unfold LanesOnly at *
  rw [hst] at htu
  exact htu

theorem servingHalt_pen {s t : State} {k : Lane} (h : t.penLane k = s.penLane k) : servingHalt t k = servingHalt s k := by
  unfold servingHalt
  rw [h]

theorem LaneAborted.congr {k : Lane} {s u t : State} (h : LaneAborted k u t) (hsame : SameLane k s u)
    (htime : u.time = s.time) : LaneAborted k s t := by
  obtain ⟨hlap, hpen, hpower⟩ := hsame
  unfold LaneAborted at h
  rw [hlap, hpen, hpower, servingHalt_pen hpen, heatClock_congr htime] at h
  exact h

theorem LaneAborted.then_same {k : Lane} {s u t : State} (h : LaneAborted k s u) (hsame : SameLane k u t) :
    LaneAborted k s t := by
  obtain ⟨hlap, hpen, hpower⟩ := hsame
  unfold LaneAborted at h ⊢
  rw [hlap, hpen, hpower]
  exact h

/-- The lap engine's part of an aborted lane, with the restart of the stall watch at the end of a HALT (R79, R82). -/
def abortedLap (k : Lane) (s : State) : LapLane :=
  { (s.lap k).ended with stallRef := if servingHalt s k then heatClock s else (s.lap k).stallRef }

def abortedPower (k : Lane) (s : State) : PowerLane :=
  { (s.powerLane k).ended with serving := if (s.penLane k).serving = none then (s.powerLane k).serving else none }

theorem abortLane_unfinished {s : State} {k : Lane} (h : Unfinished (s.lap k)) (x : Stamp) :
    abortLane x s k = { s with
      laps := { s.laps with lanes := put s.laps.lanes k (abortedLap k s) }
      pen := { s.pen with lanes := put s.pen.lanes k { s.penLane k with finished := true, serving := none, queue := [] } }
      power := { s.power with lanes := put s.power.lanes k (abortedPower k s) } } := by
  obtain ⟨v, hv⟩ : ∃ v, v = withPenLane k { s.penLane k with finished := true } (endedLane k s) := ⟨_, rfl⟩
  have aborts : abortLane x s k = (dropServing k x v).onPenLane k fun l => { l with queue := [] } := by
    rw [hv]
    unfold abortLane
    rw [if_pos ((assembling_unfinished _).mpr h)]
    exact congrArg (penAbortFinish k x) (powerFinished_ended k x s)
  have lane : v.penLane k = { s.penLane k with finished := true } := by rw [hv]; exact withPenLane_penLane k _ _
  have lap : v.lap k = (s.lap k).ended := by rw [hv]; exact pick_put_same _ _ _
  have power : v.powerLane k = (s.powerLane k).ended := by rw [hv]; exact pick_put_same _ _ _
  rw [aborts]
  cases he : (s.penLane k).serving with
  | none =>
    have same : dropServing k x v = v := by
      unfold dropServing
      rw [lane]
      simp only [he]
    have halt : servingHalt s k = false := by simp only [servingHalt, he]
    rw [same, hv]
    simp only [State.onPenLane, State.onPen, withPenLane, amend_eq_put, pick_put_same, put_put, endedLane, abortedLap,
      abortedPower, halt, he, if_true]
    rfl
  | some e =>
    obtain ⟨m, hdrop, hno, -⟩ := dropServing_eq (s := v) (k := k) (e := e) (by rw [lane]; exact he) x
    have off : m = abortedPower k s := by
      rw [power] at hno
      refine (hno fun hon => ?_).trans ?_
      · obtain ⟨⟨-, -, hfinished, -⟩, -⟩ := hon
        cases hfinished
      · simp only [abortedPower, he, PowerLane.ended, reduceCtorEq, if_false]
    have told : toldServiceEnd k e.kind v = { s.laps with lanes := put s.laps.lanes k (abortedLap k s) } := by
      have heat : heatClock v = heatClock s := heatClock_congr (by rw [hv]; rfl)
      have laps : v.laps = { s.laps with lanes := put s.laps.lanes k (s.lap k).ended } := by rw [hv]; rfl
      unfold toldServiceEnd
      rw [lap, laps, heat, put_put]
      cases hk : e.kind <;> simp [abortedLap, servingHalt, he, hk, LapLane.ended]
    rw [hdrop, off, told, lane, hv]
    simp only [State.onPenLane, State.onPen, withPenLane, amend_eq_put, pick_put_same, put_put, endedLane]

theorem abortLane_aborts (k : Lane) (x : Stamp) (s : State) :
    LanesOnly s (abortLane x s k) ∧ LaneAborted k s (abortLane x s k) ∧ ∀ j, j ≠ k → SameLane j s (abortLane x s k) := by
  by_cases h : Unfinished (s.lap k)
  · rw [abortLane_unfinished h]
    refine ⟨rfl, ⟨fun _ => ⟨pick_put_same _ _ _, pick_put_same _ _ _, pick_put_same _ _ _⟩, fun hno => absurd h hno⟩,
      fun j hj => ⟨pick_put_ne _ _ hj, pick_put_ne _ _ hj, pick_put_ne _ _ hj⟩⟩
  · have left : abortLane x s k = s := if_neg fun ha => h ((assembling_unfinished _).mp ha)
    rw [left]
    exact ⟨rfl, ⟨fun hyes => absurd hyes h, fun _ => ⟨rfl, rfl, rfl⟩⟩, fun _ _ => ⟨rfl, rfl, rfl⟩⟩

theorem abortLanes_abort (x : Stamp) (lanes : List Lane) (hnodup : lanes.Nodup) (s : State) :
    LanesOnly s (lanes.foldl (abortLane x) s) ∧
      ∀ k, (k ∈ lanes → LaneAborted k s (lanes.foldl (abortLane x) s)) ∧
        (k ∉ lanes → SameLane k s (lanes.foldl (abortLane x) s)) := by
  induction lanes generalizing s with
  | nil => exact ⟨rfl, fun k => ⟨fun h => absurd h List.not_mem_nil, fun _ => ⟨rfl, rfl, rfl⟩⟩⟩
  | cons c rest ih =>
    obtain ⟨hc, hrest⟩ := List.nodup_cons.mp hnodup
    obtain ⟨honly, haborted, hothers⟩ := abortLane_aborts c x s
    obtain ⟨hrestonly, hlanes⟩ := ih hrest (abortLane x s c)
    have time : (abortLane x s c).time = s.time := by rw [honly]
    rw [List.foldl_cons]
    refine ⟨honly.trans hrestonly, fun k => ⟨fun hk => ?_, fun hk => ?_⟩⟩
    · obtain rfl | hk := List.mem_cons.mp hk
      · exact haborted.then_same ((hlanes k).2 hc)
      · exact ((hlanes k).1 hk).congr (hothers k fun he => hc (he ▸ hk)) time
    · obtain ⟨hne, hk⟩ := not_or.mp (fun h => hk (List.mem_cons.mpr h))
      obtain ⟨hlap, hpen, hpower⟩ := hothers k hne
      obtain ⟨hlap', hpen', hpower'⟩ := (hlanes k).2 hk
      exact ⟨hlap'.trans hlap, hpen'.trans hpen, hpower'.trans hpower⟩

/-- Settles O38 (`cutLane_cut`, `cuts_one_by_one`, `abortLanes_abort`). -/
theorem cutsRetiresAndAbortsFinishLanes : Obligations.CutsRetiresAndAbortsFinishLanes := by
  intro s o x rest kind hch hq hdue taken
  refine ⟨_, raceChangeTake_acts hch hq hdue o, ?_, ?_, ?_⟩
  · rintro k rfl
    refine ⟨fun h => ⟨_, cutLane_cut h true x, rfl⟩, fun h => ?_⟩
    exact congrArg taken (cutLane_left h true x)
  · rintro rfl
    obtain ⟨order, f, hperm, hprefix, hfirst, hlast, hstep⟩ := cuts_one_by_one o x s
    refine ⟨order, f, hperm, hprefix, hfirst, congrArg taken hlast, fun i k hi => ⟨fun h => ?_, fun h => ?_⟩⟩
    · rw [hstep i k hi]
      exact cutLane_cut h false x
    · rw [hstep i k hi]
      exact cutLane_left h false x
  · rintro rfl
    obtain ⟨v, hv⟩ : ∃ v, v = allLanes.foldl (abortLane x) s := ⟨_, rfl⟩
    have acts : leftList (applyChange o { kind := .abort, stamp := x } s) = leftList (lapIdle v) := by rw [hv]; rfl
    obtain ⟨honly, hlanes⟩ := abortLanes_abort x allLanes (List.nodup_finRange 8) s
    rw [← hv] at honly hlanes
    have lanes : ∀ k, (leftList (lapIdle v)).lap k = { v.lap k with state := .vacant, freezeOpen := false } := fun k => by
      simp only [leftList, lapIdle, State.onLaps, State.lap, dropFreeze, pick_map]
    rw [acts]
    refine ⟨?_, fun k => ?_⟩
    · have changes : v.laps.changes = { kind := .abort, stamp := x } :: rest := by rw [honly]; exact hch
      have left : leftList (lapIdle v) = _ := leftList_eq changes rfl rfl
      obtain ⟨a, ha⟩ : ∃ a, a = v.laps.lanes := ⟨_, rfl⟩
      obtain ⟨b, hb⟩ : ∃ b, b = v.pen.lanes := ⟨_, rfl⟩
      obtain ⟨c, hc⟩ : ∃ c, c = v.power.lanes := ⟨_, rfl⟩
      unfold LanesOnly at honly
      rw [← ha, ← hb, ← hc] at honly
      rw [left, honly]
      rfl
    · obtain ⟨hun, hleft⟩ := (hlanes k).1 (List.mem_finRange k)
      refine ⟨fun h => ?_, fun h => ?_⟩
      · obtain ⟨hlap, hpen, hpower⟩ := hun h
        exact ⟨by rw [lanes, hlap], hpen, hpower⟩
      · obtain ⟨hlap, hpen, hpower⟩ := hleft h
        exact ⟨by rw [lanes, hlap], hpen, hpower⟩

end Sys2Proof.Machine

/-! PROOFS. SETUP: the checks of R16 in their order, and what a load leaves (R16, R17; O44). -/

namespace Sys2Proof.Machine

open Config

/-! ### The checks as the manual words them (R16) -/

theorem find_first {n : Nat} {p : Fin n → Bool} {k : Fin n} (h : (List.finRange n).find? p = some k) :
    p k = true ∧ ∀ j, j < k → p j = false := by
  obtain ⟨hk, i, hi, hget, hlow⟩ := List.find?_eq_some_iff_getElem.mp h
  rw [List.getElem_finRange] at hget
  refine ⟨hk, fun j hj => ?_⟩
  have at_ := hlow j.val (by rw [← hget] at hj; exact hj)
  rw [List.getElem_finRange, Bool.not_eq_true'] at at_
  exact at_

theorem allLanes_eq : allLanes = List.finRange 8 := by decide

theorem mapLane_eq (s : State) (n : GateIn) : mapLane (mapByte s n) = setupMapLane s n := by
  have address : mapByte s n = readByte s (2 * n.val) := by simp [mapByte, setupBase]
  unfold mapLane setupMapLane
  rw [address, BitVec.toNat_and]
  exact Nat.and_two_pow_sub_one_eq_mod _ 4

theorem mapGate_eq (s : State) (n : GateIn) : (mapGate (mapByte s n)).val = setupMapGate s n := by
  have address : mapByte s n = readByte s (2 * n.val) := by simp [mapByte, setupBase]
  unfold mapGate setupMapGate
  rw [address]
  change (readByte s (2 * n.val) >>> 4).toNat % 4 = _
  rw [BitVec.toNat_ushiftRight, Nat.shiftRight_eq_div_pow]

theorem readGeometry_count (s : State) (k : Lane) : (readGeometry s k).gateCount = setupCount s k := by
  simp [readGeometry, setupCount, setupBase]

theorem readGeometry_positions (s : State) (k : Lane) :
    (readGeometry s k).pos1 = setupPosition s k 1 ∧ (readGeometry s k).pos2 = setupPosition s k 2 ∧
      (readGeometry s k).pos3 = setupPosition s k 3 := by
  simp [readGeometry, setupPosition, setupBase]

theorem setupGeometry_iff (s : State) (k : Lane) : geometryGood (readGeometry s k) = true ↔ SetupGeometryValid s k := by
  obtain ⟨h1, h2, h3⟩ := readGeometry_positions s k
  rw [geometryGood_iff, readGeometry_count, h1, h2, h3]
  unfold SetupGeometryValid
  refine ⟨fun ⟨hcount, hone, htwo, hthree⟩ => ⟨hcount, fun i hi hlt => ?_⟩, fun ⟨hcount, hpos⟩ => ?_⟩
  · obtain rfl | rfl | rfl : i = 1 ∨ i = 2 ∨ i = 3 := by omega
    · omega
    · simp only [Nat.add_one_sub_one]
      omega
    · simp only [Nat.add_one_sub_one]
      omega
  · have one := hpos 1
    have two := hpos 2
    have three := hpos 3
    simp only [Nat.add_one_sub_one] at two three
    omega

theorem mappedCount_lane {s : State} {b : Byte} {k : Lane} (h : mapLane b = laneNo k) : mappedCount s b = setupCount s k := by
  have inside : 1 ≤ mapLane b ∧ mapLane b ≤ 8 := by rw [h]; unfold laneNo; omega
  unfold mappedCount
  rw [dif_pos inside, readGeometry_count]
  congr 1
  exact Fin.ext (by simp [h, laneNo])

theorem exists_lane {n : Nat} (h : 1 ≤ n) (hn : n ≤ 8) : ∃ k : Lane, n = laneNo k :=
  ⟨⟨n - 1, by omega⟩, by simp [laneNo]; omega⟩

theorem inputGood_iff (s : State) (n : GateIn) : inputGood s n = true ↔ SetupMapValid s n := by
  unfold inputGood SetupMapValid
  simp only [Bool.and_eq_true, Bool.or_eq_true, decide_eq_true_iff, mapLane_eq, mapGate_eq, List.all_eq_true,
    Bool.not_eq_true', Fin.ext_iff, Bool.and_eq_false_iff, decide_eq_false_iff_not]
  refine or_congr_right' fun hzero => and_congr ?_ ⟨fun h m hm => ?_, fun h m _ => ?_⟩
  · refine ⟨fun ⟨hle, hgate⟩ => ?_, fun ⟨k, hk, hgate⟩ => ⟨by rw [hk]; unfold laneNo; omega, ?_⟩⟩
    · obtain ⟨k, hk⟩ := exists_lane (Nat.one_le_iff_ne_zero.mpr hzero) hle
      rw [mappedCount_lane ((mapLane_eq s n).trans hk)] at hgate
      exact ⟨k, hk, hgate⟩
    · rw [mappedCount_lane ((mapLane_eq s n).trans hk)]
      exact hgate
  · rintro ⟨hlane, hgate⟩
    obtain hle | hne | hne := h m (List.mem_finRange m)
    · exact absurd hm (not_lt.mpr hle)
    · exact hne hlane
    · exact hne hgate
  · by_cases hm : n ≤ m
    · exact .inl hm
    · exact .inr (not_and_or.mp (h m (not_le.mp hm)))

theorem laneCovered_iff {s : State} {k : Lane} (hcount : setupCount s k ≤ 4) :
    laneCovered s k = true ↔ SetupCovered s k := by
  unfold laneCovered SetupCovered
  simp only [Bool.or_eq_true, decide_eq_true_iff, List.all_eq_true, List.any_eq_true, Bool.and_eq_true, readGeometry_count,
    mapLane_eq, Fin.ext_iff, mapGate_eq]
  have every : ∀ g : GateNo, g ∈ ([0, 1, 2, 3] : List GateNo) := by decide
  refine ⟨fun h g hg => ?_, fun h g _ => ?_⟩
  · obtain hlow | ⟨n, -, hn⟩ := h ⟨g, by omega⟩ (every _)
    · exact absurd hg (not_lt.mpr hlow)
    · exact ⟨n, hn⟩
  · by_cases hg : g.val < setupCount s k
    · obtain ⟨n, hn⟩ := h g.val hg
      exact .inr ⟨n, List.mem_finRange n, hn⟩
    · exact .inl (not_lt.mp hg)

/-- The checks of R16 after the track's own, in order. -/
def fieldFault (s : State) : Option Nat :=
  if 1 < readField s 130 1 then some 41 else if 1 < readField s 133 1 then some 42 else none

theorem setupFault_valid {s : State} (h : SetupTrackValid s) : setupFault s = fieldFault s := by
  obtain ⟨hgeometry, hmap, hcovered⟩ := h
  have lanes : (allLanes.find? fun k => !geometryGood (readGeometry s k)) = none :=
    List.find?_eq_none.mpr fun k _ => by simp [(setupGeometry_iff s k).mpr (hgeometry k)]
  have inputs : (allInputs.find? fun n => !inputGood s n) = none :=
    List.find?_eq_none.mpr fun n _ => by simp [(inputGood_iff s n).mpr (hmap n)]
  have covers : (allLanes.find? fun k => !laneCovered s k) = none :=
    List.find?_eq_none.mpr fun k _ => by simp [(laneCovered_iff (hgeometry k).1).mpr (hcovered k)]
  unfold setupFault
  simp only [lanes, inputs, covers]
  rfl

theorem setupFault_faulty {s : State} (h : ¬ SetupTrackValid s) :
    ∃ f, setupFault s = some f ∧ SetupTrackFault s f ∧ 1 ≤ f ∧ f ≤ 40 := by
  have good : ∀ k : Lane, (!geometryGood (readGeometry s k)) = false ↔ SetupGeometryValid s k := fun k => by
    rw [Bool.not_eq_false', setupGeometry_iff]
  have mapped : ∀ n, (!inputGood s n) = false ↔ SetupMapValid s n := fun n => by rw [Bool.not_eq_false', inputGood_iff]
  cases hlane : allLanes.find? fun k => !geometryGood (readGeometry s k) with
  | some k =>
    rw [allLanes_eq] at hlane
    obtain ⟨hk, hlow⟩ := find_first hlane
    refine ⟨laneNo k, ?_, .inl ⟨k, fun j hj => (good j).mp (hlow j hj), fun hv => ?_, rfl⟩, by unfold laneNo; omega,
      by unfold laneNo; omega⟩
    · unfold setupFault
      rw [allLanes_eq]
      simp only [hlane]
    · rw [(good k).mpr hv] at hk
      cases hk
  | none =>
    have hgeometry : ∀ k, SetupGeometryValid s k := fun k => by
      have := List.find?_eq_none.mp hlane k (by rw [allLanes_eq]; exact List.mem_finRange k)
      exact (good k).mp (by simpa using this)
    cases hinput : allInputs.find? fun n => !inputGood s n with
    | some n =>
      obtain ⟨hn, hlow⟩ := find_first hinput
      refine ⟨9 + n.val, ?_, .inr (.inl ⟨hgeometry, n, fun m hm => (mapped m).mp (hlow m hm), fun hv => ?_, rfl⟩), by omega,
        by omega⟩
      · unfold setupFault
        simp only [hlane, hinput]
      · rw [(mapped n).mpr hv] at hn
        cases hn
    | none =>
      have hmap : ∀ n, SetupMapValid s n := fun n => by
        have := List.find?_eq_none.mp hinput n (List.mem_finRange n)
        exact (mapped n).mp (by simpa using this)
      have covered : ∀ k, (!laneCovered s k) = false ↔ SetupCovered s k := fun k => by
        rw [Bool.not_eq_false', laneCovered_iff (hgeometry k).1]
      cases hcover : allLanes.find? fun k => !laneCovered s k with
      | some k =>
        have first := hcover
        rw [allLanes_eq] at first
        obtain ⟨hk, hlow⟩ := find_first first
        refine ⟨laneNo k, ?_, .inr (.inr ⟨hgeometry, hmap, k, fun j hj => (covered j).mp (hlow j hj), fun hv => ?_, rfl⟩),
          by unfold laneNo; omega, by unfold laneNo; omega⟩
        · unfold setupFault
          simp only [hlane, hinput, hcover]
        · rw [(covered k).mpr hv] at hk
          cases hk
      | none =>
        refine absurd ⟨hgeometry, hmap, fun k => ?_⟩ h
        have := List.find?_eq_none.mp hcover k (by rw [allLanes_eq]; exact List.mem_finRange k)
        exact (covered k).mp (by simpa using this)

/-! ### The load (R17, R47, R63, R72) -/

theorem readMapping_unused {s : State} {n : GateIn} (h : setupMapLane s n = 0) : readMapping s n = none := by
  unfold readMapping
  exact dif_neg (by rw [mapLane_eq, h]; omega)

theorem readMapping_lane {s : State} {n : GateIn} {k : Lane} {g : GateNo} (hk : setupMapLane s n = laneNo k)
    (hg : setupMapGate s n = g.val) : readMapping s n =
      some { lane := k, gate := g, activeHigh := (readByte s (2 * n.val)).getLsbD 7 } := by
  have inside : 1 ≤ mapLane (mapByte s n) ∧ mapLane (mapByte s n) ≤ 8 := by rw [mapLane_eq, hk]; unfold laneNo; omega
  have lane : (⟨mapLane (mapByte s n) - 1, by omega⟩ : Lane) = k := Fin.ext (by simp [mapLane_eq, hk, laneNo])
  have gate : mapGate (mapByte s n) = g := Fin.ext ((mapGate_eq s n).trans hg)
  have address : mapByte s n = readByte s (2 * n.val) := by simp [mapByte, setupBase]
  unfold readMapping
  rw [dif_pos inside, lane, gate, address]

theorem loadSetup_loaded (s : State) : SetupLoaded s (loadSetup s s) := by
  have seed : (if BitVec.ofNat 16 (readField s (setupBase + 144) 2) = 0 then (1 : Half)
      else BitVec.ofNat 16 (readField s (setupBase + 144) 2)) =
      if readField s 144 2 = 0 then 1 else BitVec.ofNat 16 (readField s 144 2) := by
    have small := readField_lt s 144 2
    have address : setupBase + 144 = 144 := rfl
    rw [address]
    refine if_congr ⟨fun h => ?_, fun h => by rw [h]; rfl⟩ rfl rfl
    have same := congrArg BitVec.toNat h
    rwa [BitVec.toNat_ofNat, Nat.mod_eq_of_lt (by omega)] at same
  refine ⟨?_, fun k => ?_, fun k => ?_, fun n hn => ?_, fun n k g hk hg => ?_⟩
  · rw [← seed]
    rfl
  · exact (pick_tabulate _ k).trans (by rw [fitGates, readGeometry_count])
  · have geom : (loadSetup s s).geom k = readGeometry s k := pick_tabulate _ k
    rw [geom]
    exact ⟨readGeometry_count s k, readGeometry_positions s k⟩
  · refine (pick_tabulate _ n).trans ?_
    rw [readMapping_unused hn]
  · refine (pick_tabulate _ n).trans ?_
    rw [readMapping_lane hk hg]

theorem actSetup_busy {s : State} (h : s.race.state ≠ .idle) : actSetup s = refuseSlip s slipBadState := if_pos h

theorem actSetup_fault {s : State} {f : Nat} (hs : s.race.state = .idle) (hq : s.port.turns = [])
    (hf : setupFault s = some f) : actSetup s = { state := s, code := slipSetupInvalid, detail := f } := by
  unfold actSetup
  rw [if_neg (not_not.mpr hs), gather_idle s hq]
  simp only [hf]

theorem actSetup_sound {s : State} (hs : s.race.state = .idle) (hq : s.port.turns = []) (hf : setupFault s = none) :
    actSetup s = acceptSlip (loadSetup s s) := by
  unfold actSetup
  rw [if_neg (not_not.mpr hs), gather_idle s hq]
  simp only [hf]

/-- Settles O44 (`setupFault_valid`, `setupFault_faulty`, `loadSetup_loaded`). -/
theorem setupLoadsOnlyValidBlocks : Obligations.SetupLoadsOnlyValidBlocks := by
  intro s hw
  have ⟨_, _, _, hq, _⟩ := hw
  have action : slipAction (slipRead s) s = actSetup s := by simp only [slipAction, slipRead_kind hw]
  have taken : exec .setup s = .next (finishSlip (actSetup s)) :=
    congrArg Host.Outcome.next ((takeSlip_waits hw rfl).trans (by rw [action]))
  have refused : ∀ f, s.race.state = .idle → setupFault s = some f → SlipFinished 7 f s (finishSlip (actSetup s)) :=
    fun f hs hf => by
      rw [actSetup_fault hs hq hf]
      exact finishSlip_refused hw _ _
  refine ⟨_, taken, fun hs => ?_, fun hs => ⟨fun hv hmiss hauto => ?_, fun hv => ?_, fun hv hmiss => ?_,
    fun hv hmiss hauto => ?_⟩⟩
  · rw [actSetup_busy hs]
    exact finishSlip_refused hw _ _
  · have none : setupFault s = none := by
      rw [setupFault_valid hv, fieldFault, if_neg (not_lt.mpr hmiss), if_neg (not_lt.mpr hauto)]
    have quiet : NoticesOnly s (loadSetup s s) := ⟨rfl, fun h => ⟨h, fun _ _ => rfl⟩⟩
    rw [actSetup_sound hs hq none]
    exact ⟨_, loadSetup_loaded s, finishSlip_noticesOnly hw (r := acceptSlip (loadSetup s s)) quiet⟩
  · obtain ⟨f, hf, hfault, hlow, hhigh⟩ := setupFault_faulty hv
    exact ⟨f, hfault, hlow, hhigh, refused f hs hf⟩
  · exact refused 41 hs (by rw [setupFault_valid hv, fieldFault, if_pos hmiss])
  · exact refused 42 hs (by rw [setupFault_valid hv, fieldFault, if_neg (not_lt.mpr hmiss), if_pos hauto])

end Sys2Proof.Machine

/-! PROOFS. The lap books: pages written, records held, lost and retried (R98 to R100; O35). -/

namespace Sys2Proof.Machine

open Config

/-! ### A page written (R98) -/

/-- A record stands in a page, handed over with a lost field (section 1.4). -/
structure PageShows (a : Nat) (h : HeldLap) (t : State) : Prop where
  state : readByte t a = 2
  flags : readByte t (a + 1) = h.record.flags
  lane : readByte t (a + 2) = BitVec.ofNat 8 h.record.lane
  racer : readByte t (a + 3) = h.record.racer
  label : readByte t (a + 4) = h.record.label
  position : readField t (a + 5) 1 = h.record.position % 256
  lost : readField t (a + 6) 1 = h.lost % 256
  tallies : readField t (a + 7) 1 = h.record.tallies % 256
  lapNumber : readField t (a + 8) 2 = h.record.lapNumber % 65536
  net : readField t (a + 10) 4 = h.record.net % 2 ^ 32
  frozen : readField t (a + 14) 4 = h.record.frozen % 2 ^ 32
  one : readField t (a + 18) 3 = h.record.splits.one.getD 0xFFFFFF % 2 ^ 24
  two : readField t (a + 21) 3 = h.record.splits.two.getD 0xFFFFFF % 2 ^ 24
  three : readField t (a + 24) 3 = h.record.splits.three.getD 0xFFFFFF % 2 ^ 24
  stamp : readField t (a + 27) 5 = h.record.stamp.toNat

theorem pageShows_of_holds {a : Nat} {h : HeldLap} {t : State} (hstate : readByte t a = 2)
    (hb : Holds t (a + 1) (lapBytes h)) : PageShows a h t := by
  unfold lapBytes stampBytes splitsBytes splitBytes at hb
  dsimp only at hb
  simp only [List.append_assoc, List.cons_append, List.nil_append] at hb
  simp only [holds_append, holds_cons, bytesOf_length, Nat.add_assoc, Nat.reduceAdd] at hb
  obtain ⟨hflags, hlane, hracer, hlabel, hposition, hlost, htallies, hnumber, hnet, hfrozen, hone, htwo, hthree, hstamp⟩ := hb
  have stamps := h.record.stamp.isLt
  exact
    { state := hstate, flags := hflags, lane := hlane, racer := hracer, label := hlabel, position := hposition.field
      lost := hlost.field, tallies := htallies.field, lapNumber := hnumber.field, net := hnet.field
      frozen := hfrozen.field, one := hone.field, two := htwo.field, three := hthree.field
      stamp := hstamp.value (by omega) }

/-- A page shows what it shows by its 32 bytes alone. -/
theorem PageShows.congr {a : Nat} {h : HeldLap} {t u : State} (hp : PageShows a h t)
    (hu : ∀ j, Within a 32 j → readByte u j = readByte t j) : PageShows a h u := by
  have byte : ∀ i, i < 32 → readByte u (a + i) = readByte t (a + i) := fun i hi => hu _ ⟨by omega, by omega⟩
  have field : ∀ i l, i + l ≤ 32 → readField u (a + i) l = readField t (a + i) l := fun i l hl => by
    simp only [readField, readBytes]
    refine congrArg natOf (List.map_congr_left fun x hx => hu _ ?_)
    rw [List.mem_range] at hx
    exact ⟨by omega, by omega⟩
  exact
    { state := (byte 0 (by omega)).trans hp.state, flags := (byte 1 (by omega)).trans hp.flags
      lane := (byte 2 (by omega)).trans hp.lane, racer := (byte 3 (by omega)).trans hp.racer
      label := (byte 4 (by omega)).trans hp.label, position := (field 5 1 (by omega)).trans hp.position
      lost := (field 6 1 (by omega)).trans hp.lost, tallies := (field 7 1 (by omega)).trans hp.tallies
      lapNumber := (field 8 2 (by omega)).trans hp.lapNumber, net := (field 10 4 (by omega)).trans hp.net
      frozen := (field 14 4 (by omega)).trans hp.frozen, one := (field 18 3 (by omega)).trans hp.one
      two := (field 21 3 (by omega)).trans hp.two, three := (field 24 3 (by omega)).trans hp.three
      stamp := (field 27 5 (by omega)).trans hp.stamp }

/-- The address of the page at a lane's cursor. -/
def pageHere (k : Lane) (s : State) : Nat := pageAddr k (s.lap k).pageCursor

/-- A record written into the page at lane k's cursor (R98): its bytes, SUM.PAGE and the cursor. -/
structure PageWritten (k : Lane) (h : HeldLap) (s t : State) : Prop where
  only : t = { s with
    mem := t.mem
    port := { s.port with sum := s.port.sum ||| 4 }
    laps := { s.laps with lanes := put s.laps.lanes k { s.lap k with pageCursor := (s.lap k).pageCursor + 1 } } }
  shows : PageShows (pageHere k s) h t
  spares : ∀ j, ¬ Within (pageHere k s) 32 j → readByte t j = readByte s j

theorem writePage_writes {k : Lane} {s : State} (hq : s.port.turns = []) (hopen : readByte s (pageHere k s) = 1)
    (h : HeldLap) : ∃ t, writePage k h s = (t, true) ∧ PageWritten k h s t := by
  obtain ⟨m, hw, hstate, hbytes, hspares⟩ := writePage_open k h s hq hopen
  exact ⟨_, hw, rfl, pageShows_of_holds hstate hbytes, hspares⟩

theorem pageOpen_eq {s : State} (hq : s.port.turns = []) (k : Lane) :
    pageOpen k s = (s, decide (readByte s (pageHere k s) = 1)) := by
  refine (recheck_idle s hq _ _ _).trans ?_
  rw [show (0xFF : Byte) = BitVec.allOnes 8 from rfl, BitVec.and_allOnes]
  rfl

/-! ### Retries (R100) -/

/-- Lane k can write nothing that it holds. -/
def Stuck (k : Lane) (s : State) : Prop := (s.lap k).bookQueue = [] ∨ readByte s (pageHere k s) ≠ 1

theorem retryBook_stuck {k : Lane} {s : State} (hq : s.port.turns = []) (h : Stuck k s) : retryBook k s = s := by
  unfold retryBook
  obtain hnil | hpage := h
  · rw [hnil]
    rfl
  · cases (s.lap k).bookQueue with
    | nil => rfl
    | cons e rest =>
      unfold retryLaps
      simp only [pageOpen_eq hq, hpage, decide_false, Bool.false_eq_true, if_false]

/-- The oldest record that lane k holds is written, and leaves its queue (R100). -/
structure BookTaken (k : Lane) (h : HeldLap) (rest : List HeldLap) (s t : State) : Prop where
  only : t = { s with
    mem := t.mem
    port := { s.port with sum := s.port.sum ||| 4 }
    laps := { s.laps with lanes := put s.laps.lanes k { s.lap k with
      pageCursor := (s.lap k).pageCursor + 1, bookQueue := rest } } }
  shows : PageShows (pageHere k s) h t
  spares : ∀ j, ¬ Within (pageHere k s) 32 j → readByte t j = readByte s j

theorem retryBook_takes {k : Lane} {s : State} {h : HeldLap} {rest : List HeldLap} (hq : s.port.turns = [])
    (hheld : (s.lap k).bookQueue = h :: rest) (hopen : readByte s (pageHere k s) = 1) :
    ∃ t, BookTaken k h rest s t ∧ retryBook k s = retryBook k t := by
  obtain ⟨w, hw, honly, hshows, hspares⟩ := writePage_writes hq hopen h
  obtain ⟨t, ht⟩ : ∃ t, t = w.onLapLane k fun l => { l with bookQueue := rest } := ⟨_, rfl⟩
  have bytes : ∀ j, readByte t j = readByte w j := fun j => by rw [ht]; rfl
  have lane : (t.lap k).bookQueue = rest := by
    rw [ht]
    change (pick (amend w.laps.lanes k _) k).bookQueue = rest
    rw [pick_amend_same]
  have retried : retryBook k s = retryBook k t := by
    unfold retryBook
    rw [hheld, lane]
    unfold retryLaps
    simp only [pageOpen_eq hq, hopen, decide_true, if_true, hw]
    rw [← ht]
    cases rest <;> rfl
  refine ⟨t, ⟨?_, hshows.congr fun j _ => bytes j, fun j hj => (bytes j).trans (hspares j hj)⟩, retried⟩
  rw [ht, honly]
  simp only [State.onLapLane, State.onLaps, amend_eq_put, pick_put_same, put_put]

theorem pageAddr_apart {k j : Lane} {c d : Fin 64} (h : k ≠ j ∨ c ≠ d) {n i : Nat} (hi : i < 32) (hn : n = pageAddr j d + i) :
    ¬ Within (pageAddr k c) 32 n := by
  have differ : k.val ≠ j.val ∨ c.val ≠ d.val := h.imp (fun hk e => hk (Fin.ext e)) (fun hc e => hc (Fin.ext e))
  unfold Within pageAddr
  unfold pageAddr at hn
  omega

section
variable {k : Lane} {h : HeldLap} {rest : List HeldLap} {s t : State} (ht : BookTaken k h rest s t)
include ht

theorem BookTaken.lap : t.lap k = { s.lap k with pageCursor := (s.lap k).pageCursor + 1, bookQueue := rest } := by
  rw [ht.only]
  exact pick_put_same _ _ _

theorem BookTaken.others {j : Lane} (hj : j ≠ k) : t.lap j = s.lap j := by
  rw [ht.only]
  exact pick_put_ne _ _ hj

theorem BookTaken.turns (hq : s.port.turns = []) : t.port.turns = [] := by
  rw [ht.only]
  exact hq

theorem BookTaken.stuck {j : Lane} (hj : j ≠ k) (hs : Stuck j s) : Stuck j t := by
  have page : pageHere j t = pageHere j s := by unfold pageHere; rw [ht.others hj]
  unfold Stuck
  rw [ht.others hj, page, ht.spares (pageHere j s) (pageAddr_apart (i := 0) (.inl hj.symm) (by omega) rfl)]
  exact hs

/-- With nothing held any more, or the next page not OPEN, the retry ends. -/
theorem BookTaken.ends (hend : readByte s (pageAddr k ((s.lap k).pageCursor + 1)) ≠ 1 ∨ rest = []) : Stuck k t := by
  have next : pageHere k t = pageAddr k ((s.lap k).pageCursor + 1) := by unfold pageHere; rw [ht.lap]
  obtain hpage | hnil := hend
  · refine .inr ?_
    have apart : (s.lap k).pageCursor ≠ (s.lap k).pageCursor + 1 := by
      generalize (s.lap k).pageCursor = c
      revert c
      decide
    rw [next, ht.spares _ (pageAddr_apart (.inr apart) (by omega) (Nat.add_zero _).symm)]
    exact hpage
  · refine .inl ?_
    rw [ht.lap]
    exact hnil

end

theorem foldl_retry_stuck {s : State} (hq : s.port.turns = []) (ks : List Lane) (h : ∀ k ∈ ks, Stuck k s) :
    ks.foldl (fun t k => retryBook k t) s = s := by
  induction ks with
  | nil => rfl
  | cons k ks ih =>
    rw [List.foldl_cons, retryBook_stuck hq (h k List.mem_cons_self)]
    exact ih fun j hj => h j (List.mem_cons_of_mem k hj)

theorem retryBooks_stuck {s : State} (hq : s.port.turns = []) (h : ∀ k, Stuck k s) : retryBooks s = s :=
  foldl_retry_stuck hq allLanes fun k _ => h k

/-- Where only lane j can write, a retry of every lane's book is a retry of lane j's. -/
theorem retryBooks_one {j : Lane} {s : State} (hq : s.port.turns = []) (hothers : ∀ i, i ≠ j → Stuck i s)
    (hturns : (retryBook j s).port.turns = []) (hafter : ∀ i, Stuck i (retryBook j s)) : retryBooks s = retryBook j s := by
  obtain ⟨l, r, hsplit⟩ := List.append_of_mem (by rw [allLanes_eq]; exact List.mem_finRange j : j ∈ allLanes)
  have nodup : allLanes.Nodup := by decide
  have before : ∀ i ∈ l, Stuck i s := fun i hi => hothers i fun he => by
    rw [hsplit] at nodup
    exact (List.nodup_append.mp nodup).2.2 i hi j List.mem_cons_self he
  unfold retryBooks
  rw [hsplit, List.foldl_append, foldl_retry_stuck hq l before, List.foldl_cons]
  exact foldl_retry_stuck hturns r fun i _ => hafter i

/-! ### Arrivals (R99) -/

/-- Lane k with a record held at the tail of its queue, and its lost field taken from the lost count. -/
def heldLane (r : LapRecord) (l : LapLane) : LapLane :=
  { l with bookQueue := l.bookQueue ++ [{ record := r, lost := min l.bookLost 255 }], bookLost := l.bookLost - min l.bookLost 255 }

theorem accept_hold (k : Lane) (r : LapRecord) (s : State) : holdLap k (acceptLap k r s).2 (acceptLap k r s).1 =
    { s with laps := { s.laps with lanes := put s.laps.lanes k (heldLane r (s.lap k)) } } := by
  simp only [holdLap, acceptLap, State.onLapLane, State.onLaps, amend_eq_put, pick_put_same, put_put]
  rfl

/-- A record that arrives where its lane can write nothing is held (R99). -/
theorem arriveLap_held {k : Lane} {s u : State} (hu : retryBooks s = u) (hq : u.port.turns = [])
    (hpage : readByte u (pageHere k u) ≠ 1) (hroom : (u.lap k).bookQueue.length < 4) (r : LapRecord) :
    arriveLap k r s = { u with laps := { u.laps with lanes := put u.laps.lanes k (heldLane r (u.lap k)) } } := by
  unfold arriveLap
  rw [hu]
  dsimp only
  split
  next hnil =>
    have shut : pageOpen k (acceptLap k r u).1 = ((acceptLap k r u).1, false) := by
      have cursor : pageHere k (acceptLap k r u).1 = pageHere k u := by
        simp [pageHere, acceptLap, State.onLapLane, State.onLaps, State.lap]
      rw [pageOpen_eq (by exact hq), cursor]
      exact congrArg _ (decide_eq_false hpage)
    rw [shut]
    exact accept_hold k r u
  · rw [if_pos (by exact hroom)]
    exact accept_hold k r u

/-- A record that arrives where 4 are held is counted as lost (R99). -/
theorem arriveLap_lost {k : Lane} {s u : State} (hu : retryBooks s = u) (hfull : 4 ≤ (u.lap k).bookQueue.length)
    (r : LapRecord) : arriveLap k r s = { u with
      laps := { u.laps with lanes := put u.laps.lanes k { u.lap k with bookLost := min 65535 ((u.lap k).bookLost + 1) } }
      port := { u.port with flt := u.port.flt ||| 4 } } := by
  unfold arriveLap
  rw [hu]
  dsimp only
  split
  next hnil => simp [hnil] at hfull
  · rw [if_neg (by simpa [lapHold] using hfull)]
    simp only [State.onLapLane, State.onLaps, amend_eq_put]
    rfl

/-- Settles O35 (`arriveLap_held`, `arriveLap_lost`, `retryBook_takes`, `retryBooks_one`). -/
theorem lapRecordHeldLostOrRetried : Obligations.LapRecordHeldLostOrRetried := by
  intro k r s l p m stuck hq
  refine ⟨fun hpage hstuck => ?_, ?_, ?_⟩
  · have none : retryBooks s = s := retryBooks_stuck hq hstuck
    exact ⟨fun hroom => arriveLap_held none hq hpage hroom r, fun hfull => arriveLap_lost none hfull r⟩
  · intro j h hj hpage hroom hothers hheld hopen u
    obtain ⟨t, ht, hretry⟩ := retryBook_takes hq hheld hopen
    have done : u = t := hretry.trans (retryBook_stuck (ht.turns hq) (ht.ends (.inr rfl)))
    have kept : t.lap k = s.lap k := ht.others hj.symm
    have page : readByte t (pageHere k t) ≠ 1 := by
      have same : pageHere k t = p := by unfold pageHere; rw [kept]
      rw [same, ht.spares _ (pageAddr_apart (.inl hj) (by omega) (Nat.add_zero _).symm)]
      exact hpage
    have after : ∀ i, Stuck i t := fun i => by
      by_cases hi : i = j
      · rw [hi]
        exact ht.ends (.inr rfl)
      · exact ht.stuck hi (hothers i hi)
    have all : retryBooks s = t := by
      rw [← done]
      exact retryBooks_one hq hothers (by rw [show retryBook j s = t from done]; exact ht.turns hq)
        (by rw [show retryBook j s = t from done]; exact after)
    rw [done]
    refine ⟨by rw [ht.lap], ?_⟩
    have held := arriveLap_held all (ht.turns hq) page (by rw [kept]; exact hroom) r
    rw [kept] at held
    exact held
  · intro h rest hheld hopen hend t
    obtain ⟨w, hw, hretry⟩ := retryBook_takes hq hheld hopen
    have done : t = w := hretry.trans (retryBook_stuck (hw.turns hq) (hw.ends hend))
    rw [done]
    exact ⟨hw.only, hw.shows.state, hw.shows.flags, hw.shows.lost, hw.shows.lapNumber, hw.shows.net, hw.shows.one, hw.spares⟩

end Sys2Proof.Machine

/-! PROOFS. Crossings that are no accepted line crossing: the check for PUSH around their effects, and a sector gate
crossed in order (R64, R70, R82, R86, R155; O30). -/

namespace Sys2Proof.Machine

open Config

/-! ### The check for PUSH (R155) -/

theorem pushCheck_checked (k : Lane) (x : Stamp) (view : RaceView) (s : State) :
    PushChecked k x view s (pushCheck k x view s) := by
  have test : (servingHalt s k && !(s.penLane k).pushMark && !view.state.frozen && isLater (s.penLane k).serveStamp x &&
      decide (100 * s.pen.coastGrace.getD 0 < interval (s.penLane k).serveStamp x)) = true ↔
      servingHalt s k = true ∧ (s.penLane k).pushMark = false ∧ view.state ≠ .called ∧ view.state ≠ .resuming ∧
        isLater (s.penLane k).serveStamp x = true ∧ 100 * s.pen.coastGrace.getD 0 < interval (s.penLane k).serveStamp x := by
    have thawed : view.state.frozen = false ↔ view.state ≠ .called ∧ view.state ≠ .resuming := by
      rw [← Bool.not_eq_true, frozen_iff, not_or]
    simp only [Bool.and_eq_true, Bool.not_eq_true', decide_eq_true_eq, thawed, and_assoc]
  exact ⟨fun hdue => if_pos (test.mpr hdue), fun hno => if_neg fun h => hno (test.mp h)⟩

theorem pushCheck_serving (k : Lane) (x : Stamp) (view : RaceView) (s : State) (j : Lane) :
    ((pushCheck k x view s).penLane j).serving = (s.penLane j).serving := by
  unfold pushCheck
  dsimp only
  split
  · rw [trigger_serving]
    by_cases hj : j = k
    · rw [hj, State.onPenLane_penLane_same]
    · exact congrArg PenLane.serving (pick_amend_ne _ _ hj)
  · rfl

theorem servingHalt_congr {s t : State} {k : Lane} (h : (t.penLane k).serving = (s.penLane k).serving) :
    servingHalt t k = servingHalt s k := by
  unfold servingHalt
  rw [h]

/-- What a crossing's effect reads beside record memory and the host port: s and t agree in it on lane k. -/
structure CrossingAgrees (k : Lane) (s t : State) : Prop where
  laps : t.laps = s.laps
  time : t.time = s.time
  race : t.race = s.race
  halt : servingHalt t k = servingHalt s k

theorem CrossingAgrees.refl (k : Lane) (s : State) : CrossingAgrees k s s := ⟨rfl, rfl, rfl, rfl⟩

theorem pushCheck_agrees (k : Lane) (x : Stamp) (view : RaceView) (s : State) :
    CrossingAgrees k s (pushCheck k x view s) where
  laps := by simp
  time := by simp
  race := by simp
  halt := servingHalt_congr (pushCheck_serving k x view s k)

/-- A crossing that is no accepted line crossing has its verdict's effect, with the check for PUSH before or after it. -/
theorem takeCrossing_checked {s : State} {c : Crossing} {effect : State → State} (o : Orders)
    (hline : (classify s c).acceptedLine c.gate = false)
    (heff : ∀ p, CrossingAgrees c.lane s p → applyVerdict (classify s c) c p = effect p)
    (hserving : ((effect s).penLane c.lane).serving = (s.penLane c.lane).serving) :
    CheckedAround o c.lane c.stamp s.laps.view effect s (takeCrossing o c s) := by
  have taken : takeCrossing o c s =
      if o.pushFirst then effect (pushCheck c.lane c.stamp s.laps.view s)
      else pushCheck c.lane c.stamp s.laps.view (effect s) := by
    unfold takeCrossing
    simp only [hline, Bool.false_eq_true, if_false, heff _ (pushCheck_agrees _ _ _ s), heff _ (.refl _ s)]
  rw [taken]
  refine ⟨fun hhalt => ?_, fun hfirst => ?_, fun hlast => ?_⟩
  · have after : servingHalt (effect s) c.lane = false := (servingHalt_congr hserving).trans hhalt
    rw [pushCheck_not_halt hhalt, pushCheck_not_halt after, ite_self]
  · rw [if_pos hfirst]
    exact ⟨_, pushCheck_checked _ _ _ s, rfl⟩
  · rw [if_neg (by rw [hlast]; exact Bool.false_ne_true)]
    exact pushCheck_checked _ _ _ _

/-! ### Verdicts on a LAPPING lane -/

theorem afterGreen_iff (r : RaceState) :
    r.afterGreen = true ↔ r ≠ .idle ∧ r ≠ .staged ∧ r ≠ .countdown := by
  cases r <;> simp [RaceState.afterGreen, RaceState.racing, RaceState.frozen]

theorem classify_afterGreen {s : State} {c : Crossing} (h : s.laps.view.state.afterGreen = true) : classify s c =
    match (s.lap c.lane).state with
    | .vacant => .stray
    | .grid => if c.gate = 0 ∧ s.laps.view.goneGreen then (if s.laps.view.runoutPhase then .gridFinish else .gridStart)
      else .discarded
    | .lapping => ladder (s.geom c.lane).gateCount ((s.laps.setup.map LapSetup.missTolerance).getD 0) s.laps.minLap c
        (s.lap c.lane)
    | .hunt => if c.gate ≠ 0 then .discarded else if isGhost s.laps.minLap c (s.lap c.lane) then .ghost else .huntEnd
    | .finished => .discarded := by
  obtain ⟨hidle, hstaged, hcountdown⟩ := (afterGreen_iff _).mp h
  unfold classify
  simp only [hidle, hstaged, hcountdown, if_false]
  cases hl : (s.lap c.lane).state <;> simp

theorem classify_lapping {s : State} {c : Crossing} (h : s.laps.view.state.afterGreen = true)
    (hl : (s.lap c.lane).state = .lapping) : classify s c =
      ladder (s.geom c.lane).gateCount ((s.laps.setup.map LapSetup.missTolerance).getD 0) s.laps.minLap c (s.lap c.lane) := by
  rw [classify_afterGreen h, hl]

theorem not_ghost_of_gate {minLap : Nat} {c : Crossing} {l : LapLane} (h : c.gate ≠ 0) : ¬ isGhost minLap c l = true := by
  simp [isGhost, h]

/-! ### A sector closed (R70, R86, R89, R95) -/

/-- A crossing accepted at a sector gate: the lane it leaves (R70, R86). -/
def sectorClosed (how : Accepted) (mark : LapLane → LapLane) (c : Crossing) (s : State) : LapLane :=
  mark (accept (s.geom c.lane).gateCount c (heatClock s) (servingHalt s c.lane)
    (closeSector (s.geom c.lane).gateCount c.gate.val how s.laps.freezeStamp c.stamp (s.lap c.lane)))

theorem acceptCrossing_sector {s : State} {c : Crossing} (hg : c.gate ≠ 0) (how : Accepted) (mark : LapLane → LapLane) :
    acceptCrossing c how mark s =
      { s with laps := { s.laps with lanes := put s.laps.lanes c.lane (sectorClosed how mark c s) } } := if_neg hg

theorem sectorClosed_agrees {s p : State} {c : Crossing} (h : CrossingAgrees c.lane s p) (how : Accepted)
    (mark : LapLane → LapLane) : sectorClosed how mark c p = sectorClosed how mark c s := by
  unfold sectorClosed
  simp only [State.geom, State.lap, h.laps, h.halt, heatClock_congr h.time]

theorem beatsSlot_iff (best : Option Nat) (v : Nat) : beatsSlot best v = true ↔ ∀ b, best = some b → v < b := by
  cases best <;> simp [beatsSlot]

theorem closedSector_gate {n g : Nat} (h : g ≠ 0) : closedSector n g = g := if_neg h

/-- Settles O30 (`takeCrossing_checked`, `acceptCrossing_sector`). -/
theorem inOrderSectorCrossingMovesLaneOn : Obligations.InOrderSectorCrossingMovesLaneOn := by
  intro s c o l n g frozen time best moved hview hlane hg hexp hn
  have hgate : c.gate ≠ 0 := fun h => hg (congrArg Fin.val h)
  have verdict : classify s c = .inOrder := (classify_lapping hview hlane).trans
    (ladder_of_expected (not_ghost_of_gate hgate) hexp)
  have two : 2 ≤ n := by omega
  have closed : sectorClosed .inOrder id c s = { l with
      last := g, expected := (g + 1) % n, lastCrossing := c.stamp, callMarker := false, stalled := false,
      stallRef := heatClock s, haltInSector := servingHalt s c.lane, splits := l.splits.store g (some time),
      bestSplits := if best then l.bestSplits.store g (some time) else l.bestSplits,
      lapFrozen := l.lapFrozen + frozen, sectorFrozen := 0 } := by
    have bests : placeBest n g .inOrder frozen time l = if best then l.bestSplits.store g (some time) else l.bestSplits := by
      unfold placeBest
      rw [closedSector_gate hg]
      refine if_congr ?_ rfl rfl
      rw [beatsSlot_iff]
      simp only [true_and, two, best]
    have splits : placeSplit n g .inOrder time l = l.splits.store g (some time) := by
      unfold placeSplit
      rw [if_neg (by omega), closedSector_gate hg]
    have opened : sectorClosed .inOrder id c s = { l with
        last := g, expected := (g + 1) % n, lastCrossing := c.stamp,
        lastLine := if g = 0 then some c.stamp else l.lastLine, callMarker := false, stalled := false,
        stallRef := heatClock s, haltInSector := servingHalt s c.lane, splits := placeSplit n g .inOrder time l,
        bestSplits := placeBest n g .inOrder frozen time l, lapFrozen := l.lapFrozen + frozen, sectorFrozen := 0 } := rfl
    rw [opened, bests, splits, if_neg hg]
  refine takeCrossing_checked o ?_ (fun p hp => ?_) rfl
  · rw [verdict]
    exact decide_eq_false hgate
  · rw [verdict]
    refine (acceptCrossing_sector hgate .inOrder id).trans ?_
    rw [sectorClosed_agrees hp, closed]

end Sys2Proof.Machine

/-! PROOFS. The other verdicts (R55, R59, R62 to R69, R74 to R77; O33). The penalty unit reads of the lap engine the lap
counts and the last line stamps alone. -/

namespace Sys2Proof.Machine

open Config

/-! ### What the penalty unit reads of the lap engine (R147, R173) -/

/-- The lap engine replaced. -/
def withLaps (e : LapEngine) (s : State) : State := { s with laps := e }

/-- A lap engine with the lap counts and the last line stamps of s. -/
def SameScores (e : LapEngine) (s : State) : Prop :=
  ∀ j, (pick e.lanes j).laps = (s.lap j).laps ∧ (pick e.lanes j).lastLine = (s.lap j).lastLine

theorem SameScores.congr {e : LapEngine} {s t : State} (h : SameScores e s) (ht : t.laps = s.laps) : SameScores e t := fun j => by
  simp only [State.lap, ht]
  exact h j

section
variable {e : LapEngine} {s : State}

theorem deliver_withLaps (n : Notice) : deliver n (withLaps e s) = withLaps e (deliver n s) := by
  have grafted : deliver n (graft (withLaps e s) s) = graft (withLaps e s) (deliver n s) := deliver_graft _ n s
  have kept : deliver n s = graft s (deliver n s) := by
    obtain ⟨hpending, hphase, htime, hgates, hrace, hlaps, hpen, hpower, hstand, hpins⟩ := deliver_keeps n s
    cases hd : deliver n s
    rw [hd] at hpending hphase htime hgates hrace hlaps hpen hpower hstand hpins
    subst hpending hphase htime hgates hrace hlaps hpen hpower hstand hpins
    rfl
  have same : deliver n (withLaps e s) = graft (withLaps e s) (deliver n s) := grafted
  rw [same, kept]
  rfl

theorem resort_withLaps (h : SameScores e s) : resort (withLaps e s) = withLaps e (resort s) := by
  have ahead : aheadOf (withLaps e s) = aheadOf s := by
    funext a b
    have laps : ∀ j, ((withLaps e s).lap j).laps = (s.lap j).laps := fun j => (h j).1
    have lines : ∀ j, ((withLaps e s).lap j).lastLine = (s.lap j).lastLine := fun j => (h j).2
    have pen : ∀ j, (withLaps e s).penLane j = s.penLane j := fun _ => rfl
    unfold aheadOf scoredLaps
    simp only [laps, lines, pen]
  unfold resort
  rw [ahead]
  rfl

theorem actAtOnce_withLaps (h : SameScores e s) (r : Response) (k : Lane) (n : Nat) :
    actAtOnce r k n (withLaps e s) = withLaps e (actAtOnce r k n s) := by
  cases r with
  | laps => exact resort_withLaps (s := s.onPenLane k _) h
  | none | warn | halt | cap | time => rfl

theorem penNotice_withLaps (kind : NoticeKind) (sub : Nat) (k : Lane) (x : Stamp) (a b : Nat) :
    penNotice kind sub k x a b (withLaps e s) = withLaps e (penNotice kind sub k x a b s) := deliver_withLaps _

theorem convert_withLaps (h : SameScores e s) (k : Lane) (p : PenEntry) (x : Stamp) :
    convert k p x (withLaps e s) = withLaps e (convert k p x s) := by
  unfold convert
  dsimp only
  rw [penNotice_withLaps]
  exact actAtOnce_withLaps (h.congr (by simp)) _ k _

theorem enqueuePenalty_withLaps (h : SameScores e s) (k : Lane) (p : PenEntry) :
    enqueuePenalty k p (withLaps e s) = withLaps e (enqueuePenalty k p s) := by
  unfold enqueuePenalty
  have lane : (withLaps e s).penLane k = s.penLane k := rfl
  rw [lane]
  split
  · exact convert_withLaps h k p _
  · rfl

theorem issueEffect_withLaps (h : SameScores e s) (t : Fin 8) (k : Lane) (x : Stamp) (r : Response) (a d : Nat) (z : Half) :
    issueEffect t k x r a d z (withLaps e s) = withLaps e (issueEffect t k x r a d z s) := by
  unfold issueEffect
  split
  · exact enqueuePenalty_withLaps h k _
  · exact enqueuePenalty_withLaps h k _
  · exact actAtOnce_withLaps h _ k _

/-- A response's serial and its PENALTY notice, before its effect (R146). -/
def responseNoticed (t : Fin 8) (k : Lane) (x : Stamp) (r : Response) (a n : Nat) (s : State) : State :=
  penNotice .penalty t.val k x (nextSerial s.pen).toNat (r.code * 256 + qualifier r a n)
    (s.onPen fun p => { p with serial := nextSerial s.pen })

theorem issue_noticed (t : Fin 8) (k : Lane) (x : Stamp) (r : Response) (a d n : Nat) (s : State) :
    issue t k x r a d n s = issueEffect t k x r a d (nextSerial s.pen) (responseNoticed t k x r a n s) := by
  cases r <;> rfl

theorem responseNoticed_withLaps (t : Fin 8) (k : Lane) (x : Stamp) (r : Response) (a n : Nat) :
    responseNoticed t k x r a n (withLaps e s) = withLaps e (responseNoticed t k x r a n s) :=
  penNotice_withLaps (s := s.onPen fun p => { p with serial := nextSerial s.pen }) _ _ _ _ _ _

theorem issue_withLaps (h : SameScores e s) (t : Fin 8) (k : Lane) (x : Stamp) (r : Response) (a d n : Nat) :
    issue t k x r a d n (withLaps e s) = withLaps e (issue t k x r a d n s) := by
  rw [issue_noticed, issue_noticed, responseNoticed_withLaps]
  exact issueEffect_withLaps (h.congr (by simp [responseNoticed])) t k x r a d _

theorem trigger_withLaps (h : SameScores e s) (t : Fin 8) (k : Lane) (x : Stamp) :
    trigger t k x (withLaps e s) = withLaps e (trigger t k x s) := by
  have pen : (withLaps e s).pen = s.pen := rfl
  have lane : (withLaps e s).penLane k = s.penLane k := rfl
  have row : rowOf (withLaps e s) t = rowOf s t := rfl
  unfold trigger
  rw [pen, lane, row]
  split
  · rfl
  · dsimp only
    split
    · rfl
    · split
      · exact issue_withLaps (s := s.onPenLane k _) h t k x _ _ _ _
      · exact issue_withLaps (s := s.onPenLane k _) h t k x _ _ _ _
    · exact issue_withLaps h t k x _ _ _ _

theorem pushCheck_withLaps (h : SameScores e s) (k : Lane) (x : Stamp) (v : RaceView) :
    pushCheck k x v (withLaps e s) = withLaps e (pushCheck k x v s) := by
  have pen : (withLaps e s).pen = s.pen := rfl
  have lane : (withLaps e s).penLane k = s.penLane k := rfl
  have halt : servingHalt (withLaps e s) k = servingHalt s k := rfl
  unfold pushCheck
  rw [pen, lane, halt]
  dsimp only
  split
  · exact trigger_withLaps (s := s.onPenLane k _) h _ k x
  · rfl

end

theorem pushCheck_onLapLane {f : LapLane → LapLane} (hf : ∀ l, (f l).laps = l.laps ∧ (f l).lastLine = l.lastLine) (j k : Lane)
    (x : Stamp) (v : RaceView) (s : State) : pushCheck j x v (s.onLapLane k f) = (pushCheck j x v s).onLapLane k f := by
  have same : SameScores (s.onLapLane k f).laps s := fun i => by
    change ((s.onLapLane k f).lap i).laps = _ ∧ ((s.onLapLane k f).lap i).lastLine = _
    rw [State.onLapLane_lap]
    split
    · exact hf _
    · exact ⟨rfl, rfl⟩
  have laps : (pushCheck j x v s).laps = s.laps := by simp
  refine (pushCheck_withLaps same j x v).trans ?_
  unfold withLaps State.onLapLane State.onLaps
  rw [laps]

theorem markServices_pushCheck (k : Lane) (x : Stamp) (v : RaceView) (s : State) :
    markServices k (pushCheck k x v s) = pushCheck k x v (markServices k s) := by
  have serving := pushCheck_serving k x v s k
  have halt : servingHalt (pushCheck k x v s) k = servingHalt s k := servingHalt_congr serving
  have cap : servingCap (pushCheck k x v s) k = servingCap s k := by unfold servingCap; rw [serving]
  unfold markServices
  rw [halt, cap]
  exact (pushCheck_onLapLane (f := fun l => { l with haltService := servingHalt s k, capService := servingCap s k })
    (fun _ => ⟨rfl, rfl⟩) k k x v s).symm

/-! ### Counted crossings (R55, R59, R62, R64, R69, R74, R76) -/

/-- A lane of the lap engine replaced. -/
def withLap (k : Lane) (r : LapLane) (w : State) : State := { w with laps := { w.laps with lanes := put w.laps.lanes k r } }

theorem withLap_lap (k : Lane) (r : LapLane) (w : State) : (withLap k r w).lap k = r := pick_put_same _ _ _

theorem onLapLane_agrees {k : Lane} {s p : State} (h : CrossingAgrees k s p) (f : LapLane → LapLane) :
    p.onLapLane k f = withLap k (f (s.lap k)) p := by
  have lane : pick p.laps.lanes k = s.lap k := by rw [h.laps]; rfl
  simp only [State.onLapLane, State.onLaps, withLap, amend_eq_put, lane]

theorem takeCrossing_counted {s : State} {c : Crossing} (o : Orders) (hl : (s.lap c.lane).state ≠ .vacant)
    (hv : classify s c = .discarded ∨ classify s c = .ghost ∨ classify s c = .repeated) :
    CheckedAround o c.lane c.stamp s.laps.view (withLap c.lane (discardCounted (s.lap c.lane))) s (takeCrossing o c s) := by
  have line : (classify s c).acceptedLine c.gate = false := by
    obtain hv | hv | hv := hv <;> rw [hv] <;> rfl
  have effect : ∀ p, applyVerdict (classify s c) c p = p.onLapLane c.lane countDiscard := fun p => by
    obtain hv | hv | hv := hv <;> rw [hv] <;> rfl
  refine takeCrossing_checked o line (fun p hp => ?_) rfl
  rw [effect, onLapLane_agrees hp, countDiscard_eq hl]

/-! ### Jumps (R75, R127) -/

theorem takeJump_agrees {s p : State} {c : Crossing} (hl : (s.lap c.lane).state ≠ .vacant) (h : CrossingAgrees c.lane s p) :
    takeJump c p = if (s.lap c.lane).jumpMark = true then
        withLap c.lane { discardCounted (s.lap c.lane) with jumpMark := true } p
      else jumpCrossing c.lane c.stamp (withLap c.lane { discardCounted (s.lap c.lane) with jumpMark := true } p) := by
  have lane : p.lap c.lane = s.lap c.lane := by unfold State.lap; rw [h.laps]
  unfold takeJump
  rw [onLapLane_agrees h, lane, countDiscard_eq hl]
  cases (s.lap c.lane).jumpMark <;> rfl

theorem jumpCrossing_running {s : State} {e : Stamp} (h : s.race.state ≠ .idle) (he : s.race.countdownStamp = some e)
    (k : Lane) (x : Stamp) : jumpCrossing k x s = if isLater x e = true then trigger trigJump k x s else jumpOnce k x s := by
  unfold jumpCrossing
  rw [if_neg h, he]

theorem classify_countdown {s : State} {c : Crossing} (hv : s.laps.view.state = .countdown)
    (hl : (s.lap c.lane).state ≠ .vacant) : classify s c = .jump := by
  simp [classify, hv, hl]

/-- A jump crossing on a lane marked already, or with the race over, is counted and no more. -/
theorem takeCrossing_jumped {s : State} {c : Crossing} (o : Orders) (hv : s.laps.view.state = .countdown)
    (hl : (s.lap c.lane).state ≠ .vacant) (hold : (s.lap c.lane).jumpMark = true ∨ s.race.state = .idle) :
    CheckedAround o c.lane c.stamp s.laps.view
      (withLap c.lane { discardCounted (s.lap c.lane) with jumpMark := true }) s (takeCrossing o c s) := by
  have verdict := classify_countdown hv hl
  refine takeCrossing_checked o (by rw [verdict]; rfl) (fun p hp => ?_) rfl
  rw [verdict]
  refine (takeJump_agrees hl hp).trans ?_
  split
  · rfl
  next hfresh =>
    have idle : s.race.state = .idle := hold.resolve_left hfresh
    have ended : p.race.state = .idle := by rw [hp.race]; exact idle
    exact if_pos ended

/-- The first jump crossing of a lane in a countdown reaches race control: it charges the lane, once for the crossings of
an earlier countdown. -/
theorem takeCrossing_jumps {s : State} {c : Crossing} {e : Stamp} (o : Orders) (hv : s.laps.view.state = .countdown)
    (hl : (s.lap c.lane).state ≠ .vacant) (hfresh : (s.lap c.lane).jumpMark = false) (hrun : s.race.state ≠ .idle)
    (he : s.race.countdownStamp = some e) :
    let jumped := withLap c.lane { discardCounted (s.lap c.lane) with jumpMark := true }
    let does := fun effect => CheckedAround o c.lane c.stamp s.laps.view effect s (takeCrossing o c s)
    (isLater c.stamp e = true → does fun w => trigger trigJump c.lane c.stamp (jumped w)) ∧
    (isLater c.stamp e = false → pick s.race.jumpMarks c.lane = true → does jumped) ∧
    (isLater c.stamp e = false → pick s.race.jumpMarks c.lane = false → does fun w =>
      trigger trigJump c.lane c.stamp { jumped w with
        race := { w.race with jumpMarks := put w.race.jumpMarks c.lane true } }) := by
  intro jumped does
  have verdict := classify_countdown hv hl
  have race : ∀ p, CrossingAgrees c.lane s p → (jumped p).race = s.race := fun p hp => hp.race
  have acts : ∀ p, CrossingAgrees c.lane s p → applyVerdict (classify s c) c p =
      if isLater c.stamp e = true then trigger trigJump c.lane c.stamp (jumped p) else jumpOnce c.lane c.stamp (jumped p) :=
    fun p hp => by
      rw [verdict]
      refine (takeJump_agrees hl hp).trans ?_
      rw [hfresh, if_neg Bool.false_ne_true]
      exact jumpCrossing_running (by rw [race p hp]; exact hrun) (by rw [race p hp]; exact he) _ _
  have line : (classify s c).acceptedLine c.gate = false := by rw [verdict]; rfl
  refine ⟨fun hlate => ?_, fun hearly hmarked => ?_, fun hearly hunmarked => ?_⟩
  · refine takeCrossing_checked o line (fun p hp => ?_) (trigger_serving _ _ _ _ _)
    rw [acts p hp, if_pos hlate]
  · refine takeCrossing_checked o line (fun p hp => ?_) rfl
    rw [acts p hp, if_neg (Bool.eq_false_iff.mp hearly)]
    exact if_pos (by rw [race p hp]; exact hmarked)
  · refine takeCrossing_checked o line (fun p hp => ?_) (trigger_serving _ _ _ _ _)
    rw [acts p hp, if_neg (Bool.eq_false_iff.mp hearly)]
    exact if_neg (by rw [race p hp]; exact Bool.eq_false_iff.mp hunmarked)

/-! ### Verdicts of a LAPPING lane away from the line (R65 to R68) -/

theorem pushCheck_unserved {s : State} {k : Lane} (h : (s.penLane k).serving = none) (x : Stamp) (view : RaceView) :
    pushCheck k x view s = s := pushCheck_not_halt (servingHalt_none h).1

/-- With nothing that may begin or end on its lane, the penalty unit checks an accepted line crossing for PUSH and no more. -/
theorem penAcceptedLine_checks {s : State} {k : Lane}
    (h : ((s.penLane k).serving = none ∧ (s.penLane k).queue = []) ∨ servingHalt s k = true) (x : Stamp)
    (completion finishing : Bool) (view : RaceView) :
    penAcceptedLine k x completion finishing view s = pushCheck k x view s := by
  obtain ⟨hfree, hqueue⟩ | hhalt := h
  · have none : beginService k x s = s := beginService_none (by rw [hqueue]; rfl)
    rw [penAcceptedLine_free hfree, none, pushCheck_unserved hfree]
    exact ite_self _
  · cases he : (s.penLane k).serving with
    | none => simp [servingHalt, he] at hhalt
    | some e =>
      rw [(serving_some he).1, decide_eq_true_iff] at hhalt
      exact penAcceptedLine_halt he hhalt

theorem deliver_serving (n : Notice) (s : State) (j : Lane) : ((deliver n s).penLane j).serving = (s.penLane j).serving :=
  congrArg PenLane.serving (penLane_of_pen (by simp) j)

theorem takeCrossing_fault {s : State} {c : Crossing} (o : Orders) (hl : (s.lap c.lane).state ≠ .vacant)
    (hv : classify s c = .fault) : CheckedAround o c.lane c.stamp s.laps.view (fun w =>
      deliver (laneNotice .anomaly 2 c.lane (pick s.laps.racers c.lane) s.laps.label c.stamp (s.lap c.lane).expected c.gate.val)
        (withLap c.lane { discardCounted (s.lap c.lane) with state := .hunt, huntFlag := true, unverified := true } w))
      s (takeCrossing o c s) := by
  refine takeCrossing_checked o (by rw [hv]; rfl) (fun p hp => ?_) ?_
  · have lane : p.lap c.lane = s.lap c.lane := by unfold State.lap; rw [hp.laps]
    rw [hv]
    change anomaly 2 c (p.lap c.lane).expected c.gate.val (p.onLapLane c.lane _) = _
    rw [onLapLane_agrees hp, countDiscard_eq hl, lane]
    unfold anomaly
    have racers : ∀ r, (withLap c.lane r p).laps.racers = s.laps.racers := fun r => by rw [← hp.laps]; rfl
    have label : ∀ r, (withLap c.lane r p).laps.label = s.laps.label := fun r => by rw [← hp.laps]; rfl
    rw [racers, label]
  · exact deliver_serving _ _ _

theorem takeCrossing_miss {s : State} {c : Crossing} {j : Nat} (o : Orders) (hg : c.gate ≠ 0) (hv : classify s c = .miss j) :
    CheckedAround o c.lane c.stamp s.laps.view
      (withLap c.lane (sectorClosed (.skip j) (fun l => { l with missMark := true }) c s)) s (takeCrossing o c s) := by
  refine takeCrossing_checked o (by rw [hv]; exact decide_eq_false hg) (fun p hp => ?_) rfl
  rw [hv]
  change acceptCrossing c (.skip j) (fun l => { l with missMark := true }) p = _
  rw [acceptCrossing_sector hg, sectorClosed_agrees hp]
  rfl

theorem takeCrossing_cut {s : State} {c : Crossing} {j : Nat} (o : Orders) (hg : c.gate ≠ 0) (hv : classify s c = .cut j) :
    CheckedAround o c.lane c.stamp s.laps.view (fun w =>
      deliver (laneNotice .anomaly 1 c.lane (pick s.laps.racers c.lane) s.laps.label c.stamp j c.gate.val)
        (trigger trigCut c.lane c.stamp
          (withLap c.lane (sectorClosed (.skip j) (fun l => { l with cutMark := true }) c s) w))) s (takeCrossing o c s) := by
  refine takeCrossing_checked o (by rw [hv]; exact decide_eq_false hg) (fun p hp => ?_) ?_
  · rw [hv]
    change anomaly 1 c j c.gate.val (trigger trigCut c.lane c.stamp (acceptCrossing c (.skip j) _ p)) = _
    rw [acceptCrossing_sector hg, sectorClosed_agrees hp]
    unfold anomaly
    obtain ⟨w, hw⟩ : ∃ w, w = withLap c.lane (sectorClosed (.skip j) (fun l => { l with cutMark := true }) c s) p := ⟨_, rfl⟩
    have laps : (trigger trigCut c.lane c.stamp w).laps = w.laps := by simp
    have racers : (trigger trigCut c.lane c.stamp w).laps.racers = s.laps.racers := by
      rw [laps, hw, ← hp.laps]
      rfl
    have label : (trigger trigCut c.lane c.stamp w).laps.label = s.laps.label := by
      rw [laps, hw, ← hp.laps]
      rfl
    unfold withLap at hw ⊢
    rw [← hw, racers, label]
  · exact (deliver_serving _ _ _).trans (trigger_serving _ _ _ _ _)

/-- A skip that lands on a sector gate: the lane it leaves (R65 to R67, R70, R86, R89). -/
theorem sectorClosed_skip {s : State} {c : Crossing} (hg : c.gate.val ≠ 0) (hn : 2 ≤ (s.geom c.lane).gateCount) (j : Nat)
    (mark : LapLane → LapLane) :
    let l := s.lap c.lane
    let frozen := frozenAt s.laps.freezeStamp c.stamp l
    sectorClosed (.skip j) mark c s = mark { l with
      last := c.gate.val, expected := (c.gate.val + 1) % (s.geom c.lane).gateCount, lastCrossing := c.stamp, callMarker := false,
      stalled := false, stallRef := heatClock s, haltInSector := servingHalt s c.lane,
      splits := (dropSectors l.expected j l.splits).store c.gate.val
        (some (split24 (interval l.lastCrossing c.stamp - frozen))),
      lapFrozen := l.lapFrozen + frozen, sectorFrozen := 0 } := by
  intro l frozen
  have splits : ∀ stored, placeSplit (s.geom c.lane).gateCount c.gate.val (.skip j) stored l =
      (dropSectors l.expected j l.splits).store c.gate.val (some stored) := fun stored => by
    unfold placeSplit
    rw [if_neg (by omega), closedSector_gate hg]
  have bests : ∀ z stored, placeBest (s.geom c.lane).gateCount c.gate.val (.skip j) z stored l = l.bestSplits := fun z stored => by
    unfold placeBest
    exact if_neg fun h => by cases h.1
  unfold sectorClosed closeSector accept
  dsimp only
  rw [splits, bests, if_neg hg]

/-! ### Lines crossed on a GRID lane (R59, R77) -/

/-- A GRID lane as the first line crossing leaves it (R59, R70). -/
def lineAccepted (c : Crossing) (s : State) : LapLane :=
  { accept (s.geom c.lane).gateCount c (heatClock s) (servingHalt s c.lane) (s.lap c.lane) with sectorFrozen := 0, lapFrozen := 0 }

theorem runoutPhase_iff (v : RaceView) :
    v.runoutPhase = true ↔ v.state = .runout ∨ (v.state.frozen = true ∧ v.calledFrom = .runout) := by
  simp [RaceView.runoutPhase]

theorem takeCrossing_line {s : State} {c : Crossing} (o : Orders) (h : (classify s c).acceptedLine c.gate = true) :
    takeCrossing o c s = applyVerdict (classify s c) c s := if_pos h

/-- A lane on which nothing waits, or that serves HALT, does not serve CAP. -/
theorem servingCap_unbegun {s : State} {k : Lane}
    (h : ((s.penLane k).serving = none ∧ (s.penLane k).queue = []) ∨ servingHalt s k = true) : servingCap s k = false := by
  obtain ⟨hfree, -⟩ | hhalt := h
  · exact (servingHalt_none hfree).2
  · cases he : (s.penLane k).serving with
    | none => exact (servingHalt_none he).2
    | some e =>
      rw [(serving_some he).1, decide_eq_true_iff] at hhalt
      rw [(serving_some he).2, hhalt]
      rfl

theorem takeCrossing_gridStart {s : State} {c : Crossing} (o : Orders) (hv : classify s c = .gridStart)
    (hpen : ((s.penLane c.lane).serving = none ∧ (s.penLane c.lane).queue = []) ∨ servingHalt s c.lane = true) :
    PushChecked c.lane c.stamp s.laps.view (withLap c.lane { lineAccepted c s with
      state := .lapping, lapStart := c.stamp, splits := Splits.absent, haltService := servingHalt s c.lane,
      capService := false } s) (takeCrossing o c s) := by
  have cap := servingCap_unbegun hpen
  obtain ⟨w, hw⟩ : ∃ w, w = withLap c.lane { lineAccepted c s with
    state := .lapping, lapStart := c.stamp, splits := Splits.absent } s := ⟨_, rfl⟩
  have started : takeCrossing o c s = markServices c.lane (penAcceptedLine c.lane c.stamp false false s.laps.view w) := by
    rw [takeCrossing_line o (by rw [hv]; rfl), hv, hw]
    rfl
  have marked : markServices c.lane w = withLap c.lane { lineAccepted c s with
      state := .lapping, lapStart := c.stamp, splits := Splits.absent, haltService := servingHalt s c.lane,
      capService := false } s := by
    have halt : servingHalt w c.lane = servingHalt s c.lane := by rw [hw]; rfl
    have cap' : servingCap w c.lane = false := by rw [← cap, hw]; rfl
    unfold markServices
    rw [halt, cap', hw]
    simp only [State.onLapLane, State.onLaps, withLap, amend_eq_put, pick_put_same, put_put]
  have pen : ((w.penLane c.lane).serving = none ∧ (w.penLane c.lane).queue = []) ∨ servingHalt w c.lane = true := by
    rw [hw]
    exact hpen
  rw [started, penAcceptedLine_checks pen, markServices_pushCheck, marked]
  exact pushCheck_checked _ _ _ _

theorem takeCrossing_gridFinish {s : State} {c : Crossing} (o : Orders) (hv : classify s c = .gridFinish)
    (hpen : ((s.penLane c.lane).serving = none ∧ (s.penLane c.lane).queue = []) ∨ servingHalt s c.lane = true) :
    ∃ p, PushChecked c.lane c.stamp s.laps.view (withLap c.lane (lineAccepted c s) s) p ∧
      LaneFinished c.lane c.stamp false p (takeCrossing o c s) := by
  obtain ⟨w, hw⟩ : ∃ w, w = withLap c.lane (lineAccepted c s) s := ⟨_, rfl⟩
  have pen : ((w.penLane c.lane).serving = none ∧ (w.penLane c.lane).queue = []) ∨ servingHalt w c.lane = true := by
    rw [hw]
    exact hpen
  have finished : takeCrossing o c s =
      finishLane c.lane c.stamp false (penAcceptedLine c.lane c.stamp false true s.laps.view w) := by
    rw [takeCrossing_line o (by rw [hv]; rfl), hv, hw]
    rfl
  rw [← hw, finished, penAcceptedLine_checks pen]
  exact ⟨_, pushCheck_checked _ _ _ _, finishLane_finished _ _ _ _⟩

/-! ### The verdicts by view and lane state (R55) -/

theorem classify_idle {s : State} {c : Crossing} (hv : s.laps.view.state = .idle) : classify s c = .ignored := if_pos hv

theorem classify_vacant {s : State} {c : Crossing} (hv : s.laps.view.state ≠ .idle) (hl : (s.lap c.lane).state = .vacant) :
    classify s c = .stray := by
  simp [classify, hv, hl]

theorem classify_staged {s : State} {c : Crossing} (hv : s.laps.view.state = .staged)
    (hl : (s.lap c.lane).state ≠ .vacant) : classify s c = .discarded := by
  simp [classify, hv, hl]

theorem classify_grid {s : State} {c : Crossing} (hv : s.laps.view.state.afterGreen = true)
    (hl : (s.lap c.lane).state = .grid) (hgone : s.laps.view.goneGreen = true) (hg : c.gate.val = 0) :
    classify s c = if s.laps.view.runoutPhase then .gridFinish else .gridStart := by
  have line : c.gate = 0 ∧ s.laps.view.goneGreen = true := ⟨Fin.ext hg, hgone⟩
  rw [classify_afterGreen hv, hl]
  exact if_pos line

theorem classify_waiting {s : State} {c : Crossing} (hv : s.laps.view.state.afterGreen = true)
    (h : (s.lap c.lane).state = .finished ∨
      ((s.lap c.lane).state = .grid ∧ (c.gate.val ≠ 0 ∨ s.laps.view.goneGreen = false)) ∨
      ((s.lap c.lane).state = .hunt ∧ c.gate.val ≠ 0)) : classify s c = .discarded ∧ (s.lap c.lane).state ≠ .vacant := by
  rw [classify_afterGreen hv]
  obtain hl | ⟨hl, hno⟩ | ⟨hl, hg⟩ := h <;> rw [hl]
  · exact ⟨rfl, nofun⟩
  · refine ⟨if_neg fun ⟨hg, hgone⟩ => ?_, nofun⟩
    obtain hg' | hgone' := hno
    · exact hg' (congrArg Fin.val hg)
    · rw [hgone] at hgone'
      cases hgone'
  · exact ⟨if_pos fun he => hg (congrArg Fin.val he), nofun⟩

theorem classify_hunt_ghost {s : State} {c : Crossing} (hv : s.laps.view.state.afterGreen = true)
    (hl : (s.lap c.lane).state = .hunt) (hg : c.gate.val = 0)
    (hearly : interval (s.lap c.lane).lapStart c.stamp < 100 * s.laps.minLap) : classify s c = .ghost := by
  have gate : c.gate = 0 := Fin.ext hg
  rw [classify_afterGreen hv, hl]
  simp [gate, isGhost, hearly]

/-- Settles O33, verdict by verdict (`takeCrossing_checked` and the lemmas of the single verdicts). -/
theorem otherCrossingsByVerdict : Obligations.OtherCrossingsByVerdict := by
  intro s c o k l g n v halted onLane counted does atLine
  refine ⟨fun hv => ?_, fun hv hl => ?_, fun hv hl => ?_, fun hv hl => ?_, fun hv => ⟨fun h => ?_, fun hl hg hearly => ?_,
    fun hl hgone hg hpen => ?_, fun hl => ?_⟩⟩
  · have verdict : classify s c = .ignored := classify_idle hv
    exact takeCrossing_checked o (by rw [verdict]; rfl) (fun p _ => by rw [verdict]; rfl) rfl
  · have verdict : classify s c = .stray := classify_vacant hv hl
    refine takeCrossing_checked o (by rw [verdict]; rfl) (fun p hp => ?_) (deliver_serving _ _ _)
    rw [verdict, ← hp.laps]
    rfl
  · exact takeCrossing_counted o hl (.inl (classify_staged hv hl))
  · refine ⟨fun hold => takeCrossing_jumped o hv hl hold, fun e hfresh hrun he => ?_⟩
    exact takeCrossing_jumps o hv hl hfresh hrun he
  · obtain ⟨verdict, present⟩ := classify_waiting hv h
    exact takeCrossing_counted o present (.inl verdict)
  · exact takeCrossing_counted o (fun h => by rw [show (s.lap c.lane).state = .hunt from hl] at h; cases h)
      (.inr (.inl (classify_hunt_ghost hv hl hg hearly)))
  · have verdict := classify_grid hv hl hgone hg
    have line : lineAccepted c s = atLine := by
      unfold lineAccepted accept
      simp only [show c.gate.val = 0 from hg, if_true]
      rfl
    refine ⟨fun hnot hcall => ?_, fun hrunout => ?_⟩
    · have phase : ¬ v.runoutPhase = true := fun h => by
        obtain h | ⟨hf, hc⟩ := (runoutPhase_iff v).mp h
        · exact hnot h
        · exact hcall hf hc
      rw [if_neg phase] at verdict
      have started := takeCrossing_gridStart o verdict hpen
      rw [line] at started
      exact started
    · rw [if_pos ((runoutPhase_iff v).mpr hrunout)] at verdict
      have finished := takeCrossing_gridFinish o verdict hpen
      rw [line] at finished
      exact finished
  · intro verdict
    have classified : classify s c = verdict := classify_lapping hv hl
    have present : (s.lap c.lane).state ≠ .vacant := fun h => by
      rw [show (s.lap c.lane).state = .lapping from hl] at h
      cases h
    refine ⟨fun h => ?_, fun h => takeCrossing_fault o present (classified.trans h), ?_⟩
    · exact takeCrossing_counted o present (.inr (h.imp classified.trans classified.trans))
    intro j hg hn frozen time skipped
    refine ⟨fun h => ?_, fun h => ?_⟩
    · have gate : c.gate ≠ 0 := fun h => hg (congrArg Fin.val h)
      have cut := takeCrossing_cut o gate (classified.trans h)
      rw [sectorClosed_skip hg hn] at cut
      exact cut
    · have gate : c.gate ≠ 0 := fun h => hg (congrArg Fin.val h)
      have miss := takeCrossing_miss o gate (classified.trans h)
      rw [sectorClosed_skip hg hn] at miss
      exact miss

end Sys2Proof.Machine

/-! PROOFS. Freezes, degraded intervals and the values of a lap record (R28, R31, R84 to R86, R91, R92, R96; O34). -/

namespace Sys2Proof.Machine

open Config

/-! ### Stamps in order -/

theorem atOrAfter_interval (a b : Stamp) : atOrAfter a b = true ↔ interval a b < 2 ^ 39 := by
  rw [atOrAfter_iff, isLater_iff]
  refine ⟨?_, fun h => ?_⟩
  · rintro (⟨-, h⟩ | rfl)
    · exact h
    · rw [interval_self]
      decide
  · by_cases hzero : interval a b = 0
    · exact .inr (interval_inj (x := a) (by rw [hzero, interval_self]))
    · exact .inl ⟨by omega, h⟩

/-- The later of two stamps is the second, where it is at or after the first. -/
theorem laterOf_atOrAfter {a b : Stamp} (h : interval a b < 2 ^ 39) : laterOf a b = b ∧ laterOf b a = b := by
  obtain hlater | rfl := (atOrAfter_iff a b).mp ((atOrAfter_interval a b).mpr h)
  · exact laterOf_later hlater
  · exact ⟨ite_self _, ite_self _⟩

/-- Intervals one after the other add up, short of half the stamp circle. -/
theorem interval_add {a b c : Stamp} (h : interval a b + interval b c < 2 ^ 39) :
    interval a c = interval a b + interval b c := by
  rw [interval_eq a b, interval_eq b c] at h
  rw [interval_eq a b, interval_eq b c, interval_eq a c]
  have := a.isLt
  have := b.isLt
  have := c.isLt
  omega

/-! ### Frozen ticks (R84 to R86) -/

theorem frozenAt_opened {l : LapLane} {c0 : Stamp} (hopen : l.freezeOpen = true) (h : interval l.lastCrossing c0 < 2 ^ 39)
    (x : Stamp) : frozenAt (some c0) x l = l.sectorFrozen + interval c0 x := by
  unfold frozenAt
  rw [if_pos hopen, Option.getD_some, (laterOf_atOrAfter h).2]

theorem frozenAt_crossed {l : LapLane} {c0 : Stamp} (hopen : l.freezeOpen = true) (h : interval c0 l.lastCrossing < 2 ^ 39)
    (x : Stamp) : frozenAt (some c0) x l = l.sectorFrozen + interval l.lastCrossing x := by
  unfold frozenAt
  rw [if_pos hopen, Option.getD_some, (laterOf_atOrAfter h).1]

/-! ### Degraded intervals (R28) -/

theorem degraded_iff (s : State) (a b : Stamp) : degraded a b s = true ↔
    s.time.lockStamp = none ∨ (∃ lock, s.time.lockStamp = some lock ∧ interval a lock < 2 ^ 39) ∨
      (s.time.refState ≠ .locked ∧ ∃ lost, s.time.unlockStamp = some lost ∧ interval lost b < 2 ^ 39) := by
  unfold degraded
  cases hlock : s.time.lockStamp with
  | none => simp
  | some lock =>
    cases hlost : s.time.unlockStamp with
    | none => simp [atOrAfter_interval]
    | some lost => simp [atOrAfter_interval]

/-! ### The lap record (R91, R92, R96) -/

theorem lapFlags_low (a b c d e f g h : Bool) :
    (lapFlags a b c d e f g h).getLsbD 0 = a ∧ (lapFlags a b c d e f g h).getLsbD 1 = b ∧
      (lapFlags a b c d e f g h).getLsbD 2 = c ∧ (lapFlags a b c d e f g h).getLsbD 3 = d := by
  revert a b c d e f g h
  decide

theorem lapFlags_high (a b c d e f g h : Bool) :
    (lapFlags a b c d e f g h).getLsbD 4 = e ∧ (lapFlags a b c d e f g h).getLsbD 5 = f ∧
      (lapFlags a b c d e f g h).getLsbD 6 = g ∧ (lapFlags a b c d e f g h).getLsbD 7 = h := by
  revert a b c d e f g h
  decide

section
variable (k : Lane) (x : Stamp) (racer label : Byte) (position : Nat) (deg : Bool) (l : LapLane)

/-- The flags of a lap record, but for BEST (R91, R92). -/
theorem buildRecord_flags :
    let r := buildRecord k x racer label position deg l
    r.flags.getLsbD 0 = l.cutMark ∧ r.flags.getLsbD 1 = l.missMark ∧
      r.flags.getLsbD 2 = (l.unverified || decide (0xFFFFFFFF < interval l.lapStart x)) ∧ r.flags.getLsbD 4 = l.capService ∧
      r.flags.getLsbD 5 = l.haltService ∧ r.flags.getLsbD 6 = deg ∧ r.flags.getLsbD 7 = decide (0 < sat32 l.lapFrozen) := by
  intro r
  obtain ⟨best, hbest⟩ : ∃ best, r.flags = lapFlags l.cutMark l.missMark
      (l.unverified || decide (0xFFFFFFFF < interval l.lapStart x)) best l.capService l.haltService deg
      (decide (0 < sat32 l.lapFrozen)) := ⟨_, rfl⟩
  rw [hbest]
  obtain ⟨hcut, hmiss, hunverified, -⟩ := lapFlags_low l.cutMark l.missMark
    (l.unverified || decide (0xFFFFFFFF < interval l.lapStart x)) best l.capService l.haltService deg
    (decide (0 < sat32 l.lapFrozen))
  obtain ⟨hcap, hhalt, hdeg, hcalled⟩ := lapFlags_high l.cutMark l.missMark
    (l.unverified || decide (0xFFFFFFFF < interval l.lapStart x)) best l.capService l.haltService deg
    (decide (0 < sat32 l.lapFrozen))
  exact ⟨hcut, hmiss, hunverified, hcap, hhalt, hdeg, hcalled⟩

theorem sat32_zero (n : Nat) : sat32 n = 0 ↔ n = 0 := by
  unfold sat32
  omega

/-- A lap is BEST when it qualifies and beats the best lap (R96). -/
theorem buildRecord_isBest :
    let r := buildRecord k x racer label position deg l
    r.isBest = true ↔ l.cutMark = false ∧ r.flags.getLsbD 2 = false ∧ l.lapFrozen = 0 ∧ (l.bestLap = 0 ∨ r.net < l.bestLap) := by
  intro r
  have best : r.isBest = (!l.cutMark && !(l.unverified || decide (0xFFFFFFFF < interval l.lapStart x)) &&
      decide (sat32 l.lapFrozen = 0) && (decide (l.bestLap = 0) || decide (r.net < l.bestLap))) :=
    (lapFlags_low _ _ _ _ _ _ _ _).2.2.2
  obtain ⟨-, -, hunverified, -⟩ := buildRecord_flags k x racer label position deg l
  rw [best, hunverified]
  simp only [Bool.and_eq_true, Bool.not_eq_true', Bool.or_eq_true, decide_eq_true_eq, sat32_zero, and_assoc]

theorem buildRecord_net :
    let raw := interval l.lapStart x
    let r := buildRecord k x racer label position deg l
    r.frozen = min l.lapFrozen 0xFFFFFFFF ∧ (raw ≤ 0xFFFFFFFF → r.net = raw - l.lapFrozen) ∧
      (0xFFFFFFFF < raw → r.net = 0xFFFFFFFF) := by
  intro raw r
  have net : r.net = if decide (0xFFFFFFFF < raw) then 0xFFFFFFFF else raw - l.lapFrozen := rfl
  refine ⟨rfl, fun h => ?_, fun h => ?_⟩
  · rw [net, if_neg (by simpa using h)]
  · rw [net, if_pos (by simpa using h)]

end

/-- Settles O34 (`frozenAt_opened`, `frozenAt_crossed`, `degraded_iff`, `buildRecord_isBest`). -/
theorem frozenTicksCountOnceInNetTime : Obligations.FrozenTicksCountOnceInNetTime := by
  refine ⟨?_, fun s a b => degraded_iff s a b, ?_⟩
  · intro e k c0 x c1 n g how l closed after hopen hsum hsector
    have opened : frozenAt (some c0) x l = l.sectorFrozen + interval c0 x := frozenAt_opened hopen (by omega) x
    have whole : interval l.lastCrossing x = interval l.lastCrossing c0 + interval c0 x := interval_add (by omega)
    have called : interval c0 c1 = interval c0 x + interval x c1 := interval_add (by omega)
    have lap : closed.lapFrozen = l.lapFrozen + l.sectorFrozen + interval c0 x := by
      rw [show closed.lapFrozen = l.lapFrozen + frozenAt (some c0) x l from rfl, opened]
      omega
    have lane : pick after.lanes k = { closed with
        lastCrossing := x, sectorFrozen := frozenAt (some c0) c1 { closed with lastCrossing := x }, freezeOpen := false } := by
      simp only [after, closeFreeze, pick_map, pick_put_same]
    have rest : frozenAt (some c0) c1 { closed with lastCrossing := x } = interval x c1 := by
      have crossed := frozenAt_crossed (l := { closed with lastCrossing := x }) (c0 := c0) hopen
        (show interval c0 x < 2 ^ 39 by omega) c1
      rw [crossed]
      exact Nat.zero_add _
    refine ⟨by omega, lap, rfl, ?_, ?_, rfl⟩
    · rw [lane, rest]
      change closed.lapFrozen + interval x c1 = _
      omega
    · rw [lane]
  · intro k x racer label position deg l raw r hfrozen
    obtain ⟨hcut, hmiss, hunverified, -, -, hdeg, hcalled⟩ := buildRecord_flags k x racer label position deg l
    obtain ⟨hsat, hshort, hlong⟩ := buildRecord_net k x racer label position deg l
    refine ⟨fun hraw => ⟨?_, ?_, ?_⟩, fun hraw => ⟨hlong hraw, hsat, ?_⟩, ?_, hdeg, hcut, hmiss,
      buildRecord_isBest k x racer label position deg l⟩
    · exact hsat.trans (by omega)
    · have net : r.net = raw - l.lapFrozen := hshort hraw
      have frozen : r.frozen = min l.lapFrozen 0xFFFFFFFF := hsat
      omega
    · rw [show r.flags.getLsbD 2 = _ from hunverified, decide_eq_false (not_lt.mpr hraw), Bool.or_false]
    · rw [show r.flags.getLsbD 2 = _ from hunverified, decide_eq_true (show 0xFFFFFFFF < interval l.lapStart x from hraw),
        Bool.or_true]
    · rw [show r.flags.getLsbD 7 = _ from hcalled, decide_eq_true_iff]
      unfold sat32
      omega

end Sys2Proof.Machine

/-! PROOFS. Lap completions (R70, R71, R86 to R99): the lane a line crossing leaves, the record written, and the next lap
begun (O31). -/

namespace Sys2Proof.Machine

open Config

/-! ### Line crossings that complete a lap (R64 to R70) -/

/-- The verdict is a CUT, or a MISS. -/
def Verdict.isCut : Verdict → Bool
  | .cut _ => true
  | _ => false
def Verdict.isMiss : Verdict → Bool
  | .miss _ => true
  | _ => false

/-- A verdict that completes a lap at the line, and how its crossing was accepted. -/
def Completes (v : Verdict) (how : Accepted) : Prop :=
  (v = .inOrder ∧ how = .inOrder) ∨ (v = .huntEnd ∧ how = .huntEnd) ∨ ∃ j, (v = .cut j ∨ v = .miss j) ∧ how = .skip j

/-- A lane whose lap a line crossing completes, its sector closed (R70, R86), before the lap is counted. -/
def closedLane (v : Verdict) (how : Accepted) (c : Crossing) (s : State) : LapLane :=
  { sectorClosed how id c s with
    state := .lapping, huntFlag := if v = .huntEnd then false else (s.lap c.lane).huntFlag,
    cutMark := (s.lap c.lane).cutMark || v.isCut, missMark := (s.lap c.lane).missMark || v.isMiss }

theorem classify_early {s : State} {c : Crossing} (h : ¬ s.laps.view.state.afterGreen = true) :
    classify s c = .ignored ∨ classify s c = .stray ∨ classify s c = .discarded ∨ classify s c = .jump := by
  by_cases hidle : s.laps.view.state = .idle
  · exact .inl (classify_idle hidle)
  · by_cases hl : (s.lap c.lane).state = .vacant
    · exact .inr (.inl (classify_vacant hidle hl))
    · by_cases hstaged : s.laps.view.state = .staged
      · exact .inr (.inr (.inl (classify_staged hstaged hl)))
      · by_cases hcount : s.laps.view.state = .countdown
        · exact .inr (.inr (.inr (classify_countdown hcount hl)))
        · exact absurd ((afterGreen_iff _).mpr ⟨hidle, hstaged, hcount⟩) h

theorem ladder_ne_huntEnd (n tol m : Nat) (c : Crossing) (l : LapLane) : ladder n tol m c l ≠ .huntEnd := by
  unfold ladder
  dsimp only
  split_ifs <;> exact nofun

/-- Only a LAPPING lane completes a lap in order or by a skip, and only a HUNT lane ends a hunt. -/
theorem completes_lane {s : State} {c : Crossing} {how : Accepted} (h : Completes (classify s c) how) :
    (classify s c = .huntEnd ∧ (s.lap c.lane).state = .hunt) ∨
      (classify s c ≠ .huntEnd ∧ (s.lap c.lane).state = .lapping) := by
  have green : s.laps.view.state.afterGreen = true := by
    by_contra hno
    obtain he | he | he | he := classify_early (c := c) hno <;> rw [he] at h <;> simp [Completes] at h
  have verdict := classify_afterGreen (c := c) green
  cases hl : (s.lap c.lane).state with
  | vacant =>
    rw [hl] at verdict
    rw [verdict] at h
    simp [Completes] at h
  | grid =>
    rw [hl] at verdict
    dsimp only at verdict
    rw [verdict] at h
    split_ifs at h <;> simp [Completes] at h
  | lapping =>
    rw [hl] at verdict
    exact .inr ⟨by rw [verdict]; exact ladder_ne_huntEnd _ _ _ _ _, rfl⟩
  | hunt =>
    rw [hl] at verdict
    dsimp only at verdict
    rw [verdict] at h ⊢
    split_ifs at h ⊢
    · simp [Completes] at h
    · simp [Completes] at h
    · exact .inl ⟨rfl, rfl⟩
  | finished =>
    rw [hl] at verdict
    rw [verdict] at h
    simp [Completes] at h

theorem acceptCrossing_line {s : State} {c : Crossing} (hg : c.gate = 0) (how : Accepted) (mark : LapLane → LapLane) :
    acceptCrossing c how mark s = completeLap c s.laps.view (withLap c.lane (sectorClosed how mark c s) s) := if_pos hg

/-- The crossing before its lap is counted: its sector closed and its lap marked. -/
def closedState (how : Accepted) (c : Crossing) (s : State) : State := withLap c.lane (closedLane (classify s c) how c s) s

theorem sectorClosed_kept (how : Accepted) (c : Crossing) (s : State) :
    (sectorClosed how id c s).state = (s.lap c.lane).state ∧ (sectorClosed how id c s).huntFlag = (s.lap c.lane).huntFlag ∧
      (sectorClosed how id c s).cutMark = (s.lap c.lane).cutMark ∧ (sectorClosed how id c s).missMark = (s.lap c.lane).missMark :=
  ⟨rfl, rfl, rfl, rfl⟩

/-- A line crossing that completes a lap: the completion, and after it what a CUT raises and reports (R66; log 30). -/
theorem takeCrossing_completes {s : State} {c : Crossing} {how : Accepted} (o : Orders) (hg : c.gate = 0)
    (h : Completes (classify s c) how) :
    let t := completeLap c s.laps.view (closedState how c s)
    (∀ j, classify s c = .cut j → takeCrossing o c s = anomaly 1 c j 0 (trigger trigCut c.lane c.stamp t)) ∧
      ((classify s c).isCut = false → takeCrossing o c s = t) := by
  intro t
  obtain ⟨hstate, hhunt, hcut, hmiss⟩ := sectorClosed_kept how c s
  have lane := completes_lane h
  have gate : c.gate.val = 0 := congrArg Fin.val hg
  have line : (classify s c).acceptedLine c.gate = true := by
    obtain ⟨hv, -⟩ | ⟨hv, -⟩ | ⟨j, hv | hv, -⟩ := h <;> rw [hv] <;> simp [Verdict.acceptedLine, hg]
  rw [takeCrossing_line o line]
  obtain ⟨hv, rfl⟩ | ⟨hv, rfl⟩ | ⟨j, hv | hv, rfl⟩ := h
  · obtain ⟨he, -⟩ | ⟨-, hl⟩ := lane
    · rw [hv] at he
      cases he
    have closed : closedLane (classify s c) .inOrder c s = sectorClosed .inOrder id c s := by
      unfold closedLane
      rw [hv, if_neg nofun]
      simp only [Verdict.isCut, Verdict.isMiss, Bool.or_false, ← hhunt, ← hcut, ← hmiss]
      rw [← hl, ← hstate]
    have done : applyVerdict (classify s c) c s = t := by
      rw [hv]
      refine (acceptCrossing_line hg .inOrder id).trans ?_
      rw [← closed]
      rfl
    exact ⟨fun j hj => (by rw [hv] at hj; cases hj), fun _ => done⟩
  · obtain ⟨-, hl⟩ | ⟨he, -⟩ := lane
    swap
    · exact absurd hv he
    have closed : closedLane (classify s c) .huntEnd c s =
        sectorClosed .huntEnd (fun l => { l with state := .lapping, huntFlag := false }) c s := by
      unfold closedLane
      rw [hv, if_pos rfl]
      simp only [Verdict.isCut, Verdict.isMiss, Bool.or_false, ← hcut, ← hmiss]
      rfl
    have done : applyVerdict (classify s c) c s = t := by
      rw [hv]
      change acceptCrossing c .huntEnd (fun l => { l with state := .lapping, huntFlag := false }) s = _
      rw [acceptCrossing_line hg, ← closed]
      rfl
    exact ⟨fun j hj => (by rw [hv] at hj; cases hj), fun _ => done⟩
  · obtain ⟨he, -⟩ | ⟨-, hl⟩ := lane
    · rw [hv] at he
      cases he
    have closed : closedLane (classify s c) (.skip j) c s =
        sectorClosed (.skip j) (fun l => { l with cutMark := true }) c s := by
      unfold closedLane
      rw [hv, if_neg nofun]
      simp only [Verdict.isCut, Verdict.isMiss, Bool.or_false, Bool.or_true, ← hhunt, ← hmiss]
      rw [← hl, ← hstate]
      rfl
    refine ⟨fun i hi => ?_, fun hno => by rw [hv] at hno; cases hno⟩
    obtain rfl : j = i := by rw [hv] at hi; exact Verdict.cut.inj hi
    rw [hv]
    change anomaly 1 c j c.gate.val (trigger trigCut c.lane c.stamp
      (acceptCrossing c (.skip j) (fun l => { l with cutMark := true }) s)) = _
    rw [acceptCrossing_line hg, ← closed, gate]
    rfl
  · obtain ⟨he, -⟩ | ⟨-, hl⟩ := lane
    · rw [hv] at he
      cases he
    have closed : closedLane (classify s c) (.skip j) c s =
        sectorClosed (.skip j) (fun l => { l with missMark := true }) c s := by
      unfold closedLane
      rw [hv, if_neg nofun]
      simp only [Verdict.isCut, Verdict.isMiss, Bool.or_false, Bool.or_true, ← hhunt, ← hcut]
      rw [← hl, ← hstate]
      rfl
    have done : applyVerdict (classify s c) c s = t := by
      rw [hv]
      change acceptCrossing c (.skip j) (fun l => { l with missMark := true }) s = _
      rw [acceptCrossing_line hg, ← closed]
      rfl
    exact ⟨fun j hj => (by rw [hv] at hj; cases hj), fun _ => done⟩

/-! ### A record arrives at a book with an OPEN page (R98, R99) -/

/-- A record that arrives with nothing held, and finds the page at the cursor OPEN, is written into it (R98, R99). -/
theorem arriveLap_written {k : Lane} {s : State} (hq : s.port.turns = []) (hbooks : ∀ j, (s.lap j).bookQueue = [])
    (hopen : readByte s (pageHere k s) = 1) (r : LapRecord) :
    let l := s.lap k
    arriveLap k r s = { s with
      mem := (arriveLap k r s).mem
      port := { s.port with sum := s.port.sum ||| 4 }
      laps := { s.laps with lanes := put s.laps.lanes k { l with
        pageCursor := l.pageCursor + 1, bookLost := l.bookLost - min l.bookLost 255 } } } ∧
    PageShows (pageHere k s) { record := r, lost := min l.bookLost 255 } (arriveLap k r s) ∧
    ∀ j, ¬ Within (pageHere k s) 32 j → readByte (arriveLap k r s) j = readByte s j := by
  intro l
  obtain ⟨a, ha⟩ : ∃ a, a = withLap k { l with bookLost := l.bookLost - min l.bookLost 255 } s := ⟨_, rfl⟩
  have accepted : acceptLap k r s = (a, { record := r, lost := min l.bookLost 255 }) := by
    rw [ha]
    exact congrArg (·, _) (onLapLane_agrees (CrossingAgrees.refl k s) fun l => { l with bookLost := l.bookLost - min (s.lap k).bookLost 255 })
  have lane : a.lap k = { l with bookLost := l.bookLost - min l.bookLost 255 } := by rw [ha]; exact withLap_lap _ _ _
  have page : pageHere k a = pageHere k s := by unfold pageHere; rw [lane]
  have bytes : ∀ j, readByte a j = readByte s j := fun j => by rw [ha]; rfl
  have turns : a.port.turns = [] := by rw [ha]; exact hq
  obtain ⟨t, hw, honly, hshows, hspares⟩ := writePage_writes (k := k) turns (by rw [page, bytes]; exact hopen)
    { record := r, lost := min l.bookLost 255 }
  have written : arriveLap k r s = t := by
    unfold arriveLap
    rw [retryBooks_empty hbooks]
    dsimp only
    rw [hbooks k, accepted]
    simp only [pageOpen_eq turns, page, bytes, hopen, decide_true, if_true, hw]
  rw [written]
  rw [page] at hshows hspares
  refine ⟨?_, hshows, fun j hj => (hspares j hj).trans (bytes j)⟩
  rw [lane] at honly
  rw [honly, ha]
  simp only [withLap, put_put]

/-! ### A completion that does not finish its lane (R71) -/

def countedLap (l : LapLane) : LapLane := { l with laps := raise 65535 l.laps 1 }

/-- The lap counted and the running order re-sorted (R71, R173). -/
def lapOrdered (k : Lane) (s : State) : State := resort (withLap k (countedLap (s.lap k)) s)

/-- The record of the lap that a completion counts (R91). -/
def lapRecord (k : Lane) (x : Stamp) (s : State) : LapRecord :=
  buildRecord k x (pick s.laps.racers k) s.laps.label ((lapOrdered k s).standLane k).position
    (degraded (s.lap k).lapStart x s) (countedLap (s.lap k))

/-- The lane with its record written and its next lap begun (R71, R93, R96, R98). -/
def nextLap (k : Lane) (x : Stamp) (s : State) : LapLane :=
  { s.lap k with
    laps := raise 65535 (s.lap k).laps 1,
    bestLap := if (lapRecord k x s).isBest then (lapRecord k x s).net else (s.lap k).bestLap,
    pageCursor := (s.lap k).pageCursor + 1, bookLost := (s.lap k).bookLost - min (s.lap k).bookLost 255, lapStart := x,
    cutMark := false, missMark := false, unverified := false, lapTally := 0, splits := Splits.absent, lapFrozen := 0,
    haltService := servingHalt s k, capService := servingCap s k }

theorem startLap_eq (k : Lane) (x : Stamp) (w : State) : startLap k x w = withLap k { w.lap k with
    lapStart := x, cutMark := false, missMark := false, unverified := false, lapTally := 0, splits := Splits.absent,
    lapFrozen := 0, haltService := servingHalt w k, capService := servingCap w k } w := by
  simp only [startLap, markServices, State.onLapLane, State.onLaps, withLap, amend_eq_put, pick_put_same, put_put]
  rfl

theorem startLap_pushCheck (k : Lane) (x : Stamp) (v : RaceView) (s : State) :
    startLap k x (pushCheck k x v s) = pushCheck k x v (startLap k x s) := by
  unfold startLap
  rw [← markServices_pushCheck]
  refine congrArg (markServices k) ?_
  exact (pushCheck_onLapLane (f := fun l => { l with
    lapStart := x, cutMark := false, missMark := false, unverified := false, lapTally := 0,
    splits := Splits.absent, lapFrozen := 0 }) (fun _ => ⟨rfl, rfl⟩) k k x v s).symm

/-- What a completion that does not finish its lane makes of s, before the check for PUSH. -/
structure LapBegun (k : Lane) (x : Stamp) (s t : State) : Prop where
  only : t = { s with
    mem := t.mem
    port := { s.port with sum := s.port.sum ||| 4 }
    stand := (lapOrdered k s).stand
    laps := { s.laps with lanes := put s.laps.lanes k (nextLap k x s) } }
  shows : PageShows (pageHere k s) { record := lapRecord k x s, lost := min (s.lap k).bookLost 255 } t
  spares : ∀ j, ¬ Within (pageHere k s) 32 j → readByte t j = readByte s j

theorem completeLap_begins {s : State} {c : Crossing} {view : RaceView} (hq : s.port.turns = [])
    (hbooks : ∀ j, (s.lap j).bookQueue = []) (hopen : readByte s (pageHere c.lane s) = 1)
    (hpen : ((s.penLane c.lane).serving = none ∧ (s.penLane c.lane).queue = []) ∨ servingHalt s c.lane = true)
    (hgoes : ∀ u : State, u.race = s.race → lapCompleted c.lane c.stamp view u = (u, false)) :
    ∃ t, LapBegun c.lane c.stamp s t ∧ completeLap c view s = pushCheck c.lane c.stamp view t := by
  obtain ⟨k, hk⟩ : ∃ k, k = c.lane := ⟨_, rfl⟩
  obtain ⟨x, hx⟩ : ∃ x, x = c.stamp := ⟨_, rfl⟩
  rw [← hk] at hopen hpen hgoes ⊢
  rw [← hx] at hgoes ⊢
  obtain ⟨u, hu⟩ : ∃ u, u = withLap k (countedLap (s.lap k)) s := ⟨_, rfl⟩
  obtain ⟨v, hv⟩ : ∃ v, v = lapOrdered k s := ⟨_, rfl⟩
  obtain ⟨r, hr⟩ : ∃ r, r = lapRecord k x s := ⟨_, rfl⟩
  have vlaps : v.laps = u.laps := by rw [hv, hu]; rfl
  have vlap : v.lap k = countedLap (s.lap k) := by
    rw [show v.lap k = u.lap k from congrArg (fun e : LapEngine => pick e.lanes k) vlaps, hu]
    exact withLap_lap _ _ _
  obtain ⟨b, hb⟩ : ∃ b, b = withLap k { countedLap (s.lap k) with
    bestLap := if r.isBest then r.net else (s.lap k).bestLap, lapFrozen := 0 } v := ⟨_, rfl⟩
  have unfolded : completeLap c view s = startLap k x (penAcceptedLine k x true false view (arriveLap k r b)) := by
    have counted : s.onLapLane k (fun l => { l with laps := raise 65535 l.laps 1 }) = u :=
      (onLapLane_agrees (CrossingAgrees.refl k s) _).trans (by rw [hu]; rfl)
    have answer := hgoes u (by rw [hu]; rfl)
    unfold completeLap
    rw [← hk, ← hx]
    dsimp only
    rw [counted, answer]
    dsimp only
    rw [show resort u = v by rw [hu, hv]; rfl]
    have record : buildRecord k x (pick v.laps.racers k) v.laps.label (v.standLane k).position
        (degraded (v.lap k).lapStart x v) (v.lap k) = r := by
      have time : v.time = s.time := by rw [hv]; rfl
      have late : degraded (v.lap k).lapStart x v = degraded (s.lap k).lapStart x s := by
        unfold degraded
        rw [time, vlap]
        rfl
      have racers : v.laps.racers = s.laps.racers ∧ v.laps.label = s.laps.label := by rw [vlaps, hu]; exact ⟨rfl, rfl⟩
      rw [late, racers.1, racers.2, vlap, hr, hv]
      rfl
    rw [record, onLapLane_agrees (CrossingAgrees.refl k v), vlap, if_neg Bool.false_ne_true, hb]
    rfl
  have books : ∀ j, (b.lap j).bookQueue = [] := fun j => by
    have before : (v.lap j).bookQueue = [] := by
      by_cases hj : j = k
      · rw [hj, vlap]
        exact hbooks k
      · have other : v.lap j = s.lap j := by
          rw [show v.lap j = u.lap j from congrArg (fun e : LapEngine => pick e.lanes j) vlaps, hu]
          exact pick_put_ne _ _ hj
        rw [other]
        exact hbooks j
    by_cases hj : j = k
    · rw [hj, hb, withLap_lap]
      exact hbooks k
    · rw [hb]
      exact (congrArg LapLane.bookQueue (pick_put_ne _ _ hj)).trans before
  have lane : b.lap k = { countedLap (s.lap k) with
      bestLap := if r.isBest then r.net else (s.lap k).bestLap, lapFrozen := 0 } := by rw [hb]; exact withLap_lap _ _ _
  have page : pageHere k b = pageHere k s := by unfold pageHere; rw [lane]; rfl
  have bytes : ∀ j, readByte b j = readByte s j := fun j => by rw [hb, hv]; rfl
  obtain ⟨honly, hshows, hspares⟩ := arriveLap_written (k := k) (s := b) (by rw [hb, hv]; exact hq) books
    (by rw [page, bytes]; exact hopen) r
  obtain ⟨w, hw⟩ : ∃ w, w = arriveLap k r b := ⟨_, rfl⟩
  rw [← hw] at honly hshows hspares unfolded
  have wpen : w.pen = s.pen := by rw [honly, hb, hv]; rfl
  have free : ((w.penLane k).serving = none ∧ (w.penLane k).queue = []) ∨ servingHalt w k = true := by
    rw [penLane_of_pen wpen, servingHalt_pen (penLane_of_pen wpen k)]
    exact hpen
  rw [unfolded, penAcceptedLine_checks free, startLap_pushCheck]
  have bytes' : ∀ j, readByte (startLap k x w) j = readByte w j := fun j => by rw [startLap_eq]; rfl
  rw [page] at hshows hspares
  rw [lane] at honly hshows
  refine ⟨_, ⟨?_, ?_, fun j hj => (bytes' j).trans ((hspares j hj).trans (bytes j))⟩, rfl⟩
  · have services : servingHalt w k = servingHalt s k ∧ servingCap w k = servingCap s k :=
      ⟨servingHalt_pen (penLane_of_pen wpen k), by unfold servingCap; rw [penLane_of_pen wpen k]⟩
    have wlap : w.lap k = { countedLap (s.lap k) with
        bestLap := if r.isBest then r.net else (s.lap k).bestLap, lapFrozen := 0,
        pageCursor := (s.lap k).pageCursor + 1, bookLost := (s.lap k).bookLost - min (s.lap k).bookLost 255 } := by
      rw [honly]
      exact pick_put_same _ _ _
    have next : startLap k x w = withLap k (nextLap k x s) w := by
      rw [startLap_eq, services.1, services.2, wlap, hr]
      rfl
    obtain ⟨m, hm⟩ : ∃ m, m = w.mem := ⟨_, rfl⟩
    rw [next, honly, ← hm, hb, hv]
    unfold lapOrdered
    rw [resort_stand_only]
    simp only [withLap, put_put]
  · exact (hr ▸ hshows).congr fun j _ => bytes' j

end Sys2Proof.Machine

/-! PROOFS. A completion in a timed heat fills a page (R66, R67, R69 to R71, R86 to R99; O31). -/

namespace Sys2Proof.Machine

open Config

/-! ### The lane at the line (R70, R86, R89, R95) -/

theorem closedLane_eq {c : Crossing} (hg : c.gate = 0) (v : Verdict) (how : Accepted) (s : State) :
    let l := s.lap c.lane
    let n := (s.geom c.lane).gateCount
    let frozen := frozenAt s.laps.freezeStamp c.stamp l
    let sector := split24 (interval l.lastCrossing c.stamp - frozen)
    closedLane v how c s = { l with
      state := .lapping, huntFlag := if v = .huntEnd then false else l.huntFlag, last := 0, expected := 1 % n,
      lastCrossing := c.stamp, lastLine := some c.stamp, callMarker := false, stalled := false, stallRef := heatClock s,
      haltInSector := servingHalt s c.lane, cutMark := l.cutMark || v.isCut, missMark := l.missMark || v.isMiss,
      splits := placeSplit n 0 how sector l, bestSplits := placeBest n 0 how frozen sector l,
      lapFrozen := l.lapFrozen + frozen, sectorFrozen := 0 } := by
  intro l n frozen sector
  have gate : c.gate.val = 0 := congrArg Fin.val hg
  unfold closedLane sectorClosed accept closeSector
  simp only [gate, if_true]
  rfl

theorem resort_scores {s t : State} {e : LapEngine} (ht : t = withLaps e s) (h : SameScores e s) :
    (resort t).stand = (resort s).stand := by
  rw [ht, resort_withLaps h]
  rfl

/-- The running order after a completion goes by the lap counted and the line stamp (R173). -/
theorem lapOrdered_stand {c : Crossing} (hg : c.gate = 0) (how : Accepted) (s : State) :
    (lapOrdered c.lane (closedState how c s)).stand = (resort (withLap c.lane { s.lap c.lane with
      laps := min 65535 ((s.lap c.lane).laps + 1), lastLine := some c.stamp } s)).stand := by
  obtain ⟨a, ha⟩ : ∃ a, a = countedLap (closedLane (classify s c) how c s) := ⟨_, rfl⟩
  have ordered : lapOrdered c.lane (closedState how c s) = resort (withLap c.lane a s) := by
    unfold lapOrdered closedState
    rw [withLap_lap, ← ha]
    unfold withLap
    simp only [put_put]
  have scores : a.laps = min 65535 ((s.lap c.lane).laps + 1) ∧ a.lastLine = some c.stamp := by
    rw [ha, closedLane_eq hg]
    exact ⟨rfl, rfl⟩
  rw [ordered]
  refine resort_scores (e := (withLap c.lane a s).laps) rfl fun j => ?_
  by_cases hj : j = c.lane
  · rw [hj]
    change ((withLap c.lane a s).lap c.lane).laps = _ ∧ ((withLap c.lane a s).lap c.lane).lastLine = _
    rw [withLap_lap, withLap_lap]
    exact scores
  · have same : ∀ r, (withLap c.lane r s).lap j = s.lap j := fun r => pick_put_ne _ _ hj
    change ((withLap c.lane a s).lap j).laps = _ ∧ ((withLap c.lane a s).lap j).lastLine = _
    rw [same, same]
    exact ⟨rfl, rfl⟩

theorem placeBest_line {n : Nat} {v : Verdict} {how : Accepted} (h : Completes v how) (frozen sector : Nat) (l : LapLane) :
    ((v = .inOrder ∧ 2 ≤ n ∧ frozen = 0 ∧ ∀ b, l.bestSplits.slot n = some b → sector < b) →
      placeBest n 0 how frozen sector l = l.bestSplits.store n (some sector)) ∧
    (¬ (v = .inOrder ∧ 2 ≤ n ∧ frozen = 0 ∧ ∀ b, l.bestSplits.slot n = some b → sector < b) →
      placeBest n 0 how frozen sector l = l.bestSplits) := by
  have accepted : how = .inOrder ↔ v = .inOrder := by
    obtain ⟨hv, rfl⟩ | ⟨hv, rfl⟩ | ⟨j, hv | hv, rfl⟩ := h <;> simp [hv]
  have line : closedSector n 0 = n := rfl
  have test : (how = .inOrder ∧ 2 ≤ n ∧ frozen = 0 ∧ beatsSlot (l.bestSplits.slot n) sector = true) ↔
      (v = .inOrder ∧ 2 ≤ n ∧ frozen = 0 ∧ ∀ b, l.bestSplits.slot n = some b → sector < b) := by
    rw [beatsSlot_iff, accepted]
  unfold placeBest
  rw [line]
  exact ⟨fun hyes => if_pos (test.mpr hyes), fun hno => if_neg (mt test.mp hno)⟩

theorem placeSplit_line {n : Nat} {v : Verdict} {how : Accepted} (h : Completes v how) (sector : Nat) (l : LapLane)
    {splits : Splits} (hshort : n < 2 → splits = l.splits) (hhunt : 2 ≤ n → v = .huntEnd → splits = Splits.absent)
    (horder : 2 ≤ n → v = .inOrder → splits = l.splits.store n (some sector))
    (hskip : 2 ≤ n → ∀ j, v = .cut j ∨ v = .miss j →
      splits = (dropSectors l.expected j l.splits).store n (some sector)) :
    placeSplit n 0 how sector l = splits := by
  have line : closedSector n 0 = n := rfl
  unfold placeSplit
  rw [line]
  split
  next hn => exact (hshort hn).symm
  next hn =>
    have two : 2 ≤ n := not_lt.mp hn
    obtain ⟨hv, rfl⟩ | ⟨hv, rfl⟩ | ⟨j, hv, rfl⟩ := h
    · exact (horder two hv).symm
    · exact (hhunt two hv).symm
    · exact (hskip two j hv).symm

/-! ### The record of a lap whose raw time fits (R91, R92, R96) -/

theorem lapRecord_net {k : Lane} {x : Stamp} {s : State} (hraw : interval (s.lap k).lapStart x ≤ 0xFFFFFFFF) :
    (lapRecord k x s).net = interval (s.lap k).lapStart x - (s.lap k).lapFrozen ∧
      (lapRecord k x s).frozen = min (s.lap k).lapFrozen 0xFFFFFFFF := by
  obtain ⟨hfrozen, hnet, -⟩ := buildRecord_net k x (pick s.laps.racers k) s.laps.label ((lapOrdered k s).standLane k).position
    (degraded (s.lap k).lapStart x s) (countedLap (s.lap k))
  exact ⟨hnet hraw, hfrozen⟩

theorem lapRecord_flags {k : Lane} {x : Stamp} {s : State} (hraw : interval (s.lap k).lapStart x ≤ 0xFFFFFFFF) :
    let f := (lapRecord k x s).flags
    let l := s.lap k
    f.getLsbD 0 = l.cutMark ∧ f.getLsbD 1 = l.missMark ∧ f.getLsbD 2 = l.unverified ∧ f.getLsbD 4 = l.capService ∧
      f.getLsbD 5 = l.haltService ∧ f.getLsbD 6 = degraded l.lapStart x s ∧ (f.getLsbD 7 = true ↔ 0 < l.lapFrozen) ∧
      (f.getLsbD 3 = true ↔ l.cutMark = false ∧ l.unverified = false ∧ l.lapFrozen = 0 ∧
        (l.bestLap = 0 ∨ interval l.lapStart x - l.lapFrozen < l.bestLap)) := by
  intro f l
  obtain ⟨hcut, hmiss, hunverified, hcap, hhalt, hdeg, hcalled⟩ := buildRecord_flags k x (pick s.laps.racers k) s.laps.label
    ((lapOrdered k s).standLane k).position (degraded (s.lap k).lapStart x s) (countedLap (s.lap k))
  have best := buildRecord_isBest k x (pick s.laps.racers k) s.laps.label ((lapOrdered k s).standLane k).position
    (degraded (s.lap k).lapStart x s) (countedLap (s.lap k))
  have fits : (l.unverified || decide (0xFFFFFFFF < interval l.lapStart x)) = l.unverified := by
    rw [decide_eq_false (not_lt.mpr hraw), Bool.or_false]
  have unverified : f.getLsbD 2 = l.unverified := hunverified.trans fits
  have net := (lapRecord_net hraw).1
  refine ⟨hcut, hmiss, unverified, hcap, hhalt, hdeg, ?_, ?_⟩
  · rw [show f.getLsbD 7 = _ from hcalled, decide_eq_true_iff]
    change 0 < sat32 l.lapFrozen ↔ _
    unfold sat32
    omega
  · rw [← unverified, ← net]
    exact best

theorem lapCompleted_timed {u : State} {view : RaceView} {h : HeatSnapshot} (hview : view.state = .green)
    (hrun : u.race.state ≠ .idle) (hs : u.race.snapshot = some h) (hmode : h.endMode = .time) (k : Lane) (x : Stamp) :
    lapCompleted k x view u = (u, false) := by
  have phase : ¬ view.runoutPhase = true := by simp [RaceView.runoutPhase, hview, RaceState.frozen]
  have limit : ¬ reachesLimit u k view = true := by simp [reachesLimit, hs, hmode, EndMode.counted]
  unfold lapCompleted
  rw [if_neg hrun, if_neg phase, if_neg limit]

theorem closedState_lap (how : Accepted) (c : Crossing) (s : State) :
    (closedState how c s).lap c.lane = closedLane (classify s c) how c s := withLap_lap _ _ _

theorem closedState_other {c : Crossing} {j : Lane} (h : j ≠ c.lane) (how : Accepted) (s : State) :
    (closedState how c s).lap j = s.lap j := pick_put_ne _ _ h

/-- A lap completed that does not finish its lane: the next lap begun, the record in its page, the order re-sorted. -/
theorem completion_begins {s : State} {c : Crossing} {how : Accepted} (hg : c.gate = 0) (hq : s.port.turns = [])
    (hbooks : ∀ j, (s.lap j).bookQueue = []) (hopen : readByte s (pageHere c.lane s) = 1)
    (hpen : ((s.penLane c.lane).serving = none ∧ (s.penLane c.lane).queue = []) ∨ servingHalt s c.lane = true)
    (hgoes : ∀ w : State, w.race = s.race → lapCompleted c.lane c.stamp s.laps.view w = (w, false)) :
    let u := closedState how c s
    ∃ t, completeLap c s.laps.view u = pushCheck c.lane c.stamp s.laps.view t ∧
      t = { s with
        mem := t.mem
        port := { s.port with sum := s.port.sum ||| 4 }
        stand := t.stand
        laps := { s.laps with lanes := put s.laps.lanes c.lane (nextLap c.lane c.stamp u) } } ∧
      t.stand = (lapOrdered c.lane u).stand ∧
      PageShows (pageHere c.lane s)
        { record := lapRecord c.lane c.stamp u, lost := min (s.lap c.lane).bookLost 255 } t ∧
      ∀ j, ¬ Within (pageHere c.lane s) 32 j → readByte t j = readByte s j := by
  intro u
  have lane := closedState_lap how c s
  have closed := closedLane_eq hg (classify s c) how s
  have page : pageHere c.lane u = pageHere c.lane s := by
    unfold pageHere
    rw [lane, closed]
  have lost : (u.lap c.lane).bookLost = (s.lap c.lane).bookLost := by rw [lane, closed]
  have books : ∀ j, (u.lap j).bookQueue = [] := fun j => by
    by_cases hj : j = c.lane
    · rw [hj, lane, closed]
      exact hbooks _
    · rw [closedState_other hj]
      exact hbooks j
  obtain ⟨t, ⟨honly, hshows, hspares⟩, hdone⟩ := completeLap_begins (s := u) (c := c) (view := s.laps.view) hq books
    (by rw [page]; exact hopen) hpen hgoes
  rw [page] at hspares
  rw [page, lost] at hshows
  have stand : t.stand = (lapOrdered c.lane u).stand := by rw [honly]
  refine ⟨t, hdone, ?_, stand, hshows, hspares⟩
  rw [← stand] at honly
  refine honly.trans ?_
  simp only [u, closedState, withLap, put_put]

/-- What a record says of a lap that a line crossing completes (R91, R92, R96). -/
theorem lapRecord_closed {s : State} {c : Crossing} {how : Accepted} (hg : c.gate = 0)
    (hraw : interval (s.lap c.lane).lapStart c.stamp ≤ 0xFFFFFFFF) :
    let l := s.lap c.lane
    let v := classify s c
    let frozen := frozenAt s.laps.freezeStamp c.stamp l
    let lapFrozen := l.lapFrozen + frozen
    let net := interval l.lapStart c.stamp - lapFrozen
    let r := lapRecord c.lane c.stamp (closedState how c s)
    r.net = net ∧ r.frozen = min lapFrozen 0xFFFFFFFF ∧ r.flags.getLsbD 0 = (l.cutMark || v.isCut) ∧
      r.flags.getLsbD 1 = (l.missMark || v.isMiss) ∧ r.flags.getLsbD 2 = l.unverified ∧ r.flags.getLsbD 4 = l.capService ∧
      r.flags.getLsbD 5 = l.haltService ∧ r.flags.getLsbD 6 = degraded l.lapStart c.stamp s ∧
      (r.flags.getLsbD 7 = true ↔ 0 < lapFrozen) ∧
      (r.isBest = true ↔ (l.cutMark || v.isCut) = false ∧ l.unverified = false ∧ lapFrozen = 0 ∧
        (l.bestLap = 0 ∨ net < l.bestLap)) ∧
      r.lane = laneNo c.lane ∧ r.racer = pick s.laps.racers c.lane ∧ r.label = s.laps.label ∧
      r.tallies = min l.lapTally 255 ∧ r.lapNumber = min 65535 (l.laps + 1) ∧
      r.splits = placeSplit (s.geom c.lane).gateCount 0 how (split24 (interval l.lastCrossing c.stamp - frozen)) l ∧
      r.stamp = c.stamp := by
  intro l v frozen lapFrozen net r
  obtain ⟨u, hu⟩ : ∃ u, u = closedState how c s := ⟨_, rfl⟩
  have lane : u.lap c.lane = closedLane v how c s := by rw [hu]; exact closedState_lap how c s
  rw [closedLane_eq hg] at lane
  have fits : interval (u.lap c.lane).lapStart c.stamp ≤ 0xFFFFFFFF := by rw [lane]; exact hraw
  have late : ∀ b, degraded b c.stamp u = degraded b c.stamp s := fun b => by rw [hu]; rfl
  have same : r = lapRecord c.lane c.stamp u := by rw [hu]
  obtain ⟨hnet, hfrozen⟩ := lapRecord_net fits
  obtain ⟨fcut, fmiss, funverified, fcap, fhalt, fdeg, fcalled, fbest⟩ := lapRecord_flags fits
  have number : r.lapNumber = min (raise 65535 (u.lap c.lane).laps 1) 65535 := by rw [same]; rfl
  have tallies : r.tallies = min (u.lap c.lane).lapTally 255 := by rw [same]; rfl
  have splits : r.splits = (u.lap c.lane).splits := by rw [same]; rfl
  rw [late] at fdeg
  rw [← same] at hnet hfrozen fcut fmiss funverified fcap fhalt fdeg fcalled fbest
  simp only [lane] at hnet hfrozen fcut fmiss funverified fcap fhalt fdeg fcalled fbest number tallies splits
  refine ⟨hnet, hfrozen, fcut, fmiss, funverified, fcap, fhalt, fdeg, fcalled, fbest, rfl, rfl, rfl, tallies, ?_, splits, rfl⟩
  rw [number]
  change min (min 65535 (l.laps + 1)) 65535 = _
  omega

/-- The lane after a lap that a line crossing completes: its next lap begun at the line (R71, R93). -/
theorem nextLap_closed {s : State} {c : Crossing} {how : Accepted} (hg : c.gate = 0) (h : Completes (classify s c) how)
    (hcap : servingCap s c.lane = false) :
    let l := s.lap c.lane
    let n := (s.geom c.lane).gateCount
    let frozen := frozenAt s.laps.freezeStamp c.stamp l
    let sector := split24 (interval l.lastCrossing c.stamp - frozen)
    let r := lapRecord c.lane c.stamp (closedState how c s)
    nextLap c.lane c.stamp (closedState how c s) = { l with
      state := .lapping, huntFlag := if l.state = .hunt then false else l.huntFlag,
      laps := min 65535 (l.laps + 1), lapStart := c.stamp, lastCrossing := c.stamp, lastLine := some c.stamp,
      last := 0, expected := 1 % n, callMarker := false, stalled := false, stallRef := heatClock s,
      haltInSector := servingHalt s c.lane, cutMark := false, missMark := false, unverified := false, lapTally := 0,
      splits := Splits.absent, haltService := servingHalt s c.lane, capService := false, sectorFrozen := 0,
      lapFrozen := 0, bestSplits := placeBest n 0 how frozen sector l,
      bestLap := if r.isBest then r.net else l.bestLap, pageCursor := l.pageCursor + 1,
      bookLost := l.bookLost - min l.bookLost 255 } := by
  intro l n frozen sector r
  have hunted : (if classify s c = .huntEnd then false else l.huntFlag) = if l.state = .hunt then false else l.huntFlag := by
    refine if_congr ?_ rfl rfl
    obtain ⟨he, hl⟩ | ⟨hne, hl⟩ := completes_lane h
    · exact ⟨fun _ => hl, fun _ => he⟩
    · exact ⟨fun he => absurd he hne, fun hl' => by rw [hl] at hl'; cases hl'⟩
  have services : servingHalt (closedState how c s) c.lane = servingHalt s c.lane ∧
      servingCap (closedState how c s) c.lane = false := ⟨rfl, hcap⟩
  unfold nextLap
  rw [services.1, services.2, closedState_lap, closedLane_eq hg, ← hunted]
  rfl

theorem completes_of_case {v : Verdict} {st : LaneState} {n : Nat}
    (h : (v = .huntEnd ∧ st = .hunt) ∨ (st = .lapping ∧ (v = .inOrder ∨ (2 ≤ n ∧ ∃ j, v = .cut j ∨ v = .miss j)))) :
    ∃ how, Completes v how := by
  obtain ⟨hunt, -⟩ | ⟨-, hin | ⟨-, j, hj⟩⟩ := h
  · exact ⟨_, .inr (.inl ⟨hunt, rfl⟩)⟩
  · exact ⟨_, .inl ⟨hin, rfl⟩⟩
  · exact ⟨_, .inr (.inr ⟨j, hj, rfl⟩)⟩

/-- Settles O31 (`takeCrossing_completes`, `completion_begins`, `nextLap_closed`, `lapRecord_closed`). -/
theorem lapCompletionFillsAPage : Obligations.LapCompletionFillsAPage := by
  intro s c o h v k l n p m raw frozen lapFrozen net passed isCut isMiss cut miss best sector bestSector hview hrace hsnap
    hmode hn hgate hmin hraw hv hcase hpen hbooks hopen hq
  have cuts : isCut = v.isCut := by
    simp only [isCut]
    generalize v = w
    cases w <;> rfl
  have misses : isMiss = v.isMiss := by
    simp only [isMiss]
    generalize v = w
    cases w <;> rfl
  obtain ⟨how, completes⟩ := completes_of_case hcase
  have verdict : Completes (classify s c) how := hv ▸ completes
  obtain ⟨hcut, hgo⟩ := takeCrossing_completes o hgate verdict
  obtain ⟨t, hdone, honly, hstand, hshows, hspares⟩ := completion_begins (how := how) hgate hq hbooks hopen hpen fun w hw =>
    lapCompleted_timed hview (by rw [hw, hrace]; exact nofun) (by rw [hw]; exact hsnap) hmode _ _
  obtain ⟨rnet, rfrozen, rcut, rmiss, runverified, rcap, rhalt, rdeg, rcalled, rbest, rlane, rracer, rlabel, rtallies, rnumber,
    rsplits, rstamp⟩ := lapRecord_closed (how := how) hgate hraw
  have next := nextLap_closed hgate verdict (servingCap_unbegun hpen)
  obtain ⟨r, hr⟩ : ∃ r, r = lapRecord c.lane c.stamp (closedState how c s) := ⟨_, rfl⟩
  have rposition : r.position = (t.standLane k).position := by
    rw [hr, State.standLane, hstand]
    rfl
  rw [← hr] at hshows
  dsimp only at next
  rw [← hr] at next rnet rfrozen rcut rmiss runverified rcap rhalt rdeg rcalled rbest
  rw [← hr] at rlane rracer rlabel rtallies rnumber rsplits rstamp
  rw [← hv] at rcut rmiss rbest
  have shown : PageShows p { record := r, lost := m } t := hshows
  have cutIff : (l.cutMark || v.isCut) = true ↔ cut := by rw [Bool.or_eq_true, ← cuts]
  have missIff : (l.missMark || v.isMiss) = true ↔ miss := by rw [Bool.or_eq_true, ← misses]
  have bestIff : r.isBest = true ↔ best := by
    refine rbest.trans (and_congr ?_ Iff.rfl)
    rw [← cutIff, Bool.not_eq_true]
  have bests : placeBest n 0 how frozen sector l = if bestSector then l.bestSplits.store n (some sector) else l.bestSplits := by
    obtain ⟨hyes, hno⟩ := placeBest_line (n := n) completes frozen sector l
    split
    next h => exact hyes h
    next h => exact hno h
  have lap : (if r.isBest = true then r.net else l.bestLap) = if best then net else l.bestLap := by
    rw [rnet]
    exact if_congr bestIff rfl rfl
  refine ⟨t, pushCheck k c.stamp s.laps.view t, pushCheck_checked _ _ _ _, fun j hj => ?_, fun hno => ?_, ?_, ?_,
    shown.state, ?_, ?_, ?_, ?_, ?_, ?_, ?_, ?_, ?_, fun splits hsplits => ?_, ?_, ?_, ?_, ?_, ?_, ?_, ?_, ?_, ?_, hspares⟩
  · have laps : (trigger trigCut k c.stamp (pushCheck k c.stamp s.laps.view t)).laps = t.laps := by simp
    refine (hcut j (hv ▸ hj)).trans ?_
    rw [hdone]
    unfold anomaly
    rw [laps, honly]
  · rw [← hdone]
    exact hgo (by rw [← hv, ← cuts]; exact hno)
  · rw [← lap, ← bests]
    rw [next] at honly
    exact honly
  · rw [hstand]
    exact lapOrdered_stand hgate how s
  · rw [readField_one, shown.lane, BitVec.toNat_ofNat, rlane]
    exact Nat.mod_eq_of_lt (by unfold laneNo; omega)
  · rw [shown.racer, rracer]
  · rw [shown.label, rlabel]
  · rw [shown.position, rposition]
  · exact shown.lost.trans (Nat.mod_eq_of_lt (show min l.bookLost 255 < 256 by omega))
  · rw [shown.tallies, rtallies]
    exact Nat.mod_eq_of_lt (by omega)
  · rw [shown.lapNumber, rnumber]
    exact Nat.mod_eq_of_lt (by omega)
  · rw [shown.net, rnet]
    exact Nat.mod_eq_of_lt (lt_of_le_of_lt (Nat.sub_le _ _) (Nat.lt_succ_of_le hraw))
  · rw [shown.frozen, rfrozen]
    exact Nat.mod_eq_of_lt (by omega)
  · obtain ⟨hshort, hhunt, horder, hskip⟩ := hsplits
    have placed := rsplits.trans (placeSplit_line completes sector l hshort hhunt horder hskip)
    rw [← placed]
    exact ⟨shown.one, shown.two, shown.three⟩
  · rw [shown.stamp, rstamp]
  · rw [shown.flags, rcut]
    exact cutIff
  · rw [shown.flags, rmiss]
    exact missIff
  · rw [shown.flags, runverified]
  · rw [shown.flags]
    exact bestIff
  · rw [shown.flags, rcap]
  · rw [shown.flags, rhalt]
  · rw [shown.flags, rdeg]
  · rw [shown.flags]
    exact rcalled

end Sys2Proof.Machine

/-! PROOFS. Race control's answer to a completion, and the completion that finishes its lane (R66, R71, R77, R112, R114;
O32). The heat's label and racers at the lap engine change at a staging alone. -/

namespace Sys2Proof.Machine

open Config

/-! ### Label and racers (R56) -/

@[simp] theorem State.onLapLane_named (k : Lane) (f : LapLane → LapLane) (s : State) :
    (s.onLapLane k f).laps.racers = s.laps.racers ∧ (s.onLapLane k f).laps.label = s.laps.label := ⟨rfl, rfl⟩

@[simp] theorem handChange_named (c : ChangeKind) (x : Stamp) (s : State) :
    (handChange c x s).laps.racers = s.laps.racers ∧ (handChange c x s).laps.label = s.laps.label := ⟨rfl, rfl⟩

@[simp] theorem dropServing_named (k : Lane) (x : Stamp) (s : State) :
    (dropServing k x s).laps.racers = s.laps.racers ∧ (dropServing k x s).laps.label = s.laps.label := by
  unfold dropServing
  split
  · exact ⟨rfl, rfl⟩
  next e _ => cases e.kind <;> simp [lapHaltEnds]

@[simp] theorem endService_named (k : Lane) (x : Stamp) (sub n : Nat) (s : State) :
    (endService k x sub n s).laps.racers = s.laps.racers ∧ (endService k x sub n s).laps.label = s.laps.label := by
  unfold endService
  split
  · exact ⟨rfl, rfl⟩
  · simp

@[simp] theorem beginService_named (k : Lane) (x : Stamp) (s : State) :
    (beginService k x s).laps.racers = s.laps.racers ∧ (beginService k x s).laps.label = s.laps.label := by
  unfold beginService
  split
  · exact ⟨rfl, rfl⟩
  next e _ => cases e.kind <;> simp [lapHaltBegins]

@[simp] theorem penAcceptedLine_named (k : Lane) (x : Stamp) (c f : Bool) (v : RaceView) (s : State) :
    (penAcceptedLine k x c f v s).laps.racers = s.laps.racers ∧ (penAcceptedLine k x c f v s).laps.label = s.laps.label := by
  generalize e : penAcceptedLine k x c f v s = t
  simp only [penAcceptedLine, advanceCap] at e
  (repeat' split at e) <;> subst e <;> simp

@[simp] theorem penFinish_named (k : Lane) (x : Stamp) (s : State) :
    (penFinish k x s).laps.racers = s.laps.racers ∧ (penFinish k x s).laps.label = s.laps.label := by
  generalize e : penFinish k x s = t
  simp only [penFinish] at e
  (repeat' split at e) <;> subst e <;> simp

@[simp] theorem writePage_named (k : Lane) (h : HeldLap) (s : State) :
    (writePage k h s).1.laps.racers = s.laps.racers ∧ (writePage k h s).1.laps.label = s.laps.label := by
  generalize e : (writePage k h s).1 = t
  simp only [writePage] at e
  split at e <;> subst e <;> simp

@[simp] theorem retryLaps_named (k : Lane) (hs : List HeldLap) (s : State) :
    (retryLaps k hs s).laps.racers = s.laps.racers ∧ (retryLaps k hs s).laps.label = s.laps.label := by
  induction hs generalizing s with
  | nil => exact ⟨rfl, rfl⟩
  | cons h rest ih =>
    unfold retryLaps
    dsimp only
    split
    · split
      · simp [ih]
      · simp
    · simp

@[simp] theorem retryBooks_named (s : State) :
    (retryBooks s).laps.racers = s.laps.racers ∧ (retryBooks s).laps.label = s.laps.label := by
  unfold retryBooks
  generalize allLanes = ks
  induction ks generalizing s with
  | nil => exact ⟨rfl, rfl⟩
  | cons k ks ih =>
    have first : (retryBook k s).laps.racers = s.laps.racers ∧ (retryBook k s).laps.label = s.laps.label :=
      retryLaps_named k _ s
    rw [List.foldl_cons]
    exact ⟨(ih _).1.trans first.1, (ih _).2.trans first.2⟩

@[simp] theorem arriveLap_named (k : Lane) (r : LapRecord) (s : State) :
    (arriveLap k r s).laps.racers = s.laps.racers ∧ (arriveLap k r s).laps.label = s.laps.label := by
  have accepted : ∀ u : State, (acceptLap k r u).1.laps.racers = u.laps.racers ∧ (acceptLap k r u).1.laps.label = u.laps.label :=
    fun _ => ⟨rfl, rfl⟩
  have held : ∀ (h : HeldLap) (u : State), (holdLap k h u).laps.racers = u.laps.racers ∧
      (holdLap k h u).laps.label = u.laps.label := fun _ _ => ⟨rfl, rfl⟩
  generalize e : arriveLap k r s = t
  simp only [arriveLap] at e
  (repeat' split at e) <;> subst e <;> simp [accepted, held]

@[simp] theorem raceFinish_named (k : Lane) (x : Stamp) (s : State) :
    (raceFinish k x s).laps.racers = s.laps.racers ∧ (raceFinish k x s).laps.label = s.laps.label := by
  generalize e : raceFinish k x s = t
  simp only [raceFinish, settle] at e
  (repeat' split at e) <;> subst e <;> simp

@[simp] theorem finishLane_named (k : Lane) (x : Stamp) (afterCut : Bool) (s : State) :
    (finishLane k x afterCut s).laps.racers = s.laps.racers ∧ (finishLane k x afterCut s).laps.label = s.laps.label := by
  rw [finishLane_eq]
  simp [endedLane]

@[simp] theorem enterRunout_named (x : Stamp) (cause : Nat) (by_ : Option Lane) (s : State) :
    (enterRunout x cause by_ s).laps.racers = s.laps.racers ∧ (enterRunout x cause by_ s).laps.label = s.laps.label := by
  unfold enterRunout
  dsimp only
  split <;> simp [expireRunout, setLamps]

@[simp] theorem lapCompleted_named (k : Lane) (x : Stamp) (v : RaceView) (s : State) :
    (lapCompleted k x v s).1.laps.racers = s.laps.racers ∧ (lapCompleted k x v s).1.laps.label = s.laps.label := by
  generalize e : (lapCompleted k x v s).1 = t
  simp only [lapCompleted, limitInCall] at e
  (repeat' split at e) <;> subst e <;> simp

/-! ### Race control's answer (R112) -/

theorem reachesLimit_iff {s : State} {h : HeatSnapshot} (hs : s.race.snapshot = some h) (k : Lane) (view : RaceView) :
    reachesLimit s k view = true ↔
      (view.state = .green ∨ ((view.state = .called ∨ view.state = .resuming) ∧ view.calledFrom = .green)) ∧
        h.endMode ≠ .time ∧ h.lapLimit ≤ (s.lap k).laps - (s.penLane k).deducted := by
  have counted : h.endMode.counted = true ↔ h.endMode ≠ .time := by cases h.endMode <;> simp [EndMode.counted]
  unfold reachesLimit
  rw [hs]
  simp only [Bool.and_eq_true, Bool.or_eq_true, decide_eq_true_eq, counted, frozen_iff, and_assoc]
  rfl

theorem limitInCall_handed {s : State} {h : HeatSnapshot} (hs : s.race.snapshot = some h) (x : Stamp) (k : Lane) :
    ∃ u, u = { s with race := { s.race with
        calledFrom := .runout, timeLimitWatch := false, runoutDeadline := some (heatClock s + h.runoutLimit),
        runoutWait := true, runoutBackup := h.runoutLimit } } ∧
      limitInCall x k s = { deliver (runoutNoticeOf h x 2 (some k) s) u with
        laps := { s.laps with changes := s.laps.changes ++ [{ kind := .runout, stamp := x }] } } := by
  obtain ⟨u, hu⟩ : ∃ u, u = { s with race := { s.race with
    calledFrom := .runout, timeLimitWatch := false, runoutDeadline := some (heatClock s + h.runoutLimit),
    runoutWait := true, runoutBackup := h.runoutLimit } } := ⟨_, rfl⟩
  have snapshot : u.race.snapshot = some h := by rw [hu]; exact hs
  have noticed : runoutNotice 2 (some k) x u = deliver (runoutNoticeOf h x 2 (some k) s) u := by
    unfold runoutNotice runoutNoticeOf
    dsimp only
    rw [currentLabel_some snapshot, currentRacer_some snapshot, hu]
  have unfolded : limitInCall x k s = handChange .runout x (runoutNotice 2 (some k) x u) := by
    have limit : runoutLimit s = h.runoutLimit := by simp only [runoutLimit, hs]
    unfold limitInCall
    rw [limit, hu]
    rfl
  refine ⟨u, hu, ?_⟩
  have laps : (deliver (runoutNoticeOf h x 2 (some k) s) u).laps = s.laps := by
    rw [hu]
    simp
  rw [unfolded, noticed, handChange, State.onLaps, laps]

/-! ### A completion that finishes its lane (R71, R77) -/

theorem completeLap_finishes {s : State} {c : Crossing} {view : RaceView}
    (h : (lapCompleted c.lane c.stamp view (withLap c.lane (countedLap (s.lap c.lane)) s)).2 = true) :
    CompletionFinishes c.lane c.stamp view
      (lapCompleted c.lane c.stamp view (withLap c.lane (countedLap (s.lap c.lane)) s)).1 (completeLap c view s) := by
  obtain ⟨r, hr⟩ : ∃ r, r = lapCompleted c.lane c.stamp view (withLap c.lane (countedLap (s.lap c.lane)) s) := ⟨_, rfl⟩
  have counted : s.onLapLane c.lane (fun l => { l with laps := raise 65535 l.laps 1 }) =
      withLap c.lane (countedLap (s.lap c.lane)) s := onLapLane_agrees (CrossingAgrees.refl c.lane s) _
  rw [← hr] at h ⊢
  unfold completeLap
  dsimp only
  rw [counted, ← hr, h, if_pos rfl, onLapLane_agrees (CrossingAgrees.refl c.lane (resort r.1))]
  exact finishLane_finished _ _ _ _

theorem completeLap_named {s : State} {c : Crossing} (view : RaceView) :
    (completeLap c view s).laps.racers = s.laps.racers ∧ (completeLap c view s).laps.label = s.laps.label := by
  unfold completeLap
  dsimp only
  split <;> simp [startLap, markServices]

/-- Settles O32 (`limitInCall_handed`, `takeCrossing_completes`, `completeLap_finishes`). -/
theorem completionsReachTheLapLimitAndFinish : Obligations.CompletionsReachTheLapLimitAndFinish := by
  refine ⟨?_, ?_⟩
  · intro s k x view h hs r runout limit inCall
    have phase : view.runoutPhase = true ↔ runout := by rw [runoutPhase_iff, frozen_iff]
    have reaches : reachesLimit s k view = true ↔ limit := reachesLimit_iff hs k view
    have apart : limit → ¬ runout := by
      rintro ⟨hg | ⟨hc, hg⟩, -⟩ (hr | ⟨hc', hr⟩)
      · rw [hg] at hr; cases hr
      · rw [hg] at hc'; obtain he | he := hc' <;> cases he
      · rw [hr] at hc; obtain he | he := hc <;> cases he
      · rw [hg] at hr; cases hr
    refine ⟨fun hidle => if_pos hidle, fun hrun hyes => ?_, fun hrun hno hnot => ?_, fun hrun hyes => ?_⟩
    · exact (if_neg hrun).trans (if_pos (phase.mpr hyes))
    · exact (if_neg hrun).trans ((if_neg (mt phase.mp hno)).trans (if_neg (mt reaches.mp hnot)))
    · have answer : r = (if s.race.state = .green then enterRunout x 2 (some k) s
          else if s.race.state.frozen && decide (s.race.calledFrom = .green) then limitInCall x k s else s, true) :=
        (if_neg hrun).trans ((if_neg (mt phase.mp (apart hyes))).trans (if_pos (reaches.mpr hyes)))
      have calls : (s.race.state.frozen && decide (s.race.calledFrom = .green)) = true ↔ inCall := by
        rw [Bool.and_eq_true, decide_eq_true_iff, frozen_iff]
      rw [answer]
      refine ⟨rfl, fun hgreen _ _ => ?_, fun hcall => ?_, fun hgreen hcall => ?_⟩
      · rw [if_pos hgreen]
        exact enterRunout_entered x 2 (some k) s hs (by rw [hgreen]; rfl)
      · have notGreen : ¬ s.race.state = .green := by
          rintro he
          obtain ⟨hc | hc, -⟩ := hcall <;> rw [he] at hc <;> cases hc
        rw [if_neg notGreen, if_pos (calls.mpr hcall)]
        exact limitInCall_handed hs x k
      · rw [if_neg hgreen, if_neg (mt calls.mp hcall)]
  · intro s c o how k l n v isCut isMiss hgate hv closed counted r hfinishes
    have cuts : isCut = v.isCut := by
      simp only [isCut]
      generalize v = w
      cases w <;> rfl
    have misses : isMiss = v.isMiss := by
      simp only [isMiss]
      generalize v = w
      cases w <;> rfl
    have verdict : Completes (classify s c) how := by
      obtain hin | hunt | ⟨j, hj⟩ := hv
      · exact .inl hin
      · exact .inr (.inl hunt)
      · exact .inr (.inr ⟨j, hj⟩)
    have gate : c.gate.val = 0 := congrArg Fin.val hgate
    have same : counted = withLap c.lane (countedLap ((closedState how c s).lap c.lane)) (closedState how c s) := by
      have lane : countedLap (closedLane v how c s) = { closed with
          state := .lapping, huntFlag := if v = .huntEnd then false else l.huntFlag, laps := min 65535 (l.laps + 1),
          cutMark := l.cutMark || isCut, missMark := l.missMark || isMiss } := by
        rw [cuts, misses]
        unfold countedLap closedLane sectorClosed
        rw [gate]
        rfl
      have twice : withLap c.lane (countedLap (closedLane v how c s)) (closedState how c s) =
          withLap c.lane (countedLap (closedLane v how c s)) s := by
        simp only [closedState, withLap, put_put]
      rw [closedState_lap]
      refine Eq.trans ?_ twice.symm
      rw [lane]
      rfl
    obtain ⟨hcut, hgo⟩ := takeCrossing_completes o hgate verdict
    have finishes := completeLap_finishes (s := closedState how c s) (c := c) (view := s.laps.view) (by rw [← same]; exact hfinishes)
    rw [← same] at finishes
    obtain ⟨racers, label⟩ := completeLap_named (s := closedState how c s) (c := c) s.laps.view
    refine ⟨_, finishes, fun j hj => (hcut j hj).trans ?_, fun hno => hgo (by rw [← hno, cuts])⟩
    have laps : ∀ w, (trigger trigCut k c.stamp w).laps = w.laps := fun w => by simp
    unfold anomaly
    rw [laps, racers, label]
    rfl

end Sys2Proof.Machine

/-! PROOFS. The last finish settles the heat (R117, R118, R182; O43). -/

namespace Sys2Proof.Machine

open Config

/-! ### The fold of the heat into the tally (R182) -/

/-- Nothing but bytes of tally entries differs. -/
structure TallyOnly (s t : State) : Prop where
  only : t = { s with mem := t.mem }
  spares : ∀ j, (∀ i, ¬ Within (tallyAddr i) 27 j) → readByte t j = readByte s j

theorem TallyOnly.refl (s : State) : TallyOnly s s := ⟨rfl, fun _ _ => rfl⟩

theorem TallyOnly.trans {s t u : State} (h : TallyOnly s t) (g : TallyOnly t u) : TallyOnly s u :=
  ⟨memOnly_trans h.only g.only, fun j hj => (g.spares j hj).trans (h.spares j hj)⟩

theorem TallyOnly.turns {s t : State} (h : TallyOnly s t) (hq : s.port.turns = []) : t.port.turns = [] := by
  rw [h.only]
  exact hq

theorem writeTallyZero_tallyOnly (state racer : Byte) (i : Fin 64) (s : State) (hq : s.port.turns = []) :
    TallyOnly s (writeTallyZero state racer i s) :=
  ⟨updateBlock_eq _ _ s hq, fun _ hj => writeTallyZero_spares state racer i s hq (hj i)⟩

theorem foldTarget_tallyOnly (racer : Byte) (s : State) (hq : s.port.turns = []) :
    TallyOnly s (foldTarget racer s).2 := by
  unfold foldTarget
  rw [gather_idle s hq]
  dsimp only
  split
  · exact .refl s
  · split
    · exact writeTallyZero_tallyOnly _ _ _ s hq
    · exact .refl s

theorem foldLane_tallyOnly (label : Byte) (s : State) (k : Lane) (hq : s.port.turns = []) :
    TallyOnly s (foldLane label s k) := by
  have target := foldTarget_tallyOnly (pick s.stand.racers k) s hq
  unfold foldLane
  dsimp only
  split
  · exact .refl s
  · split
    next ht => rwa [ht] at target
    next i t ht =>
      rw [ht] at target
      have hq' := target.turns hq
      rw [gather_idle t hq']
      refine target.trans ⟨updateBlock_eq _ _ t hq', fun j hj => ?_⟩
      have outside := hj i
      simp only [Within] at outside
      refine updateBlock_outside _ j _ t hq' (by omega) ?_
      simp only [List.forall_mem_cons, bytesOf_length, List.length_append]
      refine ⟨by omega, ?_, fun f hf => by simp at hf⟩
      split
      all_goals
        simp only [bytesOf_length, List.length_append, List.length_singleton]
        omega

/-- The heat of the first i lanes folded into the tally. -/
def foldedUpTo (s : State) (i : Nat) : State := (allLanes.take i).foldl (foldLane s.stand.label) s

theorem foldedUpTo_succ (s : State) (k : Lane) :
    foldedUpTo s (k.val + 1) = foldLane s.stand.label (foldedUpTo s k.val) k := by
  have next : allLanes.take (k.val + 1) = allLanes.take k.val ++ [k] := by decide +revert
  simp only [foldedUpTo, next, List.foldl_append, List.foldl_cons, List.foldl_nil]

theorem foldedUpTo_all (s : State) : foldedUpTo s 8 = foldTally s.stand.label s := rfl

theorem foldTally_tallyOnly (label : Byte) (s : State) (hq : s.port.turns = []) : TallyOnly s (foldTally label s) := by
  have each : ∀ (ks : List Lane) (s : State), s.port.turns = [] → TallyOnly s (ks.foldl (foldLane label) s) := by
    intro ks
    induction ks with
    | nil => exact fun s _ => .refl s
    | cons k ks ih =>
      intro s hq
      have first := foldLane_tallyOnly label s k hq
      exact first.trans (ih _ (first.turns hq))
  exact each allLanes s hq

/-! ### The entry of a settled heat (R118) -/

/-- The final order and the settle stamp written, and ENDED where the entry still reads RUNNING. -/
def endEntry (order : List Lane) (x : Stamp) (s : State) : State :=
  let a := entryAddr s.race.cardCursor
  let r := recheck a 0xFF 2 (deviceWrite (a + 36) (orderBytes order ++ stampBytes x) s)
  if r.2 then deviceWrite a [3] r.1 else r.1

theorem orderBytes_length (ks : List Lane) : (orderBytes ks).length = 8 := by
  simp [orderBytes]

theorem orderBytes_get (ks : List Lane) (i : Nat) (hi : i < (orderBytes ks).length) :
    (orderBytes ks)[i].toNat = (match ks[i]? with
      | some j => laneNo j
      | none => 0) := by
  rw [orderBytes_length] at hi
  simp only [orderBytes, List.getElem_take]
  by_cases h : i < ks.length
  · rw [List.getElem_append_left (by simpa using h), List.getElem?_eq_getElem h]
    have := ks[i].isLt
    simp only [List.getElem_map, BitVec.toNat_ofNat, laneNo]
    omega
  · rw [List.getElem_append_right (by simpa using h), List.getElem?_eq_none (by omega), List.getElem_replicate]
    rfl

theorem endEntry_written (order : List Lane) (x : Stamp) (s : State) (hq : s.port.turns = []) :
    let a := entryAddr s.race.cardCursor
    let u := endEntry order x s
    u = { s with mem := u.mem } ∧ readByte u a = (if readByte s a = 2 then 3 else readByte s a) ∧
    Holds u (a + 36) (orderBytes order ++ stampBytes x) ∧
    ∀ j, j ≠ a → ¬ Within (a + 36) 13 j → readByte u j = readByte s j := by
  have hb := entryAddr_bounds s.race.cardCursor
  have length : (orderBytes order ++ stampBytes x).length = 13 := by
    rw [List.length_append, orderBytes_length, stampBytes_length]
  have hmem : memSize = 0x8000 := rfl
  unfold endEntry
  generalize entryAddr s.race.cardCursor = a at hb
  generalize orderBytes order ++ stampBytes x = bs at length
  intro a' u
  obtain ⟨w, hw⟩ : ∃ w, w = writeBytes (a + 36) bs s := ⟨_, rfl⟩
  have only : w = { s with mem := w.mem } := by rw [hw]; rfl
  have outside : ∀ j, ¬ Within (a + 36) 13 j → readByte w j = readByte s j := fun j hj => by
    simp only [Within] at hj
    rw [hw, readByte_writeBytes_outside _ _ _ _ (by omega)]
  have held : Holds w (a + 36) bs := by rw [hw]; exact holds_writeBytes s _ bs (by omega)
  have state := outside a (by simp only [Within]; omega)
  have hu : u = if readByte s a = 2 then writeBytes a [3] w else w := by
    have hq' : w.port.turns = [] := by rw [only]; exact hq
    have masked : readByte w a &&& 0xFF = readByte s a := by rw [state]; exact BitVec.and_allOnes
    simp only [u, deviceWrite_idle s hq, ← hw, recheck_idle w hq', deviceWrite_idle w hq', masked, decide_eq_true_eq]
  clear_value u
  rw [hu]
  split
  next hrun =>
    have low : ∀ j, j ≠ a → readByte (writeBytes a [3] w) j = readByte w j := fun j hj =>
      readByte_writeBytes_outside _ _ _ _ (by simp; omega)
    refine ⟨by rw [only]; rfl, readByte_writeByte_same _ _ _ (by omega), held.congr fun j hj => low j ?_, fun j hj ho => ?_⟩
    · simp only [Within] at hj; omega
    · exact (low j hj).trans (outside j ho)
  next hrun => exact ⟨only, state, held, fun j _ ho => outside j ho⟩

/-! ### The settle (R118) -/

/-- The lane of the best racer, as the HEAT notice of a settle names it; 0 where no lane raced. -/
def bestLane : List Lane → Nat
  | k :: _ => laneNo k
  | [] => 0

/-- Race control's own state after a settle. -/
def settledRace (r : RaceControl) : RaceControl :=
  { raceIdle r with cardCursor := r.cardCursor + 1, snapshot := none }

theorem settle_eq (x : Stamp) (s : State) :
    let u := endEntry (finalOrder s) x (foldTally s.stand.label s)
    settle x s = powerIdle x (penIdle (handChange .settle x
      ((timeIdle x (heatNotice 6 (currentLabel u) x (bestLane (finalOrder s)) u)).onRace settledRace))) := by
  intro u
  unfold settle
  simp only [u, endEntry]
  cases finalOrder s <;> rfl

/-- What a settle leaves of each block, once the entry is written (R118, R157, R169). -/
theorem settle_settled {s : State} {h : HeatSnapshot} (x : Stamp) (hq : s.port.turns = []) (hs : s.race.snapshot = some h) :
    let u := endEntry (finalOrder s) x (foldTally s.stand.label s)
    settle x s = { deliver (plainNotice .heat 6 h.label x s.race.cardCursor.val (bestLane (finalOrder s))) u with
      race := settledRace s.race
      laps := { s.laps with changes := s.laps.changes ++ [{ kind := .settle, stamp := x }] }
      time := { s.time with racingTicks := racingTicksAt x s, idleNow := true }
      pen := { s.pen with heatStaged := false }
      power := { s.power with state := .idle, liveGrid := false, lanes := s.power.lanes.map idleLane } } := by
  intro u
  have folded := foldTally_tallyOnly s.stand.label s hq
  obtain ⟨only, -⟩ := endEntry_written (finalOrder s) x _ (folded.turns hq)
  have all : u = { s with mem := u.mem } := memOnly_trans folded.only only
  have whole : settle x s = powerIdle x (penIdle (handChange .settle x
      ((timeIdle x (heatNotice 6 (currentLabel u) x (bestLane (finalOrder s)) u)).onRace settledRace))) := settle_eq x s
  clear_value u
  have race : u.race = s.race := by rw [all]
  have laps : u.laps = s.laps := by rw [all]
  have time : u.time = s.time := by rw [all]
  have pen : u.pen = s.pen := by rw [all]
  have power : u.power = s.power := by rw [all]
  have label : currentLabel u = h.label := currentLabel_some (by rw [race, hs])
  rw [whole, powerIdle_eq]
  unfold heatNotice
  rw [label, race]
  generalize hn : plainNotice .heat 6 h.label x s.race.cardCursor.val (bestLane (finalOrder s)) = n
  obtain ⟨-, -, dtime, -, drace, dlaps, dpen, dpower, -, -⟩ := deliver_keeps n u
  have ticks := racingTicksAt_congr (s := s) (t := deliver n u) x (dtime.trans time) (by rw [drace, race])
  generalize deliver n u = d at *
  simp only [penIdle, handChange, timeIdle, stopRacing, State.onRace, State.onTime, State.onPen, State.onLaps, ticks,
    drace, dlaps, dpen, dpower, dtime, race, laps, time, pen, power]

/-! ### The last finish (R117) -/

theorem raceFinish_joins {s : State} {k : Lane} {x : Stamp} {h : HeatSnapshot} (hr : s.race.state ≠ .idle)
    (hs : s.race.snapshot = some h) (hk : pick h.racers k ≠ 0) (hf : pick s.race.finishedSet k = false) :
    let v := s.onRace fun r => { r with finishedSet := put r.finishedSet k true }
    raceFinish k x s = if allFinished v then settle x v else v := by
  intro v
  unfold raceFinish
  have occupied : occupiedLane s k = true := by rw [occupiedLane, currentRacer_some hs]; exact decide_eq_true hk
  rw [if_neg (by simp [hr, hf, occupied])]

theorem allFinished_iff {s : State} {k : Lane} {h : HeatSnapshot} (hs : s.race.snapshot = some h) :
    allFinished (s.onRace fun r => { r with finishedSet := put r.finishedSet k true }) = true ↔
      ∀ j, j ≠ k → pick h.racers j ≠ 0 → pick s.race.finishedSet j = true := by
  have racer : ∀ j, currentRacer (s.onRace fun r => { r with finishedSet := put r.finishedSet k true }) j = pick h.racers j :=
    currentRacer_some hs
  have set : ∀ j, pick (s.onRace fun r => { r with finishedSet := put r.finishedSet k true }).race.finishedSet j = true ↔
      j = k ∨ pick s.race.finishedSet j = true := fun j => by
    change pick (put s.race.finishedSet k true) j = true ↔ _
    by_cases hj : j = k
    · rw [hj, pick_put_same]; simp
    · rw [pick_put_ne _ _ hj]; simp [hj]
  simp only [allFinished, occupiedLane, List.all_eq_true, Bool.or_eq_true, Bool.not_eq_true', decide_eq_false_iff_not,
    racer, set, allLanes_eq, List.mem_finRange, forall_const]
  refine forall_congr' fun j => ?_
  tauto

/-- Settles O43 (`foldTally_tallyOnly`, `endEntry_written`, `settle_settled`). -/
theorem lastFinishSettlesTheHeat : Obligations.LastFinishSettlesTheHeat := by
  intro s k x h hq hr hs hk hf a t
  have joins : t = _ := raceFinish_joins (x := x) hr hs hk hf
  clear_value t
  have finished := allFinished_iff (k := k) hs
  obtain ⟨v, hv⟩ : ∃ v, v = s.onRace fun r => { r with finishedSet := put r.finishedSet k true } := ⟨_, rfl⟩
  rw [← hv] at joins finished
  refine ⟨fun ⟨j, hj, hracer, hout⟩ => ?_, fun hall => ?_⟩
  · rw [joins, if_neg, hv]
    · rfl
    · rw [finished]
      intro hall
      rw [hall j hj hracer] at hout
      cases hout
  · have settled : t = settle x v := by rw [joins, if_pos (finished.mpr hall)]
    have vq : v.port.turns = [] := by rw [hv]; exact hq
    have vs : v.race.snapshot = some h := by rw [hv]; exact hs
    have folded := foldTally_tallyOnly v.stand.label v vq
    have written := endEntry_written (finalOrder v) x _ (folded.turns vq)
    have after := settle_settled x vq vs
    have order : finalOrder v = finalOrder s := by rw [hv]; rfl
    have cursor : (foldTally v.stand.label v).race.cardCursor = s.race.cardCursor := by
      rw [folded.only, hv]; rfl
    have here : readByte (foldTally v.stand.label v) a = readByte s a := by
      rw [folded.spares a fun i => ?_, hv]
      · rfl
      · have := entryAddr_bounds s.race.cardCursor
        have := tallyAddr_bounds i
        simp only [Within, a]
        omega
    rw [← settled, order] at after
    rw [order, cursor] at written
    generalize endEntry (finalOrder s) x (foldTally v.stand.label v) = u at written after
    obtain ⟨only, state, held, spares⟩ := written
    rw [holds_append, orderBytes_length] at held
    obtain ⟨orderHeld, stampHeld⟩ := held
    rw [here] at state
    have label : v.stand.label = s.stand.label := by rw [hv]; rfl
    rw [← foldedUpTo_all] at only spares
    have lanes : t.power.lanes = s.power.lanes.map idleLane := by rw [after, hv]; rfl
    refine ⟨foldedUpTo v, u, hv, fun j => ?_, only, state, fun i hi => ?_, ?_, spares, ?_, fun j => ?_⟩
    · rw [foldedUpTo_succ, label]
    · rw [orderHeld i (by rw [orderBytes_length]; omega)]
      exact orderBytes_get (finalOrder s) i _
    · rw [Nat.add_assoc] at stampHeld
      exact stampHeld.value x.isLt
    · rw [lanes]
      refine after.trans ?_
      rw [hv]
      cases finalOrder s <;> rfl
    · have lane : t.powerLane j = idleLane (s.powerLane j) := by
        change pick t.power.lanes j = _
        rw [lanes]
        exact pick_map _ _ j
      exact ⟨lane, pinHigh_off (by rw [lane]; rfl)⟩

end Sys2Proof.Machine

/-! PROOFS. What race control reads of a heat entry and of the penalty table (R12, R105, R143; O42). -/

namespace Sys2Proof.Machine

open Config

/-! ### The heat entry (R105) -/

theorem readEntry_read (s : State) (i : Fin 32) : HeatEntryRead s i (readEntry s i) := by
  unfold HeatEntryRead
  simp only [readField_one]
  refine ⟨rfl, decide_eq_true_iff, decide_eq_true_iff, fun h => if_pos h, fun h => ?_, fun h => ?_, decide_eq_true_iff, rfl,
    rfl, rfl, rfl, rfl, rfl, fun k => ⟨?_, ?_⟩⟩
  · simp only [readEntry, h]
    rfl
  · simp only [readEntry]
    rw [if_neg (by omega), if_neg (by omega)]
  · simp only [readEntry, pick_tabulate, Nat.add_assoc]
  · simp only [readEntry, pick_tabulate]
    rfl

/-! ### The penalty table (R143) -/

theorem clampAmount_clamped (r : Response) (n : Nat) : AmountClamped r n (clampAmount r n) := by
  cases r <;> simp [AmountClamped, clampAmount, clamp]

theorem clampDuty_clamped (r : Response) (n : Nat) : DutyClamped r n (clampDuty r n) := by
  cases r <;> simp [DutyClamped, clampDuty, clamp]

theorem readResponse_none {b : Byte} (h : b.toNat = 0 ∨ 5 < b.toNat) : readResponse b = .none := by
  unfold readResponse
  split
  case h_6 => rfl
  all_goals omega

theorem readEscalation_amount {b : Byte} (m : Nat) (hlow : 2 ≤ b.toNat) (hhigh : b.toNat ≤ 5) :
    (readEscalation b m).2 = m := by
  obtain h | h | h | h : b.toNat = 2 ∨ b.toNat = 3 ∨ b.toNat = 4 ∨ b.toNat = 5 := by omega
  all_goals simp only [readEscalation, h]

theorem readEscalation_laps {b : Byte} (m : Nat) (h : b.toNat < 2 ∨ 5 < b.toNat) : readEscalation b m = (.laps, 1) := by
  unfold readEscalation
  split
  case h_5 => rfl
  all_goals omega

theorem readRow_read (s : State) (r : Fin 8) : PenaltyRowRead s r (readRow s r) := by
  unfold PenaltyRowRead
  simp only [readField_one, Nat.add_zero]
  refine ⟨fun h => ?_, fun h => ?_, fun h => ?_, fun h => ?_, fun h => ?_, readResponse_none, clampAmount_clamped _ _, ?_, ?_,
    fun h => ?_, fun h => ?_, fun h => ?_, fun h => ?_, fun hlow hhigh => ?_, fun h => ?_, ?_, fun h => if_pos h,
    fun h => if_neg h, clampAmount_clamped _ _⟩
  iterate 5 simp only [readRow, readResponse, h]
  · simp only [readRow, readField_one]
    exact clampDuty_clamped _ _
  · simp only [readRow, readField_one, clamp]
  iterate 4 simp only [readRow, readEscalation, h]
  · simp only [readRow]
    rw [readEscalation_amount _ hlow hhigh]
    exact clampAmount_clamped _ _
  · simp only [readRow, readEscalation_laps _ h]
    trivial
  · simp only [readRow, readField_one]
    exact clampDuty_clamped _ _

end Sys2Proof.Machine

/-! PROOFS. The examination of the card, and the refusals of a READY entry (R103, R104; O42). -/

namespace Sys2Proof.Machine

open Config

/-! ### The racers of a heat, and the room in the tally (R107) -/

theorem mem_occupied (h : HeatSnapshot) (k : Lane) : k ∈ h.occupied ↔ pick h.racers k ≠ 0 := by
  simp [HeatSnapshot.occupied, allLanes_eq]

theorem occupied_racers (h : HeatSnapshot) : (h.occupied.map fun k => pick h.racers k) = heatRacers h := by
  unfold HeatSnapshot.occupied heatRacers
  rw [List.filter_map]
  rfl

theorem newRacers_eq (s : State) (h : HeatSnapshot) : newRacers s h = heatNewRacers s h := by
  unfold newRacers heatNewRacers
  rw [occupied_racers]
  refine List.filter_congr fun r _ => ?_
  rw [List.not_any_eq_all_not]
  rfl

theorem tallyRoom_eq (s : State) : allTally.filter (tallyFree s) = tallyRoom s := rfl

/-! ### The checks of R104 -/

/-- A limit that the heat's end mode uses is 0. -/
def BadLimit (h : HeatSnapshot) : Prop :=
  (h.endMode ≠ .laps ∧ h.timeLimit = 0) ∨ (h.endMode ≠ .time ∧ h.lapLimit = 0)

/-- Two lanes carry the same racer. -/
def RacerTwice (h : HeatSnapshot) : Prop :=
  ∃ j k, j < k ∧ pick h.racers j ≠ 0 ∧ pick h.racers j = pick h.racers k

/-- A lane with a racer has no gate. -/
def LaneNotFitted (s : State) (h : HeatSnapshot) : Prop := ∃ k, pick h.racers k ≠ 0 ∧ (s.geom k).gateCount = 0

theorem badLimit_iff (h : HeatSnapshot) :
    ((h.endMode.timed && decide (h.timeLimit = 0)) || (h.endMode.counted && decide (h.lapLimit = 0))) = true ↔
      BadLimit h := by
  unfold BadLimit
  cases h.endMode <;> simp [EndMode.timed, EndMode.counted]

theorem occupied_eq_nil (h : HeatSnapshot) : h.occupied = [] ↔ ∀ k, pick h.racers k = 0 := by
  simp only [List.eq_nil_iff_forall_not_mem, mem_occupied, not_not]

theorem racerTwice_iff (h : HeatSnapshot) : ¬ (h.occupied.map fun k => pick h.racers k).Nodup ↔ RacerTwice h := by
  have lanes : h.occupied.Nodup := List.Nodup.filter _ (by decide)
  rw [List.nodup_map_iff_inj_on lanes]
  constructor
  · intro hno
    push Not at hno
    obtain ⟨j, hj, k, -, hsame, hne⟩ := hno
    rw [mem_occupied] at hj
    obtain hlt | hlt := lt_or_gt_of_ne hne
    · exact ⟨j, k, hlt, hj, hsame⟩
    · exact ⟨k, j, hlt, hsame ▸ hj, hsame.symm⟩
  · rintro ⟨j, k, hlt, hj, hsame⟩ hinj
    exact hlt.ne (hinj j ((mem_occupied h j).mpr hj) k ((mem_occupied h k).mpr (hsame ▸ hj)) hsame)

theorem laneNotFitted_iff (s : State) (h : HeatSnapshot) :
    (h.occupied.any fun k => decide ((s.geom k).gateCount = 0)) = true ↔ LaneNotFitted s h := by
  simp only [List.any_eq_true, mem_occupied, decide_eq_true_eq, LaneNotFitted]

section
variable {s : State} {h : HeatSnapshot}

theorem refusalReason_noSetup (hload : s.port.setupLoaded = false) : refusalReason s h = some 1 := by
  simp [refusalReason, hload]

variable (hload : s.port.setupLoaded = true)
include hload

theorem refusalReason_badLimit (hbad : BadLimit h) : refusalReason s h = some 2 := by
  unfold refusalReason
  rw [if_neg (by simp [hload]), if_pos ((badLimit_iff h).mpr hbad)]

variable (hgood : ¬ BadLimit h)
include hgood

theorem refusalReason_noRacer (hnone : ∀ k, pick h.racers k = 0) : refusalReason s h = some 6 := by
  unfold refusalReason
  rw [if_neg (by simp [hload]), if_neg (mt (badLimit_iff h).mp hgood), if_pos ((occupied_eq_nil h).mpr hnone)]

variable (hsome : ∃ k, pick h.racers k ≠ 0)
include hsome

theorem refusalReason_racers : refusalReason s h =
    if ¬ (h.occupied.map fun k => pick h.racers k).Nodup then some 3
    else if h.occupied.any fun k => decide ((s.geom k).gateCount = 0) then some 4
    else if (tallyRoom s).length < (heatNewRacers s h).length then some 5
    else none := by
  obtain ⟨k, hk⟩ := hsome
  rw [← newRacers_eq]
  unfold refusalReason
  rw [if_neg (by simp [hload]), if_neg (mt (badLimit_iff h).mp hgood), if_neg fun hnil => hk ((occupied_eq_nil h).mp hnil k)]
  rfl

theorem refusalReason_twice (htwice : RacerTwice h) : refusalReason s h = some 3 := by
  rw [refusalReason_racers hload hgood hsome, if_pos ((racerTwice_iff h).mpr htwice)]

theorem refusalReason_notFitted (honce : ¬ RacerTwice h) (hout : LaneNotFitted s h) : refusalReason s h = some 4 := by
  rw [refusalReason_racers hload hgood hsome, if_neg (mt (racerTwice_iff h).mp honce),
    if_pos ((laneNotFitted_iff s h).mpr hout)]

theorem refusalReason_tally (honce : ¬ RacerTwice h) (hfit : ¬ LaneNotFitted s h) : refusalReason s h =
    if (tallyRoom s).length < (heatNewRacers s h).length then some 5 else none := by
  rw [refusalReason_racers hload hgood hsome, if_neg (mt (racerTwice_iff h).mp honce),
    if_neg (mt (laneNotFitted_iff s h).mp hfit)]

end

/-! ### The examination of the card (R103) -/

theorem examineCard_waits {s : State} (hq : s.port.turns = [])
    (h : s.time.idleNow = true ∨ readByte s (entryAddr s.race.cardCursor) ≠ 1) : examineCard s = s := by
  unfold examineCard
  dsimp only
  rw [deviceRead_idle s hq]
  split
  next => rfl
  next hno =>
    refine if_neg (h.resolve_left fun hidle => hno (.inr hidle))

theorem examineCard_ready {s : State} (hq : s.port.turns = []) (hr : s.race.state = .idle) (hi : s.time.idleNow = false)
    (hready : readByte s (entryAddr s.race.cardCursor) = 1) :
    let h := readEntry s s.race.cardCursor
    examineCard s = match refusalReason s h with
      | some reason => refuseEntry reason h.label s
      | none => stageEntry h (newEntries s h) s := by
  intro h
  have looked : examineCard s = examineEntry s := by
    unfold examineCard
    dsimp only
    rw [deviceRead_idle s hq, if_neg (by simp [hr, hi]), if_pos hready]
  rw [looked]
  unfold examineEntry
  simp only [gather_idle s hq]
  rfl

/-- A refusal of a READY entry with a reason of one byte. -/
theorem refuseEntry_refused {s : State} {reason : Nat} (label : Byte) (hq : s.port.turns = [])
    (hready : readByte s (entryAddr s.race.cardCursor) = 1) (hreason : reason < 256) :
    let a := entryAddr s.race.cardCursor
    ∃ u, u = { s with mem := u.mem } ∧ readByte u a = 5 ∧ readField u (a + 7) 1 = reason ∧
      (∀ j, j ≠ a → j ≠ a + 7 → readByte u j = readByte s j) ∧
      refuseEntry reason label s = deliver (plainNotice .heat 2 label (now s) s.race.cardCursor.val reason) u := by
  intro a
  have hb : 0x400 ≤ a ∧ a + 64 ≤ 0xC00 := entryAddr_bounds s.race.cardCursor
  have hmem : memSize = 0x8000 := rfl
  obtain ⟨w, hw⟩ : ∃ w, w = writeBytes (a + 7) [BitVec.ofNat 8 reason] s := ⟨_, rfl⟩
  have only : w = { s with mem := w.mem } := by rw [hw]; rfl
  have outside : ∀ j, j ≠ a + 7 → readByte w j = readByte s j := fun j hj => by
    rw [hw, readByte_writeBytes_outside _ _ _ _ (by simp; omega)]
  have held : readByte w (a + 7) = BitVec.ofNat 8 reason := by rw [hw, readByte_writeByte_same _ _ _ (by omega)]
  have wq : w.port.turns = [] := by rw [only]; exact hq
  have checked : readByte w a &&& 0xFF = 1 := BitVec.and_allOnes.trans ((outside a (by omega)).trans hready)
  have low : ∀ j, j ≠ a → readByte (writeBytes a [5] w) j = readByte w j := fun j hj =>
    readByte_writeBytes_outside _ _ _ _ (by simp; omega)
  refine ⟨writeBytes a [5] w, by rw [only]; rfl, readByte_writeByte_same _ _ _ (by omega), ?_, fun j hj h7 => ?_, ?_⟩
  · rw [readField_one, low _ (by omega), held, BitVec.toNat_ofNat]
    omega
  · rw [low j hj, outside j h7]
  · have stamp : now w = now s := by rw [only]; rfl
    have cursor : (writeBytes a [5] w).race.cardCursor = s.race.cardCursor := by rw [only]; rfl
    unfold refuseEntry heatNotice
    simp only [deviceWrite_idle s hq, recheck_idle w wq, deviceWrite_idle w wq, checked, decide_true, if_true, stamp, cursor,
      ← hw, a]

end Sys2Proof.Machine

/-! PROOFS. A READY entry staged, with the new racers' tally entries (R106, R107, R142, R160, R169, R172; O42). -/

namespace Sys2Proof.Machine

open Config

/-! ### The penalty table is read by its own bytes (R142) -/

theorem readField_congr {s t : State} {a n : Nat} (h : ∀ j, Within a n j → readByte t j = readByte s j) :
    readField t a n = readField s a n := by
  unfold readField readBytes
  congr 1
  exact List.map_congr_left fun i hi => h _ ⟨by omega, by have := List.mem_range.mp hi; omega⟩

theorem readRow_congr {s t : State} {r : Fin 8} (h : ∀ j, Within (rowAddr r) 12 j → readByte t j = readByte s j) :
    readRow t r = readRow s r := by
  have byte : ∀ n, n < 12 → readByte t (rowAddr r + n) = readByte s (rowAddr r + n) := fun n hn =>
    h _ ⟨by omega, by omega⟩
  have field : ∀ n l, n + l ≤ 12 → readField t (rowAddr r + n) l = readField s (rowAddr r + n) l := fun n l hn =>
    readField_congr fun j hj => h j (by simp only [Within] at hj ⊢; omega)
  have first : readByte t (rowAddr r) = readByte s (rowAddr r) := byte 0 (by omega)
  simp only [readRow, first, byte 5 (by omega), byte 9 (by omega), field 1 2 (by omega), field 3 1 (by omega),
    field 4 1 (by omega), field 6 2 (by omega), field 8 1 (by omega), field 10 2 (by omega)]

theorem rowAddr_bounds (r : Fin 8) : 0x100 ≤ rowAddr r ∧ rowAddr r + 16 ≤ 0x180 := by
  unfold rowAddr penaltyBase
  omega

/-! ### The entry written RUNNING (R106) -/

/-- The entry with reason, final order and settle stamp 0, reading RUNNING. -/
def runEntry (s : State) : State :=
  let a := entryAddr s.race.cardCursor
  writeBytes a [2] (writeBytes (a + 36) (List.replicate 13 0) (writeBytes (a + 7) [0] s))

theorem runEntry_written (s : State) :
    let a := entryAddr s.race.cardCursor
    let w := runEntry s
    w = { s with mem := w.mem } ∧ readByte w a = 2 ∧ readByte w (a + 7) = 0 ∧
      (∀ j, Within (a + 36) 13 j → readByte w j = 0) ∧
      ∀ j, j ≠ a → j ≠ a + 7 → ¬ Within (a + 36) 13 j → readByte w j = readByte s j := by
  have hb := entryAddr_bounds s.race.cardCursor
  have hmem : memSize = 0x8000 := rfl
  unfold runEntry
  generalize entryAddr s.race.cardCursor = a at hb
  intro a' w
  have state : ∀ (v : State) j, j ≠ a → readByte (writeBytes a [2] v) j = readByte v j := fun v j hj =>
    readByte_writeBytes_outside _ _ _ _ (by simp; omega)
  have order : ∀ (v : State) j, ¬ Within (a + 36) 13 j →
      readByte (writeBytes (a + 36) (List.replicate 13 0) v) j = readByte v j := fun v j hj => by
    simp only [Within] at hj
    exact readByte_writeBytes_outside _ _ _ _ (by simp; omega)
  refine ⟨rfl, readByte_writeByte_same _ _ _ (by omega), ?_, fun j hj => ?_, fun j ha h7 ho => ?_⟩
  · rw [state _ _ (by omega), order _ _ (by simp only [Within]; omega), readByte_writeByte_same _ _ _ (by omega)]
  · simp only [Within] at hj
    obtain ⟨n, rfl⟩ : ∃ n, j = a + 36 + n := ⟨j - (a + 36), by omega⟩
    rw [state _ _ (by omega), readByte_writeBytes_inside _ _ _ _ (by simp; omega) (by omega), List.getElem_replicate]
  · rw [state _ _ ha, order _ _ ho, readByte_writeBytes_outside _ _ _ _ (by simp; omega)]

theorem stageEntry_eq {s : State} (h : HeatSnapshot) (fresh : List (Byte × Fin 64)) (hq : s.port.turns = [])
    (hready : readByte s (entryAddr s.race.cardCursor) = 1) :
    stageEntry h fresh s = stage h fresh (now s) (runEntry s) := by
  have hb := entryAddr_bounds s.race.cardCursor
  unfold stageEntry runEntry
  generalize entryAddr s.race.cardCursor = a at hb hready
  obtain ⟨w, hw⟩ : ∃ w, w = writeBytes (a + 36) (List.replicate 13 0) (writeBytes (a + 7) [0] s) := ⟨_, rfl⟩
  have only : w = { s with mem := w.mem } := by rw [hw]; rfl
  have wq : w.port.turns = [] := by rw [only]; exact hq
  have stamp : now w = now s := by rw [only]; rfl
  have state : readByte w a = 1 := by
    rw [hw, readByte_writeBytes_outside _ _ _ _ (by simp), readByte_writeBytes_outside _ _ _ _ (by simp), hready]
  have checked : readByte w a &&& 0xFF = 1 := BitVec.and_allOnes.trans state
  have seven : (writeBytes (a + 7) [0] s).port.turns = [] := hq
  simp only [deviceWrite_idle s hq, deviceWrite_idle _ seven, ← hw, recheck_idle w wq, deviceWrite_idle w wq, checked,
    decide_true, if_true, stamp]

/-! ### The new racers' tally entries (R107) -/

theorem createTally_zero {s : State} {racers : List Byte} {room : List (Fin 64)} (hroom : room.Nodup)
    (hq : s.port.turns = []) :
    let t := createTally (racers.zip room) s
    t = { s with mem := t.mem } ∧
      (∀ (i : Nat) r e, racers[i]? = some r → room[i]? = some e → EntryZero 1 r (tallyAddr e) s t) ∧
      ∀ j, (∀ (i : Nat) e, i < racers.length → room[i]? = some e → ¬ Within (tallyAddr e) 27 j) →
        readByte t j = readByte s j := by
  have once : ((racers.zip room).map Prod.snd).Nodup := by
    rw [List.zip_eq_zip_take_min, List.map_snd_zip (by simp)]
    exact hroom.sublist (List.take_sublist _ _)
  obtain ⟨only, zero, spares⟩ := writeTallyZeros_zero 1 (racers.zip room) once s hq
  refine ⟨only, fun i r e hr he => ?_, fun j hj => spares j fun e he => ?_⟩
  · exact zero (r, e) (List.mem_of_getElem? (List.getElem?_zip_eq_some.mpr ⟨hr, he⟩))
  · obtain ⟨i, hi⟩ := List.mem_iff_getElem?.mp he
    obtain ⟨hr, he⟩ := List.getElem?_zip_eq_some.mp hi
    exact hj i e.2 (List.getElem?_eq_some_iff.mp hr).1 he

/-! ### The blocks at a staging -/

/-- A lane at lane power as a staging leaves it (R169). -/
def stagedLane (h : HeatSnapshot) (k : Lane) (l : PowerLane) : PowerLane :=
  { l with occupied := decide (pick h.racers k ≠ 0), finished := false, cardCap := pick h.caps k, serving := none,
           cond := false, rampStart := none, mode := .off, nextPin := none }

/-- Race control at a staging (R106), its call counts aside. -/
def stagedRace (h : HeatSnapshot) (x : Stamp) (r : RaceControl) : RaceControl :=
  { r with snapshot := some h, state := .staged, stagedStamp := x, finishedSet := Vector.replicate 8 false,
           runoutDeadline := none, runoutWait := false }

/-- Every block at a staging, once race control has begun it and the tally entries are there (R106, R142, R169, R172). -/
def stagedBlocks (h : HeatSnapshot) (x : Stamp) (v : State) : State :=
  { v with
    race := { v.race with
      callCount := 0, callsUsed := Vector.replicate 8 0, lastCallSource := none, lastCallWho := 0 }
    laps := { v.laps with changes := v.laps.changes ++
      [{ kind := .staging h.label h.gridOn h.minLap h.racers, stamp := x }] }
    time := { v.time with racingTicks := 0 }
    pen := { v.pen with
      table := some (tabulate (readRow v)), heatStaged := true, serial := 0, label := h.label,
      lanes := tabulate fun k => { PenLane.reset with
        racer := pick h.racers k, serveStamp := (v.penLane k).serveStamp } }
    power := { v.power with
      state := .staged, liveGrid := h.liveGrid, lanes := tabulate fun k => stagedLane h k (v.powerLane k) }
    stand := { order := h.occupied, label := h.label, racers := h.racers,
               lanes := tabulate fun k => { StandLane.reset with position := placeIn h.occupied k } } }

theorem powerStaging_eq (h : HeatSnapshot) (x : Stamp) (s : State) :
    powerStaging h x s = { s with power := { s.power with
      state := .staged, liveGrid := h.liveGrid, lanes := tabulate fun k => stagedLane h k (s.powerLane k) } } := by
  unfold powerStaging
  rw [powerRace_off .staged x _ (.inr (.inl rfl))]
  have lanes : ∀ k, turnOff (pick (tabulate fun k => { s.powerLane k with
      occupied := decide (pick h.racers k ≠ 0), finished := false, cardCap := pick h.caps k, serving := none,
      rampStart := none }) k) = stagedLane h k (s.powerLane k) := fun k => by
    rw [pick_tabulate]
    rfl
  exact congrArg (fun ls => ({ s with power := { s.power with
    state := .staged, liveGrid := h.liveGrid, lanes := ls } } : State)) (congrArg tabulate (funext lanes))

theorem standStaging_eq (h : HeatSnapshot) (s : State) :
    standStaging h s = { s with stand := {
      order := h.occupied, label := h.label, racers := h.racers,
      lanes := tabulate fun k => { StandLane.reset with position := placeIn h.occupied k } } } := by
  unfold standStaging setOrder State.onStand
  have lanes : ∀ k, pick (Vector.replicate 8 StandLane.reset) k = StandLane.reset := fun k => by simp [pick]
  simp only [lanes]
  rfl

theorem stageHeat_eq (h : HeatSnapshot) (fresh : List (Byte × Fin 64)) (x : Stamp) (w : State) :
    let v := createTally fresh (w.onRace (stagedRace h x))
    v.port.turns = [] →
    stageHeat h fresh x w =
      deliver (plainNotice .heat 1 h.label x v.race.cardCursor.val h.occupied.length) (stagedBlocks h x v) := by
  intro v hq
  have unfolded : stageHeat h fresh x w = heatNotice 1 h.label x h.occupied.length ((powerStaging h x (standStaging h
      (penStaging h ((handChange (.staging h.label h.gridOn h.minLap h.racers) x v).onTime fun t => { t with
        racingTicks := 0 })))).onRace fun r => { r with
      callCount := 0, callsUsed := Vector.replicate 8 0, lastCallSource := none, lastCallWho := 0 }) := rfl
  rw [unfolded]
  clear_value v
  rw [powerStaging_eq, standStaging_eq]
  unfold penStaging
  rw [gather_idle _ (by exact hq)]
  rfl

theorem newEntries_eq (s : State) (h : HeatSnapshot) : newEntries s h = (newRacers s h).zip (tallyRoom s) := rfl

/-- A READY entry staged, its new racers each with a FREE tally entry (R106, R107). -/
theorem stageHeat_staged {s : State} (h : HeatSnapshot) (hq : s.port.turns = []) :
    HeatStaged h s (stageHeat h (newEntries s h) (now s) (runEntry s)) := by
  obtain ⟨ran, state, reason, order, others⟩ := runEntry_written s
  obtain ⟨w, hw⟩ : ∃ w, w = (runEntry s).onRace (stagedRace h (now s)) := ⟨_, rfl⟩
  have wbyte : ∀ j, readByte w j = readByte (runEntry s) j := fun j => by rw [hw]; rfl
  have wonly : w = { s with mem := w.mem, race := stagedRace h (now s) s.race } := by rw [hw, ran]; rfl
  have room : (tallyRoom s).Nodup := (List.nodup_finRange 64).filter _
  obtain ⟨only, zero, spares⟩ := createTally_zero (racers := newRacers s h) room (s := w) (by rw [wonly]; exact hq)
  have staged := stageHeat_eq h (newEntries s h) (now s) (runEntry s)
  obtain ⟨v, hv⟩ : ∃ v, v = createTally ((newRacers s h).zip (tallyRoom s)) w := ⟨_, rfl⟩
  rw [newEntries_eq] at staged ⊢
  rw [← hw, ← hv] at staged
  rw [← hv] at only zero spares
  rw [newRacers_eq] at zero spares
  have vonly : v = { s with mem := v.mem, race := stagedRace h (now s) s.race } := by rw [only, wonly]
  have hb := entryAddr_bounds s.race.cardCursor
  have low : ∀ j, j < 0x1600 → readByte v j = readByte (runEntry s) j := fun j hj => by
    refine (spares j fun i e _ _ hin => ?_).trans (wbyte j)
    have := tallyAddr_bounds e
    simp only [Within] at hin
    omega
  have high : ∀ j, 0x1600 ≤ j → readByte w j = readByte s j := fun j hj => by
    rw [wbyte, others j (by omega) (by omega) (by simp only [Within]; omega)]
  have rows : readRow v = readRow s := funext fun r => readRow_congr fun j hj => by
    have := rowAddr_bounds r
    simp only [Within] at hj
    rw [low j (by omega), others j (by omega) (by omega) (by simp only [Within]; omega)]
  refine ⟨stagedBlocks h (now s) v, ?_, fun k => ⟨?_, ?_, ?_⟩, ?_, ?_, fun j hj => ?_, fun i r e hr he => ?_,
    fun j ha h7 ho htally => ?_, ?_⟩
  · unfold stagedBlocks
    rw [rows]
    generalize v.mem = m at vonly
    rw [vonly]
    rfl
  · refine (pick_tabulate _ k).trans ?_
    rw [vonly]
    rfl
  · refine (pick_tabulate _ k).trans ?_
    rw [vonly]
    rfl
  · exact pick_tabulate _ k
  · exact (low _ (by omega)).trans state
  · exact (low _ (by omega)).trans reason
  · exact (low j (by simp only [Within] at hj; omega)).trans (order j hj)
  · have be := tallyAddr_bounds e
    obtain ⟨used, racer, count, totals⟩ := zero i r e hr he
    exact ⟨used, racer, by rw [← high _ (by omega)]; exact count, totals⟩
  · exact (spares j htally).trans ((wbyte j).trans (others j ha h7 ho))
  · rw [staged (by rw [vonly]; exact hq), vonly]
    rfl

/-- A staging leaves every lane off. -/
theorem HeatStaged.off {h : HeatSnapshot} {s t : State} (staged : HeatStaged h s t) (k : Lane) :
    (t.powerLane k).cond = false := by
  obtain ⟨u, -, lanes, -, -, -, -, -, rfl⟩ := staged
  obtain ⟨-, lane, -⟩ := lanes k
  obtain ⟨-, -, -, -, -, -, -, power, -, -⟩ := deliver_keeps
    (plainNotice .heat 1 h.label (now s) s.race.cardCursor.val (allLanes.filter fun k => pick h.racers k ≠ 0).length) u
  have same : (deliver (plainNotice .heat 1 h.label (now s) s.race.cardCursor.val
      (allLanes.filter fun k => pick h.racers k ≠ 0).length) u).powerLane k = u.powerLane k :=
    congrArg (fun p : LanePower => pick p.lanes k) power
  rw [same, lane]

theorem HeatStaged.snapshot {h : HeatSnapshot} {s t : State} (staged : HeatStaged h s t) : t.race.snapshot = some h := by
  obtain ⟨u, blocks, -, -, -, -, -, -, rfl⟩ := staged
  obtain ⟨-, -, -, -, race, -⟩ := deliver_keeps
    (plainNotice .heat 1 h.label (now s) s.race.cardCursor.val (allLanes.filter fun k => pick h.racers k ≠ 0).length) u
  rw [race, blocks]

/-- A READY entry that passes every check is staged, and an AUTO heat with a gap of 0 enters COUNTDOWN at once (R108). -/
theorem examineCard_stages {s : State} (hq : s.port.turns = []) (hr : s.race.state = .idle) (hi : s.time.idleNow = false)
    (hready : readByte s (entryAddr s.race.cardCursor) = 1)
    (hpass : refusalReason s (readEntry s s.race.cardCursor) = none) :
    let h := readEntry s s.race.cardCursor
    ∃ u, HeatStaged h s u ∧ (h.startHeld = true ∨ 0 < h.gap → examineCard s = u) ∧
      (h.startHeld = false → h.gap = 0 → CountdownEntered (now s) u (examineCard s)) := by
  have examined := examineCard_ready hq hr hi hready
  dsimp only at examined
  rw [hpass] at examined
  dsimp only at examined
  generalize readEntry s s.race.cardCursor = h at examined
  intro h'
  have staged := stageHeat_staged h hq
  rw [stageEntry_eq _ _ hq hready, stage_eq] at examined
  generalize stageHeat h (newEntries s h) (now s) (runEntry s) = u at staged examined
  refine ⟨u, staged, fun hwait => examined.trans (if_neg ?_), fun hauto hgap => ?_⟩
  · simp only [Bool.and_eq_true, Bool.not_eq_true', decide_eq_true_eq]
    rintro ⟨hauto, hgap⟩
    obtain hheld | hlong := hwait
    · exact absurd hheld (Bool.eq_false_iff.mp hauto)
    · exact hlong.ne' hgap
  · rw [examined, if_pos (by simp only [Bool.and_eq_true, Bool.not_eq_true', decide_eq_true_eq]; exact ⟨hauto, hgap⟩)]
    exact enterCountdown_entered (now s) u staged.snapshot staged.off

/-- Settles O42 (`readEntry_read`, `readRow_read`, `refuseEntry_refused`, `stageHeat_staged`). -/
theorem readyEntryIsStagedOrRefused : Obligations.ReadyEntryIsStagedOrRefused := by
  intro s hq hr a h t refused badLimit twice notFitted full
  have refuses : ∀ reason, s.time.idleNow = false → readByte s a = 1 → refusalReason s h = some reason → reason < 256 →
      refused reason := fun reason hi hready hreason hbyte => by
    have examined := examineCard_ready hq hr hi hready
    dsimp only at examined
    rw [hreason] at examined
    obtain ⟨u, only, state, why, others, delivered⟩ := refuseEntry_refused h.label hq hready hbyte
    exact ⟨u, only, state, why, others, examined.trans delivered⟩
  refine ⟨readEntry_read s _, readRow_read s, fun hwait => examineCard_waits hq hwait, fun hi hready => ?_⟩
  refine ⟨fun hload => refuses 1 hi hready (refusalReason_noSetup hload) (by decide), fun hload => ?_⟩
  refine ⟨fun hbad => refuses 2 hi hready (refusalReason_badLimit hload hbad) (by decide),
    fun hgood hnone => refuses 6 hi hready (refusalReason_noRacer hload hgood hnone) (by decide),
    fun hgood htwice => ?_, fun hgood honce hout => ?_, fun hgood hsome honce hfit => ⟨fun hfull => ?_, fun hroom => ?_⟩⟩
  · obtain ⟨j, k, hlt, hj, hsame⟩ := htwice
    exact refuses 3 hi hready (refusalReason_twice hload hgood ⟨j, hj⟩ ⟨j, k, hlt, hj, hsame⟩) (by decide)
  · obtain ⟨k, hk, hgate⟩ := hout
    exact refuses 4 hi hready (refusalReason_notFitted hload hgood ⟨k, hk⟩ honce ⟨k, hk, hgate⟩) (by decide)
  · have reason := refusalReason_tally hload hgood hsome honce hfit
    rw [if_pos hfull] at reason
    exact refuses 5 hi hready reason (by decide)
  · have reason := refusalReason_tally hload hgood hsome honce hfit
    rw [if_neg hroom] at reason
    exact examineCard_stages hq hr hi hready reason

end Sys2Proof.Machine
